-- ==== Sys2Proof/Word.lean ====
section
/-! DEFINITION. The word types of the device and their plainest arithmetic (spec/00_scope.md R3). -/
namespace Sys2Proof

/-- A 64-bit data word (dword, R3). -/
abbrev Word := BitVec 64

/-- A 16-bit instruction word (R26). -/
abbrev Half := BitVec 16

/-- The 128 bits of a register or a memory granule (quad, R3). -/
abbrev Quad := BitVec 128

/-- A byte of memory. -/
abbrev Byte := BitVec 8

/-- A virtual address (R77). -/
abbrev VAddr := BitVec 48

/-- A logical tile name as a number below 2^19: module [18:15], zone [14:8], index [7:0] (R12). -/
abbrev Ltn := Nat

/-- Number of one of the registers c0-c15 (R76). -/
abbrev RegNo := BitVec 4

/-- Number of one of the predicates p0-p7 (R80). -/
abbrev PredNo := BitVec 3

/-- The name `ltn(m,z,i)` of R52. -/
def ltnOf (m z i : Nat) : Ltn := m * 32768 + z * 256 + i

/-- Module number of a name (R12). -/
def ltnModule (t : Ltn) : Nat := t / 32768

/-- Zone number of a name (R12). -/
def ltnZone (t : Ltn) : Nat := t / 256 % 128

/-- Logical index of a name (R12). -/
def ltnIndex (t : Ltn) : Nat := t % 256

/-- Module and zone of a name as one number: the key of a zone. -/
def ltnField (t : Ltn) : Nat := t / 256

/-- Sign extension of an n-bit value held in a 64-bit word (R8 SignExt). -/
def sext (n : Nat) (x : Word) : Word := (x.setWidth n).signExtend 64

/-- Zero extension of an n-bit value held in a 64-bit word (R8 ZeroExt). -/
def zext (n : Nat) (x : Word) : Word := (x.setWidth n).setWidth 64

/-- Least significant set bit of a word, if any, counted from bit 0. -/
def lowestSet (x : Word) : Option Nat := (List.range 64).find? (fun i => x.getLsbD i)

/-- The number of set bits of a word. -/
def popcount (x : Word) : Nat := ((List.range 64).filter (fun i => x.getLsbD i)).length

/-- Leading zeros of a word, 0-64 (R87). -/
def leadingZeros (x : Word) : Nat := ((List.range 64).reverse.takeWhile (fun i => !x.getLsbD i)).length

/-- Trailing zeros of a word, 0-64 (R87). -/
def trailingZeros (x : Word) : Nat := ((List.range 64).takeWhile (fun i => !x.getLsbD i)).length

/-- The low 48 bits of a word, an address or a cursor. -/
def addrOf (x : Word) : VAddr := x.setWidth 48

/-- The bytes of a value, the byte of bits [7:0] first (R3). -/
def bytesOf (n : Nat) (x : Nat) : List Byte := (List.range n).map fun i => BitVec.ofNat 8 (x / 256 ^ i)

/-- The value of a byte list, first byte least significant (R3). -/
def ofBytes : List Byte → Nat
  | [] => 0
  | b :: bs => b.toNat + 256 * ofBytes bs

/-- Replace the entry of key `k` in an association list, or add it at the end. -/
def assocSet {α : Type} (k : Nat) (v : α) : List (Nat × α) → List (Nat × α)
  | [] => [(k, v)]
  | (k', v') :: r => if k' = k then (k, v) :: r else (k', v') :: assocSet k v r

/-- The entry of key `k` in an association list, or a default. -/
def assocGet {α : Type} (k : Nat) (dflt : α) : List (Nat × α) → α
  | [] => dflt
  | (k', v') :: r => if k' = k then v' else assocGet k dflt r

/-- Replace position `i` of a list by the value of `f` there. -/
def listUpd {α : Type} (l : List α) (i : Nat) (f : α → α) : List α :=
  match l, i with
  | [], _ => []
  | a :: r, 0 => f a :: r
  | a :: r, i + 1 => a :: listUpd r i f

end Sys2Proof
end

