-- ==== Sys2Proof/Syntax.lean ====
section
/-! DEFINITION. The instructions and machine events of the EW9-2416: one constructor of `Instr` for every row of
spec/opcode_table.json (spec/02_encoding.md R26-R46; spec/95_what_each_step_holds.md for the events). -/
namespace Sys2Proof

/-- The prefix words of an instruction besides XP, whose presence the page fixes (R32, R33): an XR word with its
guard, an XM word, and the number of XI words.  The high register bits that XR carries are in the register numbers. -/
structure Pfx where
  xr    : Bool
  guard : PredNo
  neg   : Bool
  xm    : Bool
  xi    : Nat
  deriving DecidableEq, Repr

/-- An instruction with no XR, XM or XI word. -/
def Pfx.none : Pfx := { xr := false, guard := 0, neg := false, xm := false, xi := 0 }

/-- XM order (R37). -/
inductive Order where
  | plain | acquire | release | sc
  deriving DecidableEq, Repr

/-- XM scope (R37). -/
inductive Scope where
  | tile | field | module | system
  deriving DecidableEq, Repr

/-- The element formats of R37, codes 0-10. -/
inductive Fmt where
  | i8 | u8 | i16 | i32 | i64 | f32 | bf16 | f16 | e4 | e5 | f4b
  deriving DecidableEq, Repr

/-- Width code of `ext` (R87). -/
inductive ExtW where
  | b | h | w
  deriving DecidableEq, Repr

/-- Operation of `garr` (R44). -/
inductive GOp where
  | add | min | minu | max | maxu | and | or | xor
  deriving DecidableEq, Repr

/-- Comparison code of `vcmp` (R149). -/
inductive VCmp where
  | eq | ne | lt | le | gt | ge | ord | uno
  deriving DecidableEq, Repr

/-- One constructor for every row of the opcode table.  In the encoded instructions `p` holds the prefixes, d, a and
b are register numbers with XR's high bit, pd pa pb predicates, `imm` and `off` immediates as R34 forms them (before
scaling), `fmt` the XM element code with none for code 0.  In the machine events the operands name the agent that acts: `t` a
tile, `core` and `slot` within it, `th` a thread, `pk` a packet, `g` a gang's key. -/
inductive Instr where
  -- page 0 (R41)
  | nop (p : Pfx)
  | add (p : Pfx) (d a b : RegNo)
  | sub (p : Pfx) (d a b : RegNo)
  | mul (p : Pfx) (d a b : RegNo)
  | mulh (p : Pfx) (d a b : RegNo) (u : Bool)
  | div (p : Pfx) (d a b : RegNo) (u : Bool)
  | rem (p : Pfx) (d a b : RegNo) (u : Bool)
  | and (p : Pfx) (d a b : RegNo)
  | or (p : Pfx) (d a b : RegNo)
  | xor (p : Pfx) (d a b : RegNo)
  | andn (p : Pfx) (d a b : RegNo)
  | shl (p : Pfx) (d a b : RegNo)
  | shr (p : Pfx) (d a b : RegNo)
  | sar (p : Pfx) (d a b : RegNo)
  | rol (p : Pfx) (d a b : RegNo)
  | min (p : Pfx) (d a b : RegNo) (u : Bool)
  | max (p : Pfx) (d a b : RegNo) (u : Bool)
  | addi (p : Pfx) (d a : RegNo) (imm : Word)
  | andi (p : Pfx) (d a : RegNo) (imm : Word)
  | ori (p : Pfx) (d a : RegNo) (imm : Word)
  | xori (p : Pfx) (d a : RegNo) (imm : Word)
  | shli (p : Pfx) (d a : RegNo) (imm : Word)
  | shri (p : Pfx) (d a : RegNo) (imm : Word)
  | sari (p : Pfx) (d a : RegNo) (imm : Word)
  | movi (p : Pfx) (d : RegNo) (imm : Word)
  | mov (p : Pfx) (d a : RegNo)
  | cmpeq (p : Pfx) (pd : PredNo) (a b : RegNo) (ne : Bool)
  | cmplt (p : Pfx) (pd : PredNo) (a b : RegNo) (u : Bool)
  | cmple (p : Pfx) (pd : PredNo) (a b : RegNo) (u : Bool)
  | cmpieq (p : Pfx) (pd : PredNo) (a : RegNo) (imm : Word)
  | cmpilt (p : Pfx) (pd : PredNo) (a : RegNo) (imm : Word)
  | clz (p : Pfx) (d a : RegNo) (tz : Bool)
  | popc (p : Pfx) (d a : RegNo)
  | ext (p : Pfx) (d a : RegNo) (w : ExtW) (z : Bool)
  | ldB (p : Pfx) (d a : RegNo) (imm : Word) (o : Order) (sc : Scope)
  | ldH (p : Pfx) (d a : RegNo) (imm : Word) (o : Order) (sc : Scope)
  | ldW (p : Pfx) (d a : RegNo) (imm : Word) (o : Order) (sc : Scope)
  | ldD (p : Pfx) (d a : RegNo) (imm : Word) (o : Order) (sc : Scope)
  | ldQ (p : Pfx) (d a : RegNo) (imm : Word) (o : Order) (sc : Scope)
  | stB (p : Pfx) (d a : RegNo) (imm : Word) (o : Order) (sc : Scope)
  | stH (p : Pfx) (d a : RegNo) (imm : Word) (o : Order) (sc : Scope)
  | stW (p : Pfx) (d a : RegNo) (imm : Word) (o : Order) (sc : Scope)
  | stD (p : Pfx) (d a : RegNo) (imm : Word) (o : Order) (sc : Scope)
  | stQ (p : Pfx) (d a : RegNo) (imm : Word) (o : Order) (sc : Scope)
  | ldp (p : Pfx) (d a : RegNo) (imm : Word) (o : Order) (sc : Scope)
  | stp (p : Pfx) (d a : RegNo) (imm : Word) (o : Order) (sc : Scope)
  | br (p : Pfx) (pp : PredNo) (n : Bool) (off : Word)
  | jmp (p : Pfx) (off : Word)
  | call (p : Pfx) (off : Word)
  | jr (p : Pfx) (a : RegNo)
  | callr (p : Pfx) (a : RegNo)
  | ret (p : Pfx)
  | rds (p : Pfx) (d : RegNo) (n : BitVec 7)
  | wrs (p : Pfx) (d : RegNo) (n : BitVec 7)
  | yield (p : Pfx)
  | trap (p : Pfx) (code : Word)
  | lea (p : Pfx) (d : RegNo) (imm : Word)
  | cadd (p : Pfx) (d a b : RegNo)
  | caddi (p : Pfx) (d a : RegNo) (imm : Word)
  /-- An unassigned base encoding (R45): its page, the base word, and its position in the chain. -/
  | unassignedOpcode (page : BitVec 2) (base : Half) (pos : BitVec 3)
  -- page 1 (R42)
  | pand (p : Pfx) (pd pa pb : PredNo)
  | por (p : Pfx) (pd pa pb : PredNo)
  | pxor (p : Pfx) (pd pa pb : PredNo)
  | pnot (p : Pfx) (pd pa : PredNo)
  | pmov (p : Pfx) (pd pa : PredNo)
  | cset (p : Pfx) (d a b : RegNo)
  | cgetb (p : Pfx) (d a : RegNo)
  | cgetl (p : Pfx) (d a : RegNo)
  | cperm (p : Pfx) (d a b : RegNo)
  | ctag (p : Pfx) (pd : PredNo) (a : RegNo)
  | cclr (p : Pfx) (d a : RegNo)
  | cgeta (p : Pfx) (d a : RegNo)
  | cfrom (p : Pfx) (d a b : RegNo)
  | ldc (p : Pfx) (d a : RegNo) (imm : Word) (o : Order) (sc : Scope)
  | stc (p : Pfx) (d a : RegNo) (imm : Word) (o : Order) (sc : Scope)
  | lds (p : Pfx) (d a : RegNo) (imm : Word) (o : Order) (sc : Scope)
  | ldk (p : Pfx) (d a : RegNo) (imm : Word) (o : Order) (sc : Scope)
  | sts (p : Pfx) (d a : RegNo) (imm : Word) (o : Order) (sc : Scope)
  | fes (p : Pfx) (a : RegNo) (full : Bool)
  | fer (p : Pfx) (pd : PredNo) (a : RegNo) (o : Order) (sc : Scope)
  | aadd (p : Pfx) (a b : RegNo) (w : Bool) (o : Order) (sc : Scope)
  | aor (p : Pfx) (a b : RegNo) (w : Bool) (o : Order) (sc : Scope)
  | aand (p : Pfx) (a b : RegNo) (w : Bool) (o : Order) (sc : Scope)
  | axor (p : Pfx) (a b : RegNo) (w : Bool) (o : Order) (sc : Scope)
  | amin (p : Pfx) (a b : RegNo) (w u : Bool) (o : Order) (sc : Scope)
  | amax (p : Pfx) (a b : RegNo) (w u : Bool) (o : Order) (sc : Scope)
  | aaddf (p : Pfx) (a b : RegNo) (o : Order) (sc : Scope)
  | fadd (p : Pfx) (d a b : RegNo) (w : Bool) (o : Order) (sc : Scope)
  | fswp (p : Pfx) (d a b : RegNo) (w : Bool) (o : Order) (sc : Scope)
  | fcas (p : Pfx) (d a b : RegNo) (w : Bool) (o : Order) (sc : Scope)
  | fior (p : Pfx) (d a b : RegNo) (w : Bool) (o : Order) (sc : Scope)
  | home (p : Pfx) (d a : RegNo)
  | fence (p : Pfx) (o : Order) (sc : Scope)
  | migr (p : Pfx) (a : RegNo)
  | pin (p : Pfx)
  | unpin (p : Pfx)
  | spawn (p : Pfx) (a b : RegNo) (off : Word)
  | tend (p : Pfx)
  | jinit (p : Pfx) (a b : RegNo)
  | join (p : Pfx) (a : RegNo)
  | msend (p : Pfx) (d a : RegNo)
  | recv (p : Pfx) (d a : RegNo)
  | send (p : Pfx) (d a b : RegNo)
  | waitany (p : Pfx) (d a : RegNo)
  | waitall (p : Pfx) (a : RegNo)
  | ffr (p : Pfx) (d a : RegNo)
  | tclr (p : Pfx) (a : RegNo)
  | brk (p : Pfx) (code : Word)
  | eret (p : Pfx)
  -- page 2 (R43, R132)
  | vadd (p : Pfx) (d a b : RegNo) (x : Bool) (fmt : Option Fmt)
  | vsub (p : Pfx) (d a b : RegNo) (x : Bool) (fmt : Option Fmt)
  | vmul (p : Pfx) (d a b : RegNo) (x : Bool) (fmt : Option Fmt)
  | vfma (p : Pfx) (d a b : RegNo) (x : Bool) (fmt : Option Fmt)
  | vfms (p : Pfx) (d a b : RegNo) (x : Bool) (fmt : Option Fmt)
  | vmin (p : Pfx) (d a b : RegNo) (x : Bool) (fmt : Option Fmt)
  | vmax (p : Pfx) (d a b : RegNo) (x : Bool) (fmt : Option Fmt)
  | vabs (p : Pfx) (d a : RegNo) (x : Bool) (fmt : Option Fmt)
  | vneg (p : Pfx) (d a : RegNo) (x : Bool) (fmt : Option Fmt)
  | vcvt (p : Pfx) (d a : RegNo) (x : Bool) (dst : Fmt) (fmt : Option Fmt)
  | vrcp (p : Pfx) (d a : RegNo) (x : Bool) (fmt : Option Fmt)
  | vrsq (p : Pfx) (d a : RegNo) (x : Bool) (fmt : Option Fmt)
  | vsqrt (p : Pfx) (d a : RegNo) (x : Bool) (fmt : Option Fmt)
  | vexp (p : Pfx) (d a : RegNo) (x : Bool) (fmt : Option Fmt)
  | vlog (p : Pfx) (d a : RegNo) (x : Bool) (fmt : Option Fmt)
  | vsin (p : Pfx) (d a : RegNo) (x : Bool) (fmt : Option Fmt)
  | vcos (p : Pfx) (d a : RegNo) (x : Bool) (fmt : Option Fmt)
  | vtanh (p : Pfx) (d a : RegNo) (x : Bool) (fmt : Option Fmt)
  | vpswp (p : Pfx) (d a : RegNo) (x : Bool) (fmt : Option Fmt)
  | vperm (p : Pfx) (d a b : RegNo) (x : Bool) (fmt : Option Fmt)
  | vsum (p : Pfx) (d a : RegNo) (x : Bool) (fmt : Option Fmt)
  | vrmax (p : Pfx) (d a : RegNo) (x : Bool) (fmt : Option Fmt)
  | vdot (p : Pfx) (d a b : RegNo) (x : Bool) (fmt : Option Fmt)
  | vcmp (p : Pfx) (d a b : RegNo) (x : Bool) (c : VCmp) (fmt : Option Fmt)
  | vsel (p : Pfx) (d a b : RegNo) (x : Bool) (fmt : Option Fmt)
  | vscl (p : Pfx) (d a b : RegNo) (x : Bool) (fmt : Option Fmt)
  | vaxpy (p : Pfx) (d a b : RegNo) (x : Bool) (fmt : Option Fmt)
  | vclmp (p : Pfx) (d a b : RegNo) (x : Bool) (fmt : Option Fmt)
  | vqnt (p : Pfx) (d a b : RegNo) (x : Bool) (dst : Fmt) (fmt : Option Fmt)
  | vgth (p : Pfx) (d a b : RegNo) (x : Bool) (fmt : Option Fmt)
  | vsct (p : Pfx) (d a b : RegNo) (x : Bool) (fmt : Option Fmt)
  | vset (p : Pfx) (d b : RegNo) (x : Bool) (fmt : Option Fmt)
  | vmov (p : Pfx) (d a : RegNo) (x : Bool) (fmt : Option Fmt)
  | vand (p : Pfx) (d a b : RegNo) (x : Bool) (fmt : Option Fmt)
  | vor (p : Pfx) (d a b : RegNo) (x : Bool) (fmt : Option Fmt)
  | vshl (p : Pfx) (d a b : RegNo) (sar post : Bool) (fmt : Option Fmt)
  -- page 3 (R44)
  | mfmt (p : Pfx) (a : RegNo)
  | mbld (p : Pfx) (a b : RegNo)
  | mmq (p : Pfx) (a : RegNo)
  | mstat (p : Pfx) (d : RegNo)
  | mcan (p : Pfx) (a : RegNo)
  | hrel (p : Pfx)
  | evset (p : Pfx) (a : RegNo)
  | evdyn (p : Pfx) (a b : RegNo)
  | evpost (p : Pfx) (a b : RegNo)
  | evrun (p : Pfx) (a : RegNo)
  | evrd (p : Pfx) (d a : RegNo)
  | evwr (p : Pfx) (a b : RegNo)
  | evcnt (p : Pfx) (d a : RegNo)
  | garr (p : Pfx) (d a : RegNo) (op : GOp) (level : BitVec 2)
  | gset (p : Pfx) (a b : RegNo)
  | gstat (p : Pfx) (d a : RegNo)
  | dset (p : Pfx) (a b : RegNo)
  | tlbw (p : Pfx) (a b : RegNo)
  | tlbi (p : Pfx) (a : RegNo)
  | ptsync (p : Pfx)
  | namei (p : Pfx) (a : RegNo)
  | rtsw (p : Pfx) (a : RegNo)
  | tdm (p : Pfx)
  | tchk (p : Pfx)
  | halt (p : Pfx)
  | cxsv (p : Pfx) (a : RegNo)
  | cxld (p : Pfx) (a : RegNo)
  | qnch (p : Pfx) (a : RegNo)
  | rcmt (p : Pfx) (a : RegNo)
  | rbak (p : Pfx) (a : RegNo)
  | mwgt (p : Pfx) (a b : RegNo)
  | wfi (p : Pfx)
  -- machine events (spec/95_what_each_step_holds.md): the steps of the machine itself, then the acts on its registers and its inputs
  | wfiWake (th : Nat)
  | slotFill (t core : Nat)
  | operandCacheFill (th : Nat)
  | trapHold (th : Nat)
  | quarterScrubDone (t n : Nat)
  | bankScrubDone (t n : Nat)
  | storeBufferLeave (th : Nat)
  | remoteStore (pk : Nat)
  | remoteAtomic (pk : Nat)
  | proxyRequest (pk : Nat)
  | proxyResponse (pk : Nat)
  | proxySyncResend (th : Nat)
  | acknowledgement (pk : Nat)
  | sliceFillDone (t sb : Nat)
  | snapshotCopyDone (t block : Nat)
  | rollbackLossNotice (t g : Nat)
  | hostWatermark (port home mark : Nat)
  | launch (port slot : Nat)
  | migrationDeparture (th : Nat)
  | contextArrival (pk : Nat)
  | stewardMoveToHeap (t : Nat)
  | stewardReplay (t : Nat)
  | routerTurn (pk : Nat)
  | relay (pk : Nat)
  | forwardPacket (pk : Nat)
  | nameWalkResponse (pk : Nat)
  | linkRetrainDone (link : Nat)
  | stealStart (t core : Nat)
  | stealRequest (msg : Nat)
  | stealRefusal (msg : Nat)
  | stealTimeout (t core : Nat)
  | stealBackoffEnd (t core : Nat)
  | taskRecordArrival (pk : Nat)
  | dequeSpill (t core : Nat)
  | dequeRefill (t core g : Nat)
  | mailboxMessageArrival (pk : Nat)
  | mailboxSpill (t core m : Nat)
  | mailboxReplay (t core m : Nat)
  | messageResend (t : Nat)
  | copyPacketSend (t : Nat)
  | copyPacketArrival (pk : Nat)
  | bellDelivery (w : Nat)
  | gongSweep (node slot t : Nat)
  | commitRequest (t g : Nat)
  | mirrorWrite (t g : Nat)
  | shadowAck (t g : Nat)
  | commitReport (t g : Nat)
  | roundRelease (t g level : Nat)
  | passStart (t : Nat)
  | panelLoad (t : Nat)
  | rowDrain (t : Nat)
  | handlerStart (t core : Nat)
  | groupShareRequest (pk : Nat)
  | groupShareAnswer (pk : Nat)
  | groupStartOrder (pk : Nat)
  | groupCompletionReport (pk : Nat)
  | groupCancel (pk : Nat)
  | eventArrival (pk : Nat)
  | tick (t : Nat)
  | hookPushRetry (t : Nat)
  | rollback (g : Nat)
  | tandemCompare (th : Nat)
  | gangPreempt (g : Nat)
  | gangQuench (g : Nat)
  | nameWalkRequest (pk : Nat)
  | gsetNodeConfirm (pk : Nat)
  | reshelveContinue (z : Nat)
  | nameiRequest (req t : Nat)
  | nameiTileAck (req t : Nat)
  | nameiComplete (req : Nat)
  | tlbiRequest (req t : Nat)
  | tlbiTileAck (req t : Nat)
  | tlbiComplete (req : Nat)
  | bellWindowClose
  | trelResume (t heap : Nat)
  | trelDeliver (t heap dst : Nat)
  | trelDiscard (t heap : Nat)
  | trqRetire (t n : Nat)
  | tmqRead (d : RegNo)
  | qownWrite (t n : Nat) (v : Word)
  | evownWrite (t n : Nat) (v : Word)
  | evqbWrite (t : Nat) (v : Word)
  | mslotWrite (t : Nat) (v : Word)
  | cxbaseWrite (t : Nat) (v : Word)
  | rtdhiWrite (t : Nat) (v : Word)
  | patrolScrub (t addr symbols : Nat)
  | hostPostedWrite (port off : Nat) (data : List Byte) (relaxed : Bool)
  | hostRead (port off n : Nat)
  | windowEntryWrite (port w : Nat) (v : Word)
  | armWrite (port slot : Nat) (v : Word)
  | lstatWrite (port slot : Nat) (v : Word)
  | managementRegisterWrite (m off : Nat) (v : Word)
  | cmdRestartSlot (t core slot : Nat)
  | cmdSetPowerLimit (m : Nat) (zone : Option Nat) (watts : Nat)
  | cmdReadEventQueue (m : Nat)
  | cmdExtendMr (m mr : Nat) (digest : BitVec 256)
  | cmdAttestationReport (m : Nat) (nonce : BitVec 256)
  | cmdResetModule (m : Nat)
  | boot (m : Nat)
  | powerReview (m : Nat)
  | droopDetected (z : Nat)
  | droopCleared (z : Nat)
  | zoneLost (z : Nat)
  | tileLost (t : Nat)
  | moduleUnreachable (m peer : Nat)
  | laneLost (link lane : Nat)
  | hostReadCompletion (pk : Nat) (ok : Bool) (data : BitVec 128)
  | launchRecordWrite (port slot byte : Nat) (v : Byte)
  deriving DecidableEq, Repr

end Sys2Proof
end

