-- ==== Sys2Proof/Config.lean ====
section
/-! DEFINITION. The values the spec leaves open, each an uninterpreted constant: nothing can be proved of a value of
one (notes/assumptions 5-7, 20-23, 49, 51). -/
namespace Sys2Proof.Config

/-- Which of the values allowed by the bound of R67 a function of `vrcp`, `vrsq`, `vexp`, `vlog`, `vsin`, `vcos` or `vtanh`
delivers: the function's number, the format's number and the argument's bits select it (log 6). -/
opaque fnChoice : Nat → Nat → Nat → Nat

/-- Cycles beyond the first that a step of the machine takes (R5; log 5). -/
opaque extraCycles : Nat → Nat

/-- Whether a thread placed in a slot first waits for a register fill from the backing store (R73; log 20). -/
opaque operandMiss : Nat → Bool

/-- How the data of a sector read with a detected double-symbol error differs from what was stored (R167: it is left as read; log 51). -/
opaque misread : Nat → BitVec 256

/-- Weight with which the fills of a core's slots serve a gang made resident on a tile (R70, R106: set by system software by no
register; log 23). -/
opaque fillWeight : Nat → Nat → Nat → Nat

/-- The parts of an image of a module (R390; log 21): 0 the cox firmware, 1 the configuration image, 2 the service firmware, 3 the steward
firmware; each a header, a body, a public key and a signature. -/
opaque imageHeader : Nat → Nat → List (BitVec 8)
opaque imageBody : Nat → Nat → List (BitVec 8)
opaque imageKey : Nat → Nat → List (BitVec 8)
opaque imageSignature : Nat → Nat → List (BitVec 8)

/-- The root key hash in the ROM of a module, and the modulus and the exponent that the bytes of a public key give (R390; log 21). -/
opaque rootKeyHash : Nat → BitVec 256
opaque keyModulus : List (BitVec 8) → Nat
opaque keyExponent : List (BitVec 8) → Nat

/-- Where in a tile's service area a firmware image is loaded (R390; log 21). -/
opaque firmwarePlace : Nat → Nat

/-- The certificate chain of a module's identity key (R392; log 21). -/
opaque certificateChain : Nat → List (BitVec 8)

/-- Security version of an image (R392; log 21). -/
opaque imageVersion : Nat → Nat → BitVec 16

/-- Serial number of a module (R392; log 21). -/
opaque moduleSerial : Nat → BitVec 64

/-- Signature that a module's identity key gives an attestation report, by the report's contents, with a new salt each time (R392; log 21). -/
opaque reportSignature : Nat → Nat → List Nat → Nat

/-- Version of the attestation report's format (R392; log 21). -/
opaque reportVersion : Nat

/-- EVAL and LTN of a management event of a code whose rule does not give them, by the code and a running number (R395; log 21). -/
opaque eventEval : Nat → Nat → BitVec 64
opaque eventLtn : Nat → Nat → Nat

/-- EVAL of the 0x16 that ends a gang when a module becomes unreachable (R389; log 21). -/
opaque unreachableEval : Nat → Nat → BitVec 64

/-- Code capability, with its cursor at the entry point, of the system software, service firmware and steward that start when cores leave
reset (R390): 0 system software, 1 service firmware, 2 steward (log 21). -/
opaque serviceCode : Nat → BitVec 128

/-- Whether system software's tables map a frame of a logical tile in an address space, or a STRIPED page of a zone's group; whether it uses a
frame of a site for something else: what it keeps in tables that no tile's TLB need hold (R161, R162, R348; log 49). -/
opaque pageMapped : Nat → Nat → Nat → Nat → Bool
opaque groupMapped : Nat → Nat → Nat → Bool
opaque frameUsed : Nat → Nat → Nat → Bool

/-- Draw in W and temperature in degrees of a zone at a power review (R394; log 21). -/
opaque zoneDraw : Nat → Nat → Nat
opaque zoneTemperature : Nat → Nat → Nat

/-- Where service firmware begins to look for room for the shelf of a stripe page on a site (R161: its choice), and the shadow-map word that it
writes for a frame of a shelf (R342; log 7). -/
opaque shelfAddress : Nat → Nat → Nat
opaque shelfShadow : Nat → Nat → BitVec 32

/-- The configuration image of a module (R213, R352, R388; log 21): dead sites, lost lanes of a link, the lane-loss threshold, the mirror fraction,
the buddy ring, which port of a field carries which stitch link, the trims of a zone, and the port tile and faced module of each Roshus Link. -/
opaque imageDead : Nat → Bool
opaque imageLaneLost : Nat → Nat → Bool
opaque imageThreshold : Nat → Nat
opaque imageMirror : Nat → Nat
opaque imageRing : Nat → List Nat
opaque imageStitch : Nat → Nat → Nat
opaque imageTrims : Nat → Nat
opaque imageRoshus : Nat → List (Nat × Nat)

/-- The 16 check bits of a sector for its data and metadata as one number: R163 and R167 give their number, what they cover and what they
correct, not their code (log 51). -/
opaque checkBits : Nat → BitVec 16

/-- Which of two allowed values a byte takes where the spec allows either (R263; log 22). -/
opaque eitherByte : Nat → Bool

end Sys2Proof.Config
end

