-- ==== Sys2Proof/Machine/OpcodeMap.lean ====
section
/-! DEFINITION. The opcode map of spec/02_encoding.md R29-R46 and spec/06_vector.md R131-R132: for every assigned point its layout,
the use of its fields, its immediate, what it takes of XM and XP, and the instruction it stands for. -/
namespace Sys2Proof

/-- Layouts of bits [9:0] of a base word (R29). -/
inductive Layout where
  | rrr | ri | rw | b | j | s | sp
  deriving DecidableEq, Repr

/-- What a 3-bit field holds (R30): nothing, a register, a predicate, or a code. -/
inductive Use where
  | off | reg | pred | code
  deriving DecidableEq, Repr

/-- The immediate of a map entry (R34): none, sign-extended, or zero-extended with its greatest value. -/
inductive ImmUse where
  | none | signed | zext (max : Nat)
  deriving DecidableEq, Repr

/-- What an entry takes of XM (R37), with the element formats accepted and the default format code of R130. -/
inductive XmUse where
  | none | load | store | atomic | fence | elem (set : List Nat) (dflt : Nat)
  deriving DecidableEq, Repr

/-- The operand fields of an instruction, whatever its layout: f1 f2 f3 the fields [9:7], [6:4] and [3:1] with their high
bits, x bit [0] (or the negation of `br`), the immediate or offset as R34 forms it, XM's fields and XP's modifier. -/
structure Fields where
  p   : Pfx
  f1  : RegNo
  f2  : RegNo
  f3  : RegNo
  x   : Bool
  imm : Word
  o   : Order
  sc  : Scope
  fmt : BitVec 4
  md  : BitVec 8
  deriving DecidableEq, Repr

/-- One entry of the opcode map.  `make` is the instruction of given fields. -/
structure OpSpec where
  layout : Layout
  f1     : Use
  f2     : Use
  f3     : Use
  x      : Bool
  imm    : ImmUse
  xm     : XmUse
  mdMask : BitVec 8
  make   : Fields → Instr

/-- Format code of an element format (R37). -/
def Fmt.code : Fmt → Nat
  | .i8 => 0 | .u8 => 1 | .i16 => 2 | .i32 => 3 | .i64 => 4 | .f32 => 5 | .bf16 => 6 | .f16 => 7 | .e4 => 8 | .e5 => 9 | .f4b => 10

/-- The element format of a code, INT8 for codes that no format has. -/
def Fmt.ofCode : Nat → Fmt
  | 1 => .u8 | 2 => .i16 | 3 => .i32 | 4 => .i64 | 5 => .f32 | 6 => .bf16 | 7 => .f16 | 8 => .e4 | 9 => .e5 | 10 => .f4b | _ => .i8

/-- The element code of XM as an instruction keeps it: none for code 0 (R37). -/
def fmtOf (c : BitVec 4) : Option Fmt := if c = 0 then none else some (.ofCode c.toNat)

/-- XM code of a kept format.  Code 0 is kept as none, so a kept INT8 has no code: it gets one that no map entry accepts. -/
def fmtCode : Option Fmt → BitVec 4
  | none => 0
  | some .i8 => 15
  | some f => BitVec.ofNat 4 f.code

/-- Code of a `garr` operation (R44). -/
def GOp.code : GOp → Nat
  | .add => 0 | .min => 1 | .minu => 2 | .max => 3 | .maxu => 4 | .and => 5 | .or => 6 | .xor => 7

/-- The `garr` operation of a 3-bit code (R44). -/
def GOp.ofCode : Nat → GOp
  | 1 => .min | 2 => .minu | 3 => .max | 4 => .maxu | 5 => .and | 6 => .or | 7 => .xor | _ => .add

/-- Code of a `vcmp` comparison (R149). -/
def VCmp.code : VCmp → Nat
  | .eq => 0 | .ne => 1 | .lt => 2 | .le => 3 | .gt => 4 | .ge => 5 | .ord => 6 | .uno => 7

/-- The `vcmp` comparison of a 3-bit code (R149). -/
def VCmp.ofCode : Nat → VCmp
  | 1 => .ne | 2 => .lt | 3 => .le | 4 => .gt | 5 => .ge | 6 => .ord | 7 => .uno | _ => .eq

/-- Code of an `ext` width (R41). -/
def ExtW.code : ExtW → Nat
  | .b => 0 | .h => 1 | .w => 2

/-- The `ext` width of a code. -/
def ExtW.ofCode : Nat → ExtW
  | 1 => .h | 2 => .w | _ => .b

/-- Codes of orders and scopes (R37). -/
def Order.code : Order → Nat
  | .plain => 0 | .acquire => 1 | .release => 2 | .sc => 3
def Order.ofCode : Nat → Order
  | 1 => .acquire | 2 => .release | 3 => .sc | _ => .plain
def Scope.code : Scope → Nat
  | .tile => 0 | .field => 1 | .module => 2 | .system => 3
def Scope.ofCode : Nat → Scope
  | 1 => .field | 2 => .module | 3 => .system | _ => .tile

/-- The predicate a field names (R30). -/
def prOf (f : RegNo) : PredNo := f.setWidth 3

/-- An RRR entry with registers in the marked fields. -/
def rrr (f1 f2 f3 : Use) (make : Fields → Instr) (x : Bool := false) (xm : XmUse := .none) (md : BitVec 8 := 0) : OpSpec :=
  { layout := .rrr, f1 := f1, f2 := f2, f3 := f3, x := x, imm := .none, xm := xm, mdMask := md, make := make }

/-- An entry with an immediate. -/
def withImm (l : Layout) (f1 f2 : Use) (imm : ImmUse) (make : Fields → Instr) (xm : XmUse := .none) : OpSpec :=
  { layout := l, f1 := f1, f2 := f2, f3 := .off, x := l = .b, imm := imm, xm := xm, mdMask := 0, make := make }

/-- An S entry whose sub10 is zero. -/
def plainS (make : Fields → Instr) (xm : XmUse := .none) : OpSpec := withImm .s .off .off .none make xm

/-- A page-2 entry: which of d, a, b it uses and its formats (R132). -/
def vec (f1 f2 f3 : Use) (set : List Nat) (make : Fields → Instr) (md : BitVec 8 := 0) (dflt : Nat := 5) : OpSpec :=
  rrr f1 f2 f3 make (x := true) (xm := .elem set dflt) (md := md)

/-- The format sets of R132. -/
def setF : List Nat := [5, 6, 7]
def setN : List Nat := [1, 2, 3, 4]
def setM : List Nat := [1, 2, 3, 4, 5, 6, 7, 8, 9]
def setC : List Nat := [0, 1, 2, 3, 4, 5, 6, 7, 8, 9, 10]
def setFN : List Nat := [1, 2, 3, 4, 5, 6, 7]
def setFS : List Nat := [2, 3, 4, 5, 6, 7]

/-- Page 0 of the map, op6 0x00-0x10 (R41). -/
def page0a : List OpSpec :=
  [ plainS (fun f => .nop f.p),
    rrr .reg .reg .reg (fun f => .add f.p f.f1 f.f2 f.f3),
    rrr .reg .reg .reg (fun f => .sub f.p f.f1 f.f2 f.f3),
    rrr .reg .reg .reg (fun f => .mul f.p f.f1 f.f2 f.f3),
    rrr .reg .reg .reg (fun f => .mulh f.p f.f1 f.f2 f.f3 f.x) (x := true),
    rrr .reg .reg .reg (fun f => .div f.p f.f1 f.f2 f.f3 f.x) (x := true),
    rrr .reg .reg .reg (fun f => .rem f.p f.f1 f.f2 f.f3 f.x) (x := true),
    rrr .reg .reg .reg (fun f => .and f.p f.f1 f.f2 f.f3),
    rrr .reg .reg .reg (fun f => .or f.p f.f1 f.f2 f.f3),
    rrr .reg .reg .reg (fun f => .xor f.p f.f1 f.f2 f.f3),
    rrr .reg .reg .reg (fun f => .andn f.p f.f1 f.f2 f.f3),
    rrr .reg .reg .reg (fun f => .shl f.p f.f1 f.f2 f.f3),
    rrr .reg .reg .reg (fun f => .shr f.p f.f1 f.f2 f.f3),
    rrr .reg .reg .reg (fun f => .sar f.p f.f1 f.f2 f.f3),
    rrr .reg .reg .reg (fun f => .rol f.p f.f1 f.f2 f.f3),
    rrr .reg .reg .reg (fun f => .min f.p f.f1 f.f2 f.f3 f.x) (x := true),
    rrr .reg .reg .reg (fun f => .max f.p f.f1 f.f2 f.f3 f.x) (x := true) ]

/-- Page 0, op6 0x11-0x21 (R41). -/
def page0b : List OpSpec :=
  [ withImm .ri .reg .reg .signed (fun f => .addi f.p f.f1 f.f2 f.imm),
    withImm .ri .reg .reg .signed (fun f => .andi f.p f.f1 f.f2 f.imm),
    withImm .ri .reg .reg .signed (fun f => .ori f.p f.f1 f.f2 f.imm),
    withImm .ri .reg .reg .signed (fun f => .xori f.p f.f1 f.f2 f.imm),
    withImm .ri .reg .reg (.zext 63) (fun f => .shli f.p f.f1 f.f2 f.imm),
    withImm .ri .reg .reg (.zext 63) (fun f => .shri f.p f.f1 f.f2 f.imm),
    withImm .ri .reg .reg (.zext 63) (fun f => .sari f.p f.f1 f.f2 f.imm),
    withImm .rw .reg .off .signed (fun f => .movi f.p f.f1 f.imm),
    rrr .reg .reg .off (fun f => .mov f.p f.f1 f.f2),
    rrr .pred .reg .reg (fun f => .cmpeq f.p (prOf f.f1) f.f2 f.f3 f.x) (x := true),
    rrr .pred .reg .reg (fun f => .cmplt f.p (prOf f.f1) f.f2 f.f3 f.x) (x := true),
    rrr .pred .reg .reg (fun f => .cmple f.p (prOf f.f1) f.f2 f.f3 f.x) (x := true),
    withImm .ri .pred .reg .signed (fun f => .cmpieq f.p (prOf f.f1) f.f2 f.imm),
    withImm .ri .pred .reg .signed (fun f => .cmpilt f.p (prOf f.f1) f.f2 f.imm),
    rrr .reg .reg .off (fun f => .clz f.p f.f1 f.f2 f.x) (x := true),
    rrr .reg .reg .off (fun f => .popc f.p f.f1 f.f2),
    rrr .reg .reg .code (fun f => .ext f.p f.f1 f.f2 (.ofCode f.f3.toNat) f.x) (x := true) ]

/-- Page 0, op6 0x22-0x3A (R41). -/
def page0c : List OpSpec :=
  [ withImm .ri .reg .reg .signed (fun f => .ldB f.p f.f1 f.f2 f.imm f.o f.sc) .load,
    withImm .ri .reg .reg .signed (fun f => .ldH f.p f.f1 f.f2 f.imm f.o f.sc) .load,
    withImm .ri .reg .reg .signed (fun f => .ldW f.p f.f1 f.f2 f.imm f.o f.sc) .load,
    withImm .ri .reg .reg .signed (fun f => .ldD f.p f.f1 f.f2 f.imm f.o f.sc) .load,
    withImm .ri .reg .reg .signed (fun f => .ldQ f.p f.f1 f.f2 f.imm f.o f.sc) .load,
    withImm .ri .reg .reg .signed (fun f => .stB f.p f.f1 f.f2 f.imm f.o f.sc) .store,
    withImm .ri .reg .reg .signed (fun f => .stH f.p f.f1 f.f2 f.imm f.o f.sc) .store,
    withImm .ri .reg .reg .signed (fun f => .stW f.p f.f1 f.f2 f.imm f.o f.sc) .store,
    withImm .ri .reg .reg .signed (fun f => .stD f.p f.f1 f.f2 f.imm f.o f.sc) .store,
    withImm .ri .reg .reg .signed (fun f => .stQ f.p f.f1 f.f2 f.imm f.o f.sc) .store,
    withImm .ri .reg .reg .signed (fun f => .ldp f.p f.f1 f.f2 f.imm f.o f.sc) .load,
    withImm .ri .reg .reg .signed (fun f => .stp f.p f.f1 f.f2 f.imm f.o f.sc) .store,
    withImm .b .pred .off .signed (fun f => .br f.p (prOf f.f1) f.x f.imm),
    withImm .j .off .off .signed (fun f => .jmp f.p f.imm),
    withImm .j .off .off .signed (fun f => .call f.p f.imm),
    rrr .off .reg .off (fun f => .jr f.p f.f2),
    rrr .off .reg .off (fun f => .callr f.p f.f2),
    plainS (fun f => .ret f.p),
    withImm .rw .reg .off (.zext 127) (fun f => .rds f.p f.f1 (f.imm.setWidth 7)),
    withImm .rw .reg .off (.zext 127) (fun f => .wrs f.p f.f1 (f.imm.setWidth 7)),
    plainS (fun f => .yield f.p),
    withImm .s .off .off (.zext (0x3FFFFFFFFFFFF)) (fun f => .trap f.p f.imm),
    withImm .rw .reg .off .signed (fun f => .lea f.p f.f1 f.imm),
    rrr .reg .reg .reg (fun f => .cadd f.p f.f1 f.f2 f.f3),
    withImm .ri .reg .reg .signed (fun f => .caddi f.p f.f1 f.f2 f.imm) ]

/-- Page 1, op6 0x00-0x13 (R42). -/
def page1a : List OpSpec :=
  [ rrr .pred .pred .pred (fun f => .pand f.p (prOf f.f1) (prOf f.f2) (prOf f.f3)),
    rrr .pred .pred .pred (fun f => .por f.p (prOf f.f1) (prOf f.f2) (prOf f.f3)),
    rrr .pred .pred .pred (fun f => .pxor f.p (prOf f.f1) (prOf f.f2) (prOf f.f3)),
    rrr .pred .pred .off (fun f => .pnot f.p (prOf f.f1) (prOf f.f2)),
    rrr .pred .pred .off (fun f => .pmov f.p (prOf f.f1) (prOf f.f2)),
    rrr .reg .reg .reg (fun f => .cset f.p f.f1 f.f2 f.f3),
    rrr .reg .reg .off (fun f => .cgetb f.p f.f1 f.f2),
    rrr .reg .reg .off (fun f => .cgetl f.p f.f1 f.f2),
    rrr .reg .reg .reg (fun f => .cperm f.p f.f1 f.f2 f.f3),
    rrr .pred .reg .off (fun f => .ctag f.p (prOf f.f1) f.f2),
    rrr .reg .reg .off (fun f => .cclr f.p f.f1 f.f2),
    rrr .reg .reg .off (fun f => .cgeta f.p f.f1 f.f2),
    rrr .reg .reg .reg (fun f => .cfrom f.p f.f1 f.f2 f.f3),
    withImm .ri .reg .reg .signed (fun f => .ldc f.p f.f1 f.f2 f.imm f.o f.sc) .load,
    withImm .ri .reg .reg .signed (fun f => .stc f.p f.f1 f.f2 f.imm f.o f.sc) .store,
    withImm .ri .reg .reg .signed (fun f => .lds f.p f.f1 f.f2 f.imm f.o f.sc) .load,
    withImm .ri .reg .reg .signed (fun f => .ldk f.p f.f1 f.f2 f.imm f.o f.sc) .load,
    withImm .ri .reg .reg .signed (fun f => .sts f.p f.f1 f.f2 f.imm f.o f.sc) .store,
    rrr .off .reg .off (fun f => .fes f.p f.f2 f.x) (x := true),
    rrr .pred .reg .off (fun f => .fer f.p (prOf f.f1) f.f2 f.o f.sc) (xm := .load) ]

/-- Page 1, op6 0x14-0x30 (R42, R177). -/
def page1b : List OpSpec :=
  [ rrr .off .reg .reg (fun f => .aadd f.p f.f2 f.f3 f.x f.o f.sc) (x := true) (xm := .atomic),
    rrr .off .reg .reg (fun f => .aor f.p f.f2 f.f3 f.x f.o f.sc) (x := true) (xm := .atomic),
    rrr .off .reg .reg (fun f => .aand f.p f.f2 f.f3 f.x f.o f.sc) (x := true) (xm := .atomic),
    rrr .off .reg .reg (fun f => .axor f.p f.f2 f.f3 f.x f.o f.sc) (x := true) (xm := .atomic),
    rrr .off .reg .reg (fun f => .amin f.p f.f2 f.f3 f.x (f.md.getLsbD 0) f.o f.sc) (x := true) (xm := .atomic) (md := 1),
    rrr .off .reg .reg (fun f => .amax f.p f.f2 f.f3 f.x (f.md.getLsbD 0) f.o f.sc) (x := true) (xm := .atomic) (md := 1),
    rrr .off .reg .reg (fun f => .aaddf f.p f.f2 f.f3 f.o f.sc) (xm := .atomic),
    rrr .reg .reg .reg (fun f => .fadd f.p f.f1 f.f2 f.f3 f.x f.o f.sc) (x := true) (xm := .atomic),
    rrr .reg .reg .reg (fun f => .fswp f.p f.f1 f.f2 f.f3 f.x f.o f.sc) (x := true) (xm := .atomic),
    rrr .reg .reg .reg (fun f => .fcas f.p f.f1 f.f2 f.f3 f.x f.o f.sc) (x := true) (xm := .atomic),
    rrr .reg .reg .reg (fun f => .fior f.p f.f1 f.f2 f.f3 f.x f.o f.sc) (x := true) (xm := .atomic),
    rrr .reg .reg .off (fun f => .home f.p f.f1 f.f2),
    plainS (fun f => .fence f.p f.o f.sc) .fence,
    rrr .off .reg .off (fun f => .migr f.p f.f2),
    plainS (fun f => .pin f.p),
    plainS (fun f => .unpin f.p),
    withImm .sp .reg .reg .signed (fun f => .spawn f.p f.f1 f.f2 f.imm),
    plainS (fun f => .tend f.p),
    rrr .off .reg .reg (fun f => .jinit f.p f.f2 f.f3),
    rrr .off .reg .off (fun f => .join f.p f.f2),
    rrr .reg .reg .off (fun f => .msend f.p f.f1 f.f2),
    rrr .reg .reg .off (fun f => .recv f.p f.f1 f.f2),
    rrr .reg .reg .reg (fun f => .send f.p f.f1 f.f2 f.f3),
    rrr .reg .reg .off (fun f => .waitany f.p f.f1 f.f2),
    rrr .off .reg .off (fun f => .waitall f.p f.f2),
    rrr .reg .reg .off (fun f => .ffr f.p f.f1 f.f2),
    rrr .off .reg .off (fun f => .tclr f.p f.f2),
    withImm .s .off .off (.zext (0x3FFFFFFFFFFFF)) (fun f => .brk f.p f.imm),
    plainS (fun f => .eret f.p) ]

/-- Page 2, op6 0x00-0x11 (R43, R132, R153). -/
def page2a : List OpSpec :=
  [ vec .reg .reg .reg setFN (fun f => .vadd f.p f.f1 f.f2 f.f3 f.x (fmtOf f.fmt)),
    vec .reg .reg .reg setFN (fun f => .vsub f.p f.f1 f.f2 f.f3 f.x (fmtOf f.fmt)),
    vec .reg .reg .reg setFN (fun f => .vmul f.p f.f1 f.f2 f.f3 f.x (fmtOf f.fmt)),
    vec .reg .reg .reg setF (fun f => .vfma f.p f.f1 f.f2 f.f3 f.x (fmtOf f.fmt)),
    vec .reg .reg .reg setF (fun f => .vfms f.p f.f1 f.f2 f.f3 f.x (fmtOf f.fmt)),
    vec .reg .reg .reg setFN (fun f => .vmin f.p f.f1 f.f2 f.f3 f.x (fmtOf f.fmt)),
    vec .reg .reg .reg setFN (fun f => .vmax f.p f.f1 f.f2 f.f3 f.x (fmtOf f.fmt)),
    vec .reg .reg .off setFS (fun f => .vabs f.p f.f1 f.f2 f.x (fmtOf f.fmt)),
    vec .reg .reg .off setFS (fun f => .vneg f.p f.f1 f.f2 f.x (fmtOf f.fmt)),
    vec .reg .reg .off setC (fun f => .vcvt f.p f.f1 f.f2 f.x (.ofCode (f.md.toNat % 16)) (fmtOf f.fmt)) (md := 15) (dflt := 0),
    vec .reg .reg .off setF (fun f => .vrcp f.p f.f1 f.f2 f.x (fmtOf f.fmt)),
    vec .reg .reg .off setF (fun f => .vrsq f.p f.f1 f.f2 f.x (fmtOf f.fmt)),
    vec .reg .reg .off setF (fun f => .vsqrt f.p f.f1 f.f2 f.x (fmtOf f.fmt)),
    vec .reg .reg .off setF (fun f => .vexp f.p f.f1 f.f2 f.x (fmtOf f.fmt)),
    vec .reg .reg .off setF (fun f => .vlog f.p f.f1 f.f2 f.x (fmtOf f.fmt)),
    vec .reg .reg .off setF (fun f => .vsin f.p f.f1 f.f2 f.x (fmtOf f.fmt)),
    vec .reg .reg .off setF (fun f => .vcos f.p f.f1 f.f2 f.x (fmtOf f.fmt)),
    vec .reg .reg .off setF (fun f => .vtanh f.p f.f1 f.f2 f.x (fmtOf f.fmt)) ]

/-- Page 2, op6 0x12-0x23 (R43, R132, R153). -/
def page2b : List OpSpec :=
  [ vec .reg .reg .off setFS (fun f => .vpswp f.p f.f1 f.f2 f.x (fmtOf f.fmt)),
    vec .reg .reg .reg setM (fun f => .vperm f.p f.f1 f.f2 f.f3 f.x (fmtOf f.fmt)),
    vec .reg .reg .off setFN (fun f => .vsum f.p f.f1 f.f2 f.x (fmtOf f.fmt)),
    vec .reg .reg .off setFN (fun f => .vrmax f.p f.f1 f.f2 f.x (fmtOf f.fmt)),
    vec .reg .reg .reg [2, 3, 5, 6, 7] (fun f => .vdot f.p f.f1 f.f2 f.f3 f.x (fmtOf f.fmt)),
    vec .reg .reg .reg setFN (fun f => .vcmp f.p f.f1 f.f2 f.f3 f.x (.ofCode (f.md.toNat % 8)) (fmtOf f.fmt)) (md := 7),
    vec .reg .reg .reg setM (fun f => .vsel f.p f.f1 f.f2 f.f3 f.x (fmtOf f.fmt)),
    vec .reg .reg .reg setFN (fun f => .vscl f.p f.f1 f.f2 f.f3 f.x (fmtOf f.fmt)),
    vec .reg .reg .reg setF (fun f => .vaxpy f.p f.f1 f.f2 f.f3 f.x (fmtOf f.fmt)),
    vec .reg .reg .reg [1, 2, 3, 5, 6, 7] (fun f => .vclmp f.p f.f1 f.f2 f.f3 f.x (fmtOf f.fmt)),
    vec .reg .reg .reg setC (fun f => .vqnt f.p f.f1 f.f2 f.f3 f.x (.ofCode (f.md.toNat % 16)) (fmtOf f.fmt)) (md := 15) (dflt := 0),
    vec .reg .reg .reg setM (fun f => .vgth f.p f.f1 f.f2 f.f3 f.x (fmtOf f.fmt)),
    vec .reg .reg .reg setM (fun f => .vsct f.p f.f1 f.f2 f.f3 f.x (fmtOf f.fmt)),
    vec .reg .off .reg setM (fun f => .vset f.p f.f1 f.f3 f.x (fmtOf f.fmt)),
    vec .reg .reg .off setM (fun f => .vmov f.p f.f1 f.f2 f.x (fmtOf f.fmt)),
    vec .reg .reg .reg setM (fun f => .vand f.p f.f1 f.f2 f.f3 f.x (fmtOf f.fmt)),
    vec .reg .reg .reg setM (fun f => .vor f.p f.f1 f.f2 f.f3 f.x (fmtOf f.fmt)),
    vec .reg .reg .reg setN (fun f => .vshl f.p f.f1 f.f2 f.f3 f.x (f.md.getLsbD 7) (fmtOf f.fmt)) (md := 128) ]

/-- Page 3 (R44), with the entries of the matrix engine (R300): op6 0x00-0x05 and 0x1E, the fields d, a, b that each word shows, x and every
other field zero, neither XI nor XM accepted. -/
def page3a : List OpSpec :=
  [ rrr .off .reg .off (fun f => .mfmt f.p f.f2),
    rrr .off .reg .reg (fun f => .mbld f.p f.f2 f.f3),
    rrr .off .reg .off (fun f => .mmq f.p f.f2),
    rrr .reg .off .off (fun f => .mstat f.p f.f1),
    rrr .off .reg .off (fun f => .mcan f.p f.f2),
    plainS (fun f => .hrel f.p),
    rrr .off .reg .off (fun f => .evset f.p f.f2),
    rrr .off .reg .reg (fun f => .evdyn f.p f.f2 f.f3),
    rrr .off .reg .reg (fun f => .evpost f.p f.f2 f.f3),
    rrr .off .reg .off (fun f => .evrun f.p f.f2),
    rrr .reg .reg .off (fun f => .evrd f.p f.f1 f.f2),
    rrr .off .reg .reg (fun f => .evwr f.p f.f2 f.f3),
    rrr .reg .reg .off (fun f => .evcnt f.p f.f1 f.f2),
    rrr .reg .reg .off (fun f => .garr f.p f.f1 f.f2 (.ofCode (f.md.toNat / 4 % 8)) (f.md.setWidth 2)) (md := 31),
    rrr .off .reg .reg (fun f => .gset f.p f.f2 f.f3),
    rrr .reg .reg .off (fun f => .gstat f.p f.f1 f.f2) ]
def page3b : List OpSpec :=
  [ rrr .off .reg .reg (fun f => .dset f.p f.f2 f.f3),
    rrr .off .reg .reg (fun f => .tlbw f.p f.f2 f.f3),
    rrr .off .reg .off (fun f => .tlbi f.p f.f2),
    plainS (fun f => .ptsync f.p),
    rrr .off .reg .off (fun f => .namei f.p f.f2),
    rrr .off .reg .off (fun f => .rtsw f.p f.f2),
    plainS (fun f => .tdm f.p),
    plainS (fun f => .tchk f.p),
    plainS (fun f => .halt f.p),
    rrr .off .reg .off (fun f => .cxsv f.p f.f2),
    rrr .off .reg .off (fun f => .cxld f.p f.f2),
    rrr .off .reg .off (fun f => .qnch f.p f.f2),
    rrr .off .reg .off (fun f => .rcmt f.p f.f2),
    rrr .off .reg .off (fun f => .rbak f.p f.f2),
    rrr .off .reg .reg (fun f => .mwgt f.p f.f2 f.f3),
    plainS (fun f => .wfi f.p) ]

/-- The entry of a (page, op6) point, none where it is unassigned (R45). -/
def opSpec (page op : Nat) : Option OpSpec :=
  match page with
  | 0 => (page0a ++ page0b ++ page0c)[op]?
  | 1 => (page1a ++ page1b)[op]?
  | 2 => (page2a ++ page2b)[op]?
  | 3 => (page3a ++ page3b)[op]?
  | _ => none

/-- Whether the d field is the first of a register pair, which c15 cannot be (R42). -/
def isPair (page op : Nat) : Bool := page = 1 && (op = 0x28 || op = 0x29)

/-- Width of the immediate or offset field of a layout (R29). -/
def immWidth : Layout → Nat
  | .rrr => 0 | .ri => 4 | .rw => 7 | .b => 6 | .j => 10 | .s => 10 | .sp => 4

/-- The fields of an instruction without operands. -/
def Fields.plain (p : Pfx) : Fields :=
  { p := p, f1 := 0, f2 := 0, f3 := 0, x := false, imm := 0, o := .plain, sc := .tile, fmt := 0, md := 0 }

/-- Page, op6 and fields of an encoded instruction (R41-R44); none for an unassigned encoding and for a machine event. -/
def fieldsOf : Instr → Option (Nat × Nat × Fields)
  | .nop p => some (0, 0x00, .plain p)
  | .add p d a b => some (0, 0x01, { Fields.plain p with f1 := d, f2 := a, f3 := b })
  | .sub p d a b => some (0, 0x02, { Fields.plain p with f1 := d, f2 := a, f3 := b })
  | .mul p d a b => some (0, 0x03, { Fields.plain p with f1 := d, f2 := a, f3 := b })
  | .mulh p d a b u => some (0, 0x04, { Fields.plain p with f1 := d, f2 := a, f3 := b, x := u })
  | .div p d a b u => some (0, 0x05, { Fields.plain p with f1 := d, f2 := a, f3 := b, x := u })
  | .rem p d a b u => some (0, 0x06, { Fields.plain p with f1 := d, f2 := a, f3 := b, x := u })
  | .and p d a b => some (0, 0x07, { Fields.plain p with f1 := d, f2 := a, f3 := b })
  | .or p d a b => some (0, 0x08, { Fields.plain p with f1 := d, f2 := a, f3 := b })
  | .xor p d a b => some (0, 0x09, { Fields.plain p with f1 := d, f2 := a, f3 := b })
  | .andn p d a b => some (0, 0x0a, { Fields.plain p with f1 := d, f2 := a, f3 := b })
  | .shl p d a b => some (0, 0x0b, { Fields.plain p with f1 := d, f2 := a, f3 := b })
  | .shr p d a b => some (0, 0x0c, { Fields.plain p with f1 := d, f2 := a, f3 := b })
  | .sar p d a b => some (0, 0x0d, { Fields.plain p with f1 := d, f2 := a, f3 := b })
  | .rol p d a b => some (0, 0x0e, { Fields.plain p with f1 := d, f2 := a, f3 := b })
  | .min p d a b u => some (0, 0x0f, { Fields.plain p with f1 := d, f2 := a, f3 := b, x := u })
  | .max p d a b u => some (0, 0x10, { Fields.plain p with f1 := d, f2 := a, f3 := b, x := u })
  | .addi p d a imm => some (0, 0x11, { Fields.plain p with f1 := d, f2 := a, imm := imm })
  | .andi p d a imm => some (0, 0x12, { Fields.plain p with f1 := d, f2 := a, imm := imm })
  | .ori p d a imm => some (0, 0x13, { Fields.plain p with f1 := d, f2 := a, imm := imm })
  | .xori p d a imm => some (0, 0x14, { Fields.plain p with f1 := d, f2 := a, imm := imm })
  | .shli p d a imm => some (0, 0x15, { Fields.plain p with f1 := d, f2 := a, imm := imm })
  | .shri p d a imm => some (0, 0x16, { Fields.plain p with f1 := d, f2 := a, imm := imm })
  | .sari p d a imm => some (0, 0x17, { Fields.plain p with f1 := d, f2 := a, imm := imm })
  | .movi p d imm => some (0, 0x18, { Fields.plain p with f1 := d, imm := imm })
  | .mov p d a => some (0, 0x19, { Fields.plain p with f1 := d, f2 := a })
  | .cmpeq p pd a b ne => some (0, 0x1a, { Fields.plain p with f1 := pd.setWidth 4, f2 := a, f3 := b, x := ne })
  | .cmplt p pd a b u => some (0, 0x1b, { Fields.plain p with f1 := pd.setWidth 4, f2 := a, f3 := b, x := u })
  | .cmple p pd a b u => some (0, 0x1c, { Fields.plain p with f1 := pd.setWidth 4, f2 := a, f3 := b, x := u })
  | .cmpieq p pd a imm => some (0, 0x1d, { Fields.plain p with f1 := pd.setWidth 4, f2 := a, imm := imm })
  | .cmpilt p pd a imm => some (0, 0x1e, { Fields.plain p with f1 := pd.setWidth 4, f2 := a, imm := imm })
  | .clz p d a tz => some (0, 0x1f, { Fields.plain p with f1 := d, f2 := a, x := tz })
  | .popc p d a => some (0, 0x20, { Fields.plain p with f1 := d, f2 := a })
  | .ext p d a w z => some (0, 0x21, { Fields.plain p with f1 := d, f2 := a, f3 := BitVec.ofNat 4 w.code, x := z })
  | .ldB p d a imm o sc => some (0, 0x22, { Fields.plain p with f1 := d, f2 := a, imm := imm, o := o, sc := sc })
  | .ldH p d a imm o sc => some (0, 0x23, { Fields.plain p with f1 := d, f2 := a, imm := imm, o := o, sc := sc })
  | .ldW p d a imm o sc => some (0, 0x24, { Fields.plain p with f1 := d, f2 := a, imm := imm, o := o, sc := sc })
  | .ldD p d a imm o sc => some (0, 0x25, { Fields.plain p with f1 := d, f2 := a, imm := imm, o := o, sc := sc })
  | .ldQ p d a imm o sc => some (0, 0x26, { Fields.plain p with f1 := d, f2 := a, imm := imm, o := o, sc := sc })
  | .stB p d a imm o sc => some (0, 0x27, { Fields.plain p with f1 := d, f2 := a, imm := imm, o := o, sc := sc })
  | .stH p d a imm o sc => some (0, 0x28, { Fields.plain p with f1 := d, f2 := a, imm := imm, o := o, sc := sc })
  | .stW p d a imm o sc => some (0, 0x29, { Fields.plain p with f1 := d, f2 := a, imm := imm, o := o, sc := sc })
  | .stD p d a imm o sc => some (0, 0x2a, { Fields.plain p with f1 := d, f2 := a, imm := imm, o := o, sc := sc })
  | .stQ p d a imm o sc => some (0, 0x2b, { Fields.plain p with f1 := d, f2 := a, imm := imm, o := o, sc := sc })
  | .ldp p d a imm o sc => some (0, 0x2c, { Fields.plain p with f1 := d, f2 := a, imm := imm, o := o, sc := sc })
  | .stp p d a imm o sc => some (0, 0x2d, { Fields.plain p with f1 := d, f2 := a, imm := imm, o := o, sc := sc })
  | .br p pp n off => some (0, 0x2e, { Fields.plain p with f1 := pp.setWidth 4, x := n, imm := off })
  | .jmp p off => some (0, 0x2f, { Fields.plain p with imm := off })
  | .call p off => some (0, 0x30, { Fields.plain p with imm := off })
  | .jr p a => some (0, 0x31, { Fields.plain p with f2 := a })
  | .callr p a => some (0, 0x32, { Fields.plain p with f2 := a })
  | .ret p => some (0, 0x33, .plain p)
  | .rds p d n => some (0, 0x34, { Fields.plain p with f1 := d, imm := n.setWidth 64 })
  | .wrs p d n => some (0, 0x35, { Fields.plain p with f1 := d, imm := n.setWidth 64 })
  | .yield p => some (0, 0x36, .plain p)
  | .trap p code => some (0, 0x37, { Fields.plain p with imm := code })
  | .lea p d imm => some (0, 0x38, { Fields.plain p with f1 := d, imm := imm })
  | .cadd p d a b => some (0, 0x39, { Fields.plain p with f1 := d, f2 := a, f3 := b })
  | .caddi p d a imm => some (0, 0x3a, { Fields.plain p with f1 := d, f2 := a, imm := imm })
  | .pand p pd pa pb => some (1, 0x00, { Fields.plain p with f1 := pd.setWidth 4, f2 := pa.setWidth 4, f3 := pb.setWidth 4 })
  | .por p pd pa pb => some (1, 0x01, { Fields.plain p with f1 := pd.setWidth 4, f2 := pa.setWidth 4, f3 := pb.setWidth 4 })
  | .pxor p pd pa pb => some (1, 0x02, { Fields.plain p with f1 := pd.setWidth 4, f2 := pa.setWidth 4, f3 := pb.setWidth 4 })
  | .pnot p pd pa => some (1, 0x03, { Fields.plain p with f1 := pd.setWidth 4, f2 := pa.setWidth 4 })
  | .pmov p pd pa => some (1, 0x04, { Fields.plain p with f1 := pd.setWidth 4, f2 := pa.setWidth 4 })
  | .cset p d a b => some (1, 0x05, { Fields.plain p with f1 := d, f2 := a, f3 := b })
  | .cgetb p d a => some (1, 0x06, { Fields.plain p with f1 := d, f2 := a })
  | .cgetl p d a => some (1, 0x07, { Fields.plain p with f1 := d, f2 := a })
  | .cperm p d a b => some (1, 0x08, { Fields.plain p with f1 := d, f2 := a, f3 := b })
  | .ctag p pd a => some (1, 0x09, { Fields.plain p with f1 := pd.setWidth 4, f2 := a })
  | .cclr p d a => some (1, 0x0a, { Fields.plain p with f1 := d, f2 := a })
  | .cgeta p d a => some (1, 0x0b, { Fields.plain p with f1 := d, f2 := a })
  | .cfrom p d a b => some (1, 0x0c, { Fields.plain p with f1 := d, f2 := a, f3 := b })
  | .ldc p d a imm o sc => some (1, 0x0d, { Fields.plain p with f1 := d, f2 := a, imm := imm, o := o, sc := sc })
  | .stc p d a imm o sc => some (1, 0x0e, { Fields.plain p with f1 := d, f2 := a, imm := imm, o := o, sc := sc })
  | .lds p d a imm o sc => some (1, 0x0f, { Fields.plain p with f1 := d, f2 := a, imm := imm, o := o, sc := sc })
  | .ldk p d a imm o sc => some (1, 0x10, { Fields.plain p with f1 := d, f2 := a, imm := imm, o := o, sc := sc })
  | .sts p d a imm o sc => some (1, 0x11, { Fields.plain p with f1 := d, f2 := a, imm := imm, o := o, sc := sc })
  | .fes p a full => some (1, 0x12, { Fields.plain p with f2 := a, x := full })
  | .fer p pd a o sc => some (1, 0x13, { Fields.plain p with f1 := pd.setWidth 4, f2 := a, o := o, sc := sc })
  | .aadd p a b w o sc => some (1, 0x14, { Fields.plain p with f2 := a, f3 := b, x := w, o := o, sc := sc })
  | .aor p a b w o sc => some (1, 0x15, { Fields.plain p with f2 := a, f3 := b, x := w, o := o, sc := sc })
  | .aand p a b w o sc => some (1, 0x16, { Fields.plain p with f2 := a, f3 := b, x := w, o := o, sc := sc })
  | .axor p a b w o sc => some (1, 0x17, { Fields.plain p with f2 := a, f3 := b, x := w, o := o, sc := sc })
  | .amin p a b w u o sc => some (1, 0x18, { Fields.plain p with f2 := a, f3 := b, x := w, o := o, sc := sc, md := (BitVec.ofBool u).setWidth 8 })
  | .amax p a b w u o sc => some (1, 0x19, { Fields.plain p with f2 := a, f3 := b, x := w, o := o, sc := sc, md := (BitVec.ofBool u).setWidth 8 })
  | .aaddf p a b o sc => some (1, 0x1a, { Fields.plain p with f2 := a, f3 := b, o := o, sc := sc })
  | .fadd p d a b w o sc => some (1, 0x1b, { Fields.plain p with f1 := d, f2 := a, f3 := b, x := w, o := o, sc := sc })
  | .fswp p d a b w o sc => some (1, 0x1c, { Fields.plain p with f1 := d, f2 := a, f3 := b, x := w, o := o, sc := sc })
  | .fcas p d a b w o sc => some (1, 0x1d, { Fields.plain p with f1 := d, f2 := a, f3 := b, x := w, o := o, sc := sc })
  | .fior p d a b w o sc => some (1, 0x1e, { Fields.plain p with f1 := d, f2 := a, f3 := b, x := w, o := o, sc := sc })
  | .home p d a => some (1, 0x1f, { Fields.plain p with f1 := d, f2 := a })
  | .fence p o sc => some (1, 0x20, { Fields.plain p with o := o, sc := sc })
  | .migr p a => some (1, 0x21, { Fields.plain p with f2 := a })
  | .pin p => some (1, 0x22, .plain p)
  | .unpin p => some (1, 0x23, .plain p)
  | .spawn p a b off => some (1, 0x24, { Fields.plain p with f1 := a, f2 := b, imm := off })
  | .tend p => some (1, 0x25, .plain p)
  | .jinit p a b => some (1, 0x26, { Fields.plain p with f2 := a, f3 := b })
  | .join p a => some (1, 0x27, { Fields.plain p with f2 := a })
  | .msend p d a => some (1, 0x28, { Fields.plain p with f1 := d, f2 := a })
  | .recv p d a => some (1, 0x29, { Fields.plain p with f1 := d, f2 := a })
  | .send p d a b => some (1, 0x2a, { Fields.plain p with f1 := d, f2 := a, f3 := b })
  | .waitany p d a => some (1, 0x2b, { Fields.plain p with f1 := d, f2 := a })
  | .waitall p a => some (1, 0x2c, { Fields.plain p with f2 := a })
  | .ffr p d a => some (1, 0x2d, { Fields.plain p with f1 := d, f2 := a })
  | .tclr p a => some (1, 0x2e, { Fields.plain p with f2 := a })
  | .brk p code => some (1, 0x2f, { Fields.plain p with imm := code })
  | .eret p => some (1, 0x30, .plain p)
  | .vadd p d a b x fmt => some (2, 0x00, { Fields.plain p with f1 := d, f2 := a, f3 := b, x := x, fmt := fmtCode fmt })
  | .vsub p d a b x fmt => some (2, 0x01, { Fields.plain p with f1 := d, f2 := a, f3 := b, x := x, fmt := fmtCode fmt })
  | .vmul p d a b x fmt => some (2, 0x02, { Fields.plain p with f1 := d, f2 := a, f3 := b, x := x, fmt := fmtCode fmt })
  | .vfma p d a b x fmt => some (2, 0x03, { Fields.plain p with f1 := d, f2 := a, f3 := b, x := x, fmt := fmtCode fmt })
  | .vfms p d a b x fmt => some (2, 0x04, { Fields.plain p with f1 := d, f2 := a, f3 := b, x := x, fmt := fmtCode fmt })
  | .vmin p d a b x fmt => some (2, 0x05, { Fields.plain p with f1 := d, f2 := a, f3 := b, x := x, fmt := fmtCode fmt })
  | .vmax p d a b x fmt => some (2, 0x06, { Fields.plain p with f1 := d, f2 := a, f3 := b, x := x, fmt := fmtCode fmt })
  | .vabs p d a x fmt => some (2, 0x07, { Fields.plain p with f1 := d, f2 := a, x := x, fmt := fmtCode fmt })
  | .vneg p d a x fmt => some (2, 0x08, { Fields.plain p with f1 := d, f2 := a, x := x, fmt := fmtCode fmt })
  | .vcvt p d a x dst fmt => some (2, 0x09, { Fields.plain p with f1 := d, f2 := a, x := x, fmt := fmtCode fmt, md := BitVec.ofNat 8 dst.code })
  | .vrcp p d a x fmt => some (2, 0x0a, { Fields.plain p with f1 := d, f2 := a, x := x, fmt := fmtCode fmt })
  | .vrsq p d a x fmt => some (2, 0x0b, { Fields.plain p with f1 := d, f2 := a, x := x, fmt := fmtCode fmt })
  | .vsqrt p d a x fmt => some (2, 0x0c, { Fields.plain p with f1 := d, f2 := a, x := x, fmt := fmtCode fmt })
  | .vexp p d a x fmt => some (2, 0x0d, { Fields.plain p with f1 := d, f2 := a, x := x, fmt := fmtCode fmt })
  | .vlog p d a x fmt => some (2, 0x0e, { Fields.plain p with f1 := d, f2 := a, x := x, fmt := fmtCode fmt })
  | .vsin p d a x fmt => some (2, 0x0f, { Fields.plain p with f1 := d, f2 := a, x := x, fmt := fmtCode fmt })
  | .vcos p d a x fmt => some (2, 0x10, { Fields.plain p with f1 := d, f2 := a, x := x, fmt := fmtCode fmt })
  | .vtanh p d a x fmt => some (2, 0x11, { Fields.plain p with f1 := d, f2 := a, x := x, fmt := fmtCode fmt })
  | .vpswp p d a x fmt => some (2, 0x12, { Fields.plain p with f1 := d, f2 := a, x := x, fmt := fmtCode fmt })
  | .vperm p d a b x fmt => some (2, 0x13, { Fields.plain p with f1 := d, f2 := a, f3 := b, x := x, fmt := fmtCode fmt })
  | .vsum p d a x fmt => some (2, 0x14, { Fields.plain p with f1 := d, f2 := a, x := x, fmt := fmtCode fmt })
  | .vrmax p d a x fmt => some (2, 0x15, { Fields.plain p with f1 := d, f2 := a, x := x, fmt := fmtCode fmt })
  | .vdot p d a b x fmt => some (2, 0x16, { Fields.plain p with f1 := d, f2 := a, f3 := b, x := x, fmt := fmtCode fmt })
  | .vcmp p d a b x c fmt => some (2, 0x17, { Fields.plain p with f1 := d, f2 := a, f3 := b, x := x, fmt := fmtCode fmt, md := BitVec.ofNat 8 c.code })
  | .vsel p d a b x fmt => some (2, 0x18, { Fields.plain p with f1 := d, f2 := a, f3 := b, x := x, fmt := fmtCode fmt })
  | .vscl p d a b x fmt => some (2, 0x19, { Fields.plain p with f1 := d, f2 := a, f3 := b, x := x, fmt := fmtCode fmt })
  | .vaxpy p d a b x fmt => some (2, 0x1a, { Fields.plain p with f1 := d, f2 := a, f3 := b, x := x, fmt := fmtCode fmt })
  | .vclmp p d a b x fmt => some (2, 0x1b, { Fields.plain p with f1 := d, f2 := a, f3 := b, x := x, fmt := fmtCode fmt })
  | .vqnt p d a b x dst fmt => some (2, 0x1c, { Fields.plain p with f1 := d, f2 := a, f3 := b, x := x, fmt := fmtCode fmt, md := BitVec.ofNat 8 dst.code })
  | .vgth p d a b x fmt => some (2, 0x1d, { Fields.plain p with f1 := d, f2 := a, f3 := b, x := x, fmt := fmtCode fmt })
  | .vsct p d a b x fmt => some (2, 0x1e, { Fields.plain p with f1 := d, f2 := a, f3 := b, x := x, fmt := fmtCode fmt })
  | .vset p d b x fmt => some (2, 0x1f, { Fields.plain p with f1 := d, f3 := b, x := x, fmt := fmtCode fmt })
  | .vmov p d a x fmt => some (2, 0x20, { Fields.plain p with f1 := d, f2 := a, x := x, fmt := fmtCode fmt })
  | .vand p d a b x fmt => some (2, 0x21, { Fields.plain p with f1 := d, f2 := a, f3 := b, x := x, fmt := fmtCode fmt })
  | .vor p d a b x fmt => some (2, 0x22, { Fields.plain p with f1 := d, f2 := a, f3 := b, x := x, fmt := fmtCode fmt })
  | .vshl p d a b sar post fmt => some (2, 0x23, { Fields.plain p with f1 := d, f2 := a, f3 := b, x := sar, fmt := fmtCode fmt, md := (BitVec.ofBool post).setWidth 8 <<< 7 })
  | .mfmt p a => some (3, 0x00, { Fields.plain p with f2 := a })
  | .mbld p a b => some (3, 0x01, { Fields.plain p with f2 := a, f3 := b })
  | .mmq p a => some (3, 0x02, { Fields.plain p with f2 := a })
  | .mstat p d => some (3, 0x03, { Fields.plain p with f1 := d })
  | .mcan p a => some (3, 0x04, { Fields.plain p with f2 := a })
  | .hrel p => some (3, 0x05, .plain p)
  | .evset p a => some (3, 0x06, { Fields.plain p with f2 := a })
  | .evdyn p a b => some (3, 0x07, { Fields.plain p with f2 := a, f3 := b })
  | .evpost p a b => some (3, 0x08, { Fields.plain p with f2 := a, f3 := b })
  | .evrun p a => some (3, 0x09, { Fields.plain p with f2 := a })
  | .evrd p d a => some (3, 0x0a, { Fields.plain p with f1 := d, f2 := a })
  | .evwr p a b => some (3, 0x0b, { Fields.plain p with f2 := a, f3 := b })
  | .evcnt p d a => some (3, 0x0c, { Fields.plain p with f1 := d, f2 := a })
  | .garr p d a op level => some (3, 0x0d, { Fields.plain p with f1 := d, f2 := a, md := BitVec.ofNat 8 (4 * op.code) ||| level.setWidth 8 })
  | .gset p a b => some (3, 0x0e, { Fields.plain p with f2 := a, f3 := b })
  | .gstat p d a => some (3, 0x0f, { Fields.plain p with f1 := d, f2 := a })
  | .dset p a b => some (3, 0x10, { Fields.plain p with f2 := a, f3 := b })
  | .tlbw p a b => some (3, 0x11, { Fields.plain p with f2 := a, f3 := b })
  | .tlbi p a => some (3, 0x12, { Fields.plain p with f2 := a })
  | .ptsync p => some (3, 0x13, .plain p)
  | .namei p a => some (3, 0x14, { Fields.plain p with f2 := a })
  | .rtsw p a => some (3, 0x15, { Fields.plain p with f2 := a })
  | .tdm p => some (3, 0x16, .plain p)
  | .tchk p => some (3, 0x17, .plain p)
  | .halt p => some (3, 0x18, .plain p)
  | .cxsv p a => some (3, 0x19, { Fields.plain p with f2 := a })
  | .cxld p a => some (3, 0x1a, { Fields.plain p with f2 := a })
  | .qnch p a => some (3, 0x1b, { Fields.plain p with f2 := a })
  | .rcmt p a => some (3, 0x1c, { Fields.plain p with f2 := a })
  | .rbak p a => some (3, 0x1d, { Fields.plain p with f2 := a })
  | .mwgt p a b => some (3, 0x1e, { Fields.plain p with f2 := a, f3 := b })
  | .wfi p => some (3, 0x1f, .plain p)
  | .unassignedOpcode _ _ _ => none
  | .wfiWake _ => none
  | .slotFill _ _ => none
  | .operandCacheFill _ => none
  | .trapHold _ => none
  | .trelResume _ _ => none
  | .trelDeliver _ _ _ => none
  | .trelDiscard _ _ => none
  | .trqRetire _ _ => none
  | .tmqRead _ => none
  | .qownWrite _ _ _ => none
  | .quarterScrubDone _ _ => none
  | .evownWrite _ _ _ => none
  | .bankScrubDone _ _ => none
  | .evqbWrite _ _ => none
  | .mslotWrite _ _ => none
  | .cxbaseWrite _ _ => none
  | .rtdhiWrite _ _ => none
  | .storeBufferLeave _ => none
  | .remoteStore _ => none
  | .remoteAtomic _ => none
  | .proxyRequest _ => none
  | .proxyResponse _ => none
  | .proxySyncResend _ => none
  | .acknowledgement _ => none
  | .sliceFillDone _ _ => none
  | .snapshotCopyDone _ _ => none
  | .rollbackLossNotice _ _ => none
  | .patrolScrub _ _ _ => none
  | .hostPostedWrite _ _ _ _ => none
  | .hostWatermark _ _ _ => none
  | .hostRead _ _ _ => none
  | .windowEntryWrite _ _ _ => none
  | .armWrite _ _ _ => none
  | .lstatWrite _ _ _ => none
  | .launch _ _ => none
  | .managementRegisterWrite _ _ _ => none
  | .cmdRestartSlot _ _ _ => none
  | .cmdSetPowerLimit _ _ _ => none
  | .cmdReadEventQueue _ => none
  | .cmdExtendMr _ _ _ => none
  | .cmdAttestationReport _ _ => none
  | .cmdResetModule _ => none
  | .boot _ => none
  | .powerReview _ => none
  | .droopDetected _ => none
  | .droopCleared _ => none
  | .zoneLost _ => none
  | .tileLost _ => none
  | .moduleUnreachable _ _ => none
  | .migrationDeparture _ => none
  | .contextArrival _ => none
  | .stewardMoveToHeap _ => none
  | .stewardReplay _ => none
  | .routerTurn _ => none
  | .relay _ => none
  | .forwardPacket _ => none
  | .nameWalkResponse _ => none
  | .nameiRequest _ _ => none
  | .nameiTileAck _ _ => none
  | .nameiComplete _ => none
  | .tlbiRequest _ _ => none
  | .tlbiTileAck _ _ => none
  | .tlbiComplete _ => none
  | .laneLost _ _ => none
  | .linkRetrainDone _ => none
  | .stealStart _ _ => none
  | .stealRequest _ => none
  | .stealRefusal _ => none
  | .stealTimeout _ _ => none
  | .stealBackoffEnd _ _ => none
  | .taskRecordArrival _ => none
  | .dequeSpill _ _ => none
  | .dequeRefill _ _ _ => none
  | .mailboxMessageArrival _ => none
  | .mailboxSpill _ _ _ => none
  | .mailboxReplay _ _ _ => none
  | .messageResend _ => none
  | .copyPacketSend _ => none
  | .copyPacketArrival _ => none
  | .bellWindowClose => none
  | .bellDelivery _ => none
  | .gongSweep _ _ _ => none
  | .commitRequest _ _ => none
  | .mirrorWrite _ _ => none
  | .shadowAck _ _ => none
  | .commitReport _ _ => none
  | .roundRelease _ _ _ => none
  | .passStart _ => none
  | .panelLoad _ => none
  | .rowDrain _ => none
  | .handlerStart _ _ => none
  | .groupShareRequest _ => none
  | .groupShareAnswer _ => none
  | .groupStartOrder _ => none
  | .groupCompletionReport _ => none
  | .groupCancel _ => none
  | .eventArrival _ => none
  | .tick _ => none
  | .hookPushRetry _ => none
  | .rollback _ => none
  | .tandemCompare _ => none
  | .gangPreempt _ => none
  | .gangQuench _ => none
  | .hostReadCompletion _ _ _ => none
  | .nameWalkRequest _ => none
  | .gsetNodeConfirm _ => none
  | .launchRecordWrite _ _ _ _ => none
  | .reshelveContinue _ => none

end Sys2Proof
end

