-- ==== Sys2Proof/WellFormed.lean ====
section
/-! DEFINITION. When an instruction has an encoding (spec/02_encoding.md R30-R37, spec/06_vector.md R130): the checks 2-5 of R39
on the instruction's fields.  A machine event has none. -/
namespace Sys2Proof

/-- Number of prefix words of an instruction of a page (R32). -/
def prefixCount (page : Nat) (p : Pfx) : Nat := (if page = 0 then 0 else 1) + p.xr.toNat + p.xm.toNat + p.xi

/-- A register-number field under its use: unused fields are zero, predicates have no high bit, codes are 0-2, and a high bit
needs XR (R30, R33). -/
def wfUse (u : Use) (xr : Bool) (f : RegNo) : Bool :=
  match u with
  | .off => f = 0
  | .reg => xr || f.toNat < 8
  | .pred => f.toNat < 8
  | .code => f.toNat ≤ 2

/-- The immediate fits the XI words present and the entry's own range (R34). -/
def wfImm (u : ImmUse) (w xi : Nat) (imm : Word) : Bool :=
  match u with
  | .none => imm = 0 && xi = 0
  | .signed => sext (10 * xi + w) imm = imm
  | .zext max => zext (10 * xi + w) imm = imm && imm.toNat ≤ max

/-- Orders each class of instruction takes (R37). -/
def orderAllowed (u : XmUse) (o : Order) : Bool :=
  match u, o with
  | _, .plain => true
  | .load, .acquire | .load, .sc => true
  | .store, .release | .store, .sc => true
  | .atomic, _ => true
  | .fence, _ => true
  | _, _ => false

/-- The format code an instruction means by a code in XM or by none (R37, R130). -/
def fmtMeant (dflt : Nat) (c : BitVec 4) : Nat := if c = 0 then dflt else c.toNat

/-- The fields of XM an entry accepts: order, scope and format (R37). -/
def xmAccepted (u : XmUse) (o : Order) (sc : Scope) (c : BitVec 4) : Bool :=
  match u with
  | .none => false
  | .elem set d => o = .plain && sc = .tile && set.contains (fmtMeant d c)
  | u => orderAllowed u o && (o ≠ .plain || sc = .tile) && c = 0

/-- Whether an entry may stand without XM: not where its default format is refused (R130). -/
def noXmAccepted : XmUse → Bool
  | .elem set d => set.contains d
  | _ => true

/-- XM's fields of an instruction (R37). -/
def wfXm (u : XmUse) (f : Fields) : Bool :=
  if f.p.xm then xmAccepted u f.o f.sc f.fmt
  else f.o = .plain && f.sc = .tile && f.fmt = 0 && noXmAccepted u

/-- The modifier of XP an entry accepts: listed bits only, and in a destination format a code 0-10 (R36, R130). -/
def mdAccepted (page op : Nat) (sp : OpSpec) (md : BitVec 8) : Bool :=
  md &&& ~~~sp.mdMask = 0 && (!(page = 2 && (op = 0x09 || op = 0x1C)) || md.toNat ≤ 10)

/-- The XR word's guard, absent without XR (R35). -/
def wfGuard (p : Pfx) : Bool := p.xr || (p.guard = 0 && !p.neg)

/-- The fields of an instruction at an assigned point. -/
def wfFields (page op : Nat) (sp : OpSpec) (f : Fields) : Bool :=
  prefixCount page f.p ≤ 4 && wfGuard f.p && wfUse sp.f1 f.p.xr f.f1 && wfUse sp.f2 f.p.xr f.f2 && wfUse sp.f3 f.p.xr f.f3 &&
  (sp.x || !f.x) && wfImm sp.imm (immWidth sp.layout) f.p.xi f.imm && wfXm sp.xm f && mdAccepted page op sp f.md &&
  (!isPair page op || f.f1.toNat ≤ 14)

/-- The op6 of a word (R26). -/
def op6 (w : Half) : BitVec 6 := w.extractLsb' 10 6

/-- An instruction that some words encode.  An unassigned encoding has a base word at an unassigned point and a chain that can
reach its page (R45). -/
def Instr.wf : Instr → Bool
  | .unassignedOpcode page base pos =>
    (op6 base).toNat < 0x3C && (opSpec page.toNat (op6 base).toNat).isNone && pos.toNat ≤ 4 && (page = 0 || 0 < pos.toNat)
  | i =>
    match fieldsOf i with
    | none => false
    | some (page, op, f) =>
      match opSpec page op with
      | none => false
      | some sp => wfFields page op sp f

end Sys2Proof
end

