-- ==== Sys2Proof/Decode.lean ====
section
/-! DEFINITION. Decoding a chain of 16-bit words, with the checks 2-5 of R39 and the word each failure names (R40), and the
encoder written from the same layouts (spec/02_encoding.md R26-R45). -/
namespace Sys2Proof

/-- Why a chain does not decode, by the check of R39 that it fails. -/
inductive DecodeWhy where
  /-- A fifth prefix, a repeated XR, XP or XM, or a reserved prefix bit (check 2, R33). -/
  | chainShape
  /-- An XP with page 0 (check 3, R36). -/
  | pageZero
  /-- A prefix word the instruction refuses, or a refused default format (check 4, R33, R36, R37, R130). -/
  | prefixRefused
  /-- A base-word field (check 5, R30, R34). -/
  | baseField
  deriving DecidableEq, Repr

/-- A decoding failure: the reason, the word named and its position (R40). -/
structure DecodeErr where
  why  : DecodeWhy
  word : Half
  pos  : Nat
  deriving DecidableEq, Repr

/-- What decoding answers: an instruction and its number of words, a failure, or that the words end before a base word. -/
inductive Decoded where
  | ok (i : Instr) (words : Nat)
  | bad (e : DecodeErr)
  | short
  deriving DecidableEq, Repr

/-- Bits [9:0] of a word. -/
def body (w : Half) : BitVec 10 := w.extractLsb' 0 10

/-- A word of an op6 and its bits [9:0] (R26). -/
def mkWord (op : BitVec 6) (b : BitVec 10) : Half := op ++ b

/-- What the next word does to a chain of prefixes: a failure, one prefix more, or the end by a base word. -/
inductive ChainOut where
  | bad (e : DecodeErr)
  | more (c : List Half)
  | done
  deriving DecidableEq, Repr

/-- Reserved bits of a prefix word (R33). -/
def reservedBits (w : Half) : Bool :=
  (op6 w = 0x3D && w.extractLsb' 0 3 ≠ 0) || (op6 w = 0x3F && w.extractLsb' 0 2 ≠ 0)

/-- Check 2 of R39 on one word, as soon as it is fetched (R33). -/
def chainWord (c : List Half) (w : Half) : ChainOut :=
  if (op6 w).toNat < 0x3C then .done
  else if c.length ≥ 4 || (op6 w ≠ 0x3C && c.any (fun v => op6 v = op6 w)) || reservedBits w then .bad ⟨.chainShape, w, c.length⟩
  else .more (c ++ [w])

/-- The first word of a chain with a prefix op6. -/
def prefixWord (c : List Half) (op : BitVec 6) : Option Half := c.find? (fun w => op6 w = op)

/-- The 10-bit body of a prefix of a chain, zero where it is absent. -/
def prefixBody (c : List Half) (op : BitVec 6) : BitVec 10 :=
  match prefixWord c op with
  | some w => body w
  | none => 0

/-- The XI bodies of a chain, the first highest (R34). -/
def xiBodies (c : List Half) : List (BitVec 10) := (c.filter (fun w => op6 w = 0x3C)).map body

/-- The page of a chain, 0 without XP (R36). -/
def chainPage (c : List Half) : Nat := ((prefixBody c 0x3E).extractLsb' 8 2).toNat

/-- The prefixes of a chain other than XP. -/
def chainPfx (c : List Half) : Pfx :=
  let xr := prefixBody c 0x3D
  { xr := (prefixWord c 0x3D).isSome, guard := xr.extractLsb' 4 3, neg := xr.getLsbD 3, xm := (prefixWord c 0x3F).isSome,
    xi := (xiBodies c).length }

/-- A register field: XR's high bit over the three low bits (R30). -/
def regField (hi : Bool) (lo : BitVec 3) : RegNo := BitVec.ofBool hi ++ lo

/-- Width and place of the low immediate bits of a base word (R29). -/
def lowImm (l : Layout) (b : BitVec 10) : Nat :=
  match l with
  | .rrr => 0
  | .ri | .sp => (b.extractLsb' 0 4).toNat
  | .rw => (b.extractLsb' 0 7).toNat
  | .b => (b.extractLsb' 0 6).toNat
  | .j | .s => b.toNat

/-- The immediate before extension: the XI bodies above the base word's field (R34). -/
def rawImm (xi : List (BitVec 10)) (w low : Nat) : Nat := xi.foldl (fun v e => v * 1024 + e.toNat) 0 * 2 ^ w + low

/-- The immediate of R34. -/
def immOf (u : ImmUse) (l : Layout) (xi : List (BitVec 10)) (b : BitVec 10) : Word :=
  let w := immWidth l
  let v : Word := BitVec.ofNat 64 (rawImm xi w (lowImm l b))
  match u with
  | .none => 0
  | .signed => sext (10 * xi.length + w) v
  | .zext _ => v

/-- Whether a layout has the fields [9:7], [6:4] and [3:1] (R29). -/
def hasF1 : Layout → Bool
  | .j | .s => false
  | _ => true
def hasF2 : Layout → Bool
  | .rrr | .ri | .sp => true
  | _ => false
def hasF3 : Layout → Bool
  | .rrr => true
  | _ => false

/-- The fields of a chain and its base word under a map entry. -/
def chainFields (sp : OpSpec) (c : List Half) (base : Half) : Fields :=
  let b := body base
  let xr := prefixBody c 0x3D
  let xm := prefixBody c 0x3F
  let l := sp.layout
  { p := chainPfx c,
    f1 := if hasF1 l then regField (sp.f1 = .reg && xr.getLsbD 9) (b.extractLsb' 7 3) else 0,
    f2 := if hasF2 l then regField (sp.f2 = .reg && xr.getLsbD 8) (b.extractLsb' 4 3) else 0,
    f3 := if hasF3 l then regField (sp.f3 = .reg && xr.getLsbD 7) (b.extractLsb' 1 3) else 0,
    x := match l with
      | .rrr => b.getLsbD 0
      | .b => b.getLsbD 6
      | _ => false,
    imm := immOf sp.imm l (xiBodies c) b,
    o := .ofCode (xm.extractLsb' 8 2).toNat,
    sc := .ofCode (xm.extractLsb' 6 2).toNat,
    fmt := xm.extractLsb' 2 4,
    md := (prefixBody c 0x3E).extractLsb' 0 8 }

/-- Whether an entry refuses a prefix word (check 4 of R39). -/
def refusesPrefix (page op : Nat) (sp : OpSpec) (w : Half) : Bool :=
  let b := body w
  match (op6 w).toNat with
  | 0x3C => sp.imm = .none
  | 0x3D => (b.getLsbD 9 && sp.f1 ≠ .reg) || (b.getLsbD 8 && sp.f2 ≠ .reg) || (b.getLsbD 7 && sp.f3 ≠ .reg)
  | 0x3E => !mdAccepted page op sp (b.extractLsb' 0 8)
  | _ => !xmAccepted sp.xm (.ofCode (b.extractLsb' 8 2).toNat) (.ofCode (b.extractLsb' 6 2).toNat) (b.extractLsb' 2 4)

/-- Whether the bits of a base word that hold no field of the entry are zero: sub10 of an S entry without a code, and unused
register fields (R29, R30). -/
def baseFieldsLegal (page op : Nat) (sp : OpSpec) (f : Fields) (base : Half) : Bool :=
  (sp.layout ≠ .s || sp.imm ≠ .none || body base = 0) && wfUse sp.f1 true f.f1 && wfUse sp.f2 true f.f2 && wfUse sp.f3 true f.f3 &&
  (sp.x || !f.x) && (!isPair page op || f.f1.toNat ≤ 14) &&
  (match sp.imm with
   | .zext max => f.imm.toNat ≤ max
   | _ => true)

/-- The word and position of the first element a test holds of. -/
def firstBad (t : Half → Bool) (k : Nat) : List Half → Option (Half × Nat)
  | [] => none
  | w :: ws => if t w then some (w, k) else firstBad t (k + 1) ws

/-- Checks 3-5 of R39 on a chain whose shape is legal, and the instruction. -/
def decodeBase (c : List Half) (base : Half) : Decoded :=
  let page := chainPage c
  let op := (op6 base).toNat
  match firstBad (fun w => op6 w = 0x3E && page = 0) 0 c with
  | some (w, k) => .bad ⟨.pageZero, w, k⟩
  | none =>
    match opSpec page op with
    | none => .ok (.unassignedOpcode (BitVec.ofNat 2 page) base (BitVec.ofNat 3 c.length)) (c.length + 1)
    | some sp =>
      match firstBad (refusesPrefix page op sp) 0 c with
      | some (w, k) => .bad ⟨.prefixRefused, w, k⟩
      | none =>
        if (prefixWord c 0x3F).isNone && !noXmAccepted sp.xm then .bad ⟨.prefixRefused, base, c.length⟩
        else
          let f := chainFields sp c base
          if baseFieldsLegal page op sp f base then .ok (sp.make f) (c.length + 1) else .bad ⟨.baseField, base, c.length⟩

/-- Decode the words that follow the prefixes `c`. -/
def decodeFrom (c : List Half) : List Half → Decoded
  | [] => .short
  | w :: ws =>
    match chainWord c w with
    | .bad e => .bad e
    | .more c' => decodeFrom c' ws
    | .done => decodeBase c w

/-- Decode an instruction at the head of a list of words (R26, R39). -/
def decode (ws : List Half) : Decoded := decodeFrom [] ws

/-- High bit and low bits of a register field. -/
def hiBit (f : RegNo) : BitVec 1 := f.extractLsb' 3 1
def lowBits (f : RegNo) : BitVec 3 := f.extractLsb' 0 3

/-- Bits [9:0] of the base word of an entry (R29). -/
def encodeBody (sp : OpSpec) (f : Fields) : BitVec 10 :=
  match sp.layout with
  | .rrr => lowBits f.f1 ++ lowBits f.f2 ++ lowBits f.f3 ++ BitVec.ofBool f.x
  | .ri | .sp => lowBits f.f1 ++ lowBits f.f2 ++ f.imm.extractLsb' 0 4
  | .rw => lowBits f.f1 ++ f.imm.extractLsb' 0 7
  | .b => lowBits f.f1 ++ BitVec.ofBool f.x ++ f.imm.extractLsb' 0 6
  | .j | .s => f.imm.extractLsb' 0 10

/-- Body of the XR word (R32). -/
def xrBody (f : Fields) : BitVec 10 := hiBit f.f1 ++ hiBit f.f2 ++ hiBit f.f3 ++ f.p.guard ++ BitVec.ofBool f.p.neg ++ 0#3

/-- Body of the XM word (R32). -/
def xmBody (f : Fields) : BitVec 10 := BitVec.ofNat 2 f.o.code ++ BitVec.ofNat 2 f.sc.code ++ f.fmt ++ 0#2

/-- The XI words of an immediate, highest first (R34). -/
def xiWords (imm : Word) (w : Nat) : Nat → List Half
  | 0 => []
  | k + 1 => mkWord 0x3C (imm.extractLsb' (w + 10 * k) 10) :: xiWords imm w k

/-- The words of an instruction at a point, in the canonical order XP, XR, XM, XI (R33). -/
def encodeFields (page op : Nat) (sp : OpSpec) (f : Fields) : List Half :=
  (if page = 0 then [] else [mkWord 0x3E (BitVec.ofNat 2 page ++ f.md)]) ++
  (if f.p.xr then [mkWord 0x3D (xrBody f)] else []) ++
  (if f.p.xm then [mkWord 0x3F (xmBody f)] else []) ++
  xiWords f.imm (immWidth sp.layout) f.p.xi ++
  [mkWord (BitVec.ofNat 6 op) (encodeBody sp f)]

/-- The words of an instruction; none for a machine event.  An unassigned encoding is written with XI words before its base word,
which its decoding does not look at (R39 check 3). -/
def encode : Instr → List Half
  | .unassignedOpcode page base pos =>
    (if page = 0 then [] else [mkWord 0x3E (page ++ 0#8)]) ++
    List.replicate (pos.toNat - (if page = 0 then 0 else 1)) (mkWord 0x3C 0) ++ [base]
  | i =>
    match fieldsOf i with
    | none => []
    | some (page, op, f) =>
      match opSpec page op with
      | none => []
      | some sp => encodeFields page op sp f

/-- EVAL of a 0x01 or 0x02 that names the base word of an instruction: the word and its position (R40). -/
def baseEval (i : Instr) : Word :=
  let ws := encode i
  BitVec.ofNat 64 ((ws.getLastD 0).toNat + 65536 * (ws.length - 1))

/-- EVAL of a decoding failure (R40). -/
def DecodeErr.eval (e : DecodeErr) : Word := BitVec.ofNat 64 (e.word.toNat + 65536 * e.pos)

/-- The halfwords of a number, the low one first. -/
def halvesOf : Nat → Nat → List Half
  | 0, _ => []
  | n + 1, w => BitVec.ofNat 16 w :: halvesOf n (w / 65536)

/-- The words of a table word in memory order.  The table writes a chain with its first word uppermost, and a chain in memory
order ends in a base word; so a prefix in the uppermost halfword says which of the two a number is (log 8). -/
def tableWords (nbits w : Nat) : List Half :=
  let ws := halvesOf (nbits / 16) w
  if (op6 (ws.getLastD 0)).toNat ≥ 0x3C then ws.reverse else ws

/-- The instruction the decoder reads from a word of spec/opcode_table.json. -/
def decodeTableWord (nbits w : Nat) : Option Instr :=
  match decode (tableWords nbits w) with
  | .ok i _ => some i
  | _ => none

end Sys2Proof
end

