-- ==== Sys2Proof/Machine/State.lean ====
section
/-! DEFINITION. The state of the load-store domain as plain data (INVENTORY.md, State; spec/01_machine.md R9, R13,
R17-R21), and its value after reset. -/
namespace Sys2Proof.Machine

/-- Why a step stops with a fault. -/
inductive Fault where
  /-- A STRIPED access whose shelf arithmetic (R161) leaves the 27-bit vault (R156): no such byte exists.  Raised by
  loads, stores and atomics through `vaultKey`; safe, since no behaviour is assumed. -/
  | noSuchVaultAddress
  deriving DecidableEq, Repr

/-- Why an instruction has no meaning. -/
inductive Refusal where
  /-- An instruction not reached yet; raised only by an arm of `exec`.  Safe. -/
  | notModelled (mnemonic : String)
  deriving DecidableEq, Repr

/-- A register c0-c15 or a capability special register: 128 bits and a tag (R76, R77). -/
structure Reg where
  tag  : Bool
  bits : Quad
  deriving DecidableEq, Repr

/-- The zero, untagged register value (R31). -/
def Reg.zero : Reg := { tag := false, bits := 0 }

/-- The architectural state of a thread that R74 lists.  PCC's cursor is the PC (R200), so PCC holds both. -/
structure Arch where
  pcc    : Reg
  regs   : Vector Reg 16
  preds  : BitVec 8
  stat   : BitVec 9
  tid    : BitVec 32
  vl     : BitVec 15
  fmt    : BitVec 19
  carry  : BitVec 16
  mbxn   : BitVec 3
  jc     : Reg
  migt   : BitVec 8
  retc   : Word
  ecause : BitVec 8
  eval   : Word
  epc    : VAddr
  estat  : BitVec 9
  seed   : BitVec 32
  fflg   : BitVec 5
  gval   : Word
  deriving DecidableEq, Repr

/-- Arithmetic of an atomic (R171, R173) and of the decrement of `tend` (R236). -/
inductive AOp where
  | add | or | and | xor | min | minu | max | maxu | addf | swp | cas | dec
  deriving DecidableEq, Repr

/-- The home of an access: a byte of a tile's own memory named by its physical key, at the site `t` that holds the logical tile
`name`, or a host physical address behind a port (R159). -/
inductive Home where
  | tile (t pa : Nat) (name : Ltn)
  | host (port hpa : Nat)
  deriving DecidableEq, Repr

/-- An event as `evpost` and the fabric hold it (R314); in a queue, with the logical tile whose queue it is and the stroke number of its gang
when it was written there (R334, R349). -/
structure Event where
  tick : Nat
  wt   : BitVec 16
  idx  : Nat
  name : Ltn := 0
  stk  : Nat := 0
  deriving DecidableEq, Repr

/-- What a store-buffer entry or a remote operation does at its home (R256). -/
inductive StOp where
  | write (n : Nat) (data : Quad) (tag : Bool)
  | fes (full : Bool)
  | jinit (v : Word)
  | atom (op : AOp) (n : Nat) (b : Word) (sc : Bool)
  | dec
  | msg (dst core mbx : Nat) (data : BitVec 256)
  | event (dst : Nat) (e : Event)
  deriving DecidableEq, Repr

/-- An entry of a store buffer, or a release marker of `fence` (R120, R256, R259).  `sent` names the packet of an
entry that has left and whose acknowledgement is due, 0 for an SC atomic of this tile that awaits its bell order; `win` says
whether it addresses the local window. -/
inductive SbItem where
  | entry (seq : Nat) (op : StOp) (va : VAddr) (home : Home) (win : Bool) (o : Order) (sc : Scope) (sent : Option Nat)
  | marker (sc : Scope) (t : Nat)
  deriving DecidableEq, Repr

/-- What the response of a proxy request completes: the register or predicate written, how (0 an integer, 1 a quad, 2 an `ldc`
keeping its tag, 3 a predicate, 4 nothing), the address register and its increment for `ldp`, the bytes of the instruction. -/
structure Await where
  d    : RegNo
  how  : Nat
  pd   : PredNo
  inc  : Option (RegNo × Word)
  len  : Nat
  deriving DecidableEq, Repr

/-- What a parked thread waits for (Park, R8). -/
inductive Park where
  | drain
  | migrate (dst : Ltn) (keep : BitVec 16)
  | storeFull
  | sbEmpty
  | unacked
  | miss (asid va kind : Nat)
  | name (ltn : Ltn)
  | fill (t sb : Nat)
  | operand
  | sync (pa : Nat)
  | proxy (req : Nat) (w : Await)
  | proxyRefused (since : Nat)
  | garr (level : Nat) (op : GOp) (v : Word) (d : RegNo) (len : Nat)
  | recv (mask : BitVec 8)
  | tagsAny (mask : Word)
  | tagsAll (mask : Word)
  | copySlot
  | matQueue
  | matGroup (cmd : Nat)
  | matCancel (len : Nat)
  | evRun
  | request (req len : Nat)
  | routeSwitch
  | deque
  | wfi (len : Nat)
  | vector
  | acked (sc : Scope)
  | storeAcked (seq : Nat)
  | winStores
  | scrub (q : Nat)
  | snapshot (block : Nat)
  | bell (w : Nat)
  | pairSlot
  | follower
  | fault (va : VAddr)
  | trapHold (cause : Nat) (value : Word)
  | rollback
  | stopped
  deriving DecidableEq, Repr

/-- A drained row waiting for, or served by, a handler thread (R295, R296, R306). -/
structure HeldRow where
  cmd   : Nat
  core  : Nat
  asid  : Nat
  lgen  : Nat
  buf   : Nat
  row   : Nat
  col   : Nat
  n     : Nat
  dOff  : Nat
  fmt   : BitVec 19
  hent  : Nat
  handed : Bool
  ltn   : Ltn
  deriving DecidableEq, Repr

/-- What a thread is (R69, R360). -/
inductive Kind where
  | gang
  | handler (row : HeldRow)
  | steward
  | firmware
  | system
  deriving DecidableEq, Repr

/-- Where a thread is (R25, R69). Core 8 is the service core; `draining` is a handler thread that has ended while entries of its store buffer
have still to leave (R261, R306). -/
inductive Loc where
  | slot (t core n : Nat)
  | queue (t : Nat)
  | heap (t idx : Nat) (held trapHeld : Bool)
  | fabric
  | saved (t : Nat)
  | draining (t core : Nat)
  | ended
  deriving DecidableEq, Repr

/-- The leader's tandem state (R353-R356): the checkpoint, instructions and fingerprints of the open interval, whether the
last comparison disagreed, whether the interval is one page-2 instruction; store-buffer entries numbered from `mark` on
belong to the open interval; `slot` is the follower's on core 2k + 1. -/
structure Tandem where
  check   : Arch
  count   : Nat
  leadFp  : BitVec 32
  followFp : BitVec 32
  missed  : Bool
  vector  : Bool
  mark    : Nat
  slot    : Nat
  deriving DecidableEq, Repr

/-- What happens next to a page-2 instruction: all that is left of it, only its start, the reading of one bank word of the window, or its
results (R128, R137). -/
inductive VAct where
  | finish
  | start
  | read (u : Nat)
  | results
  deriving DecidableEq, Repr

/-- Results of a page-2 instruction that have not been delivered: its registers, SEED and the flags raised (R138). -/
structure VResult where
  regs : Vector Reg 16
  seed : BitVec 32
  fl   : BitVec 5
  deriving DecidableEq, Repr

/-- A page-2 instruction under way (R137, R139): the instruction, the bank words of the window read so far with what they held, those of
them that were found poisoned, its results once it has them, its element writes that have not landed, each with whether it comes from a word
found poisoned, and the bank words that lose their poison once the last of their writes has landed (R135, R136). -/
structure VRun where
  act     : VAct
  instr   : Option Instr
  begun   : Bool
  seen    : List (Nat × List Byte)
  failed  : List Nat
  result  : Option VResult
  pending : List (Nat × List Byte × Bool)
  covers  : List Nat
  deriving DecidableEq, Repr

/-- No page-2 instruction under way. -/
def VRun.idle : VRun := { act := .finish, instr := none, begun := false, seen := [], failed := [], result := none, pending := [], covers := [] }

/-- A thread: its architectural state (R74) and what else travels with it or belongs to its slot; `after` is what a coupled thread waits for
once the open interval has been compared: an acknowledgement, or the page fault it is owed (R187, R257, R354); `trapAt` is when it took its
last trap (R364); `mrec` is the record that its `mmq` has read and keeps while it waits for a queue entry (R303); `hstk`, of a context in the
heap, the stroke number of its gang when it was written there (R334). -/
structure Thread extends Arch where
  id      : Nat
  kind    : Kind
  asid    : Nat
  lgen    : Nat
  loc     : Loc
  ltn     : Ltn
  park    : Option Park
  sb      : List SbItem
  rhome   : Ltn
  rcnt    : Nat
  short   : Nat
  pinc    : Nat
  pinx    : Bool
  refault : Nat
  faultAt : VAddr × VAddr
  since   : Nat
  races   : Nat
  trapAt  : Nat
  tandem  : Option Tandem
  after   : Option Park
  vec     : VRun
  mrec    : Option (BitVec 512)
  hstk    : Nat
  deriving DecidableEq, Repr

/-- A task record (R228). `pending` lists the spawner's store sequence numbers still unperformed (R229); `stk`, of a record in the spill, is the
stroke number of its gang when it was written there (R334). -/
structure TaskRec where
  pc      : VAddr
  arg1    : Reg
  arg2    : Reg
  jc      : Reg
  asid    : Nat
  lgen    : Nat
  hook    : Bool
  pending : List Nat
  stk     : Nat := 0
  deriving DecidableEq, Repr

/-- A mailbox message (R239); `stk`, of one in the overflow, is the stroke number of its gang when it was written there (R334). -/
structure Msg where
  src  : Ltn
  asid : Nat
  lgen : Nat
  data : BitVec 256
  stk  : Nat := 0
  deriving DecidableEq, Repr

/-- What a packet carries (R198, R218). -/
inductive Payload where
  | context (th : Nat)
  | task (r : TaskRec) (core req : Nat)
  | store (th seq : Nat) (op : StOp) (va : VAddr) (pa : Nat)
  | proxyLoad (th : Nat) (n : Nat) (va : VAddr) (pa : Nat)
  | proxySync (th : Nat) (op : Nat) (va : VAddr) (pa : Nat) (data : Word) (races : Nat)
  | proxyFer (th : Nat) (va : VAddr) (pa : Nat)
  | proxyAtomic (th : Nat) (op : AOp) (n : Nat) (va : VAddr) (pa : Nat) (b cmp : Word) (sc : Bool)
  | hostLoad (th : Nat) (n : Nat) (va : VAddr) (port hpa : Nat)
  | response (th req : Nat) (status : Nat) (data : Quad) (tag poison : Bool) (va : VAddr)
  | ack (pk : Nat) (status : Nat) (va : VAddr)
  | events (es : List Event)
  | copy (cid off : Nat) (data : List Byte) (tags : List Bool) (psn : List Bool) (tagged full last : Bool)
      (core tag : Nat)
  | msg (th seq : Nat) (core mbx : Nat) (m : Msg)
  | walk (ltn : Ltn)
  | walkReply (ltn : Ltn) (bound : Bool) (site : Nat)
  | gset (th : Nat) (key : Nat) (value : Word)
  | shareRequest (cmd : Nat) (shape : BitVec 512) (fmt : BitVec 19) (core part : Nat)
  | shareAnswer (cmd part : Nat) (sub : Nat)
  | shareStart (cmd part : Nat)
  | shareReport (cmd part : Nat) (flags : BitVec 5) (psn : Bool)
  | shareCancel (cmd part : Nat)
  | mirror (t g : Nat)
  | steal (msg : Nat)
  deriving DecidableEq, Repr

/-- Where a packet is: waiting at its source's injection port, at a router it has entered (module and zone, quadrant,
router), at a tile's network interface for relaying, ejected at a site, or discarded without an acknowledgement (R214). -/
inductive Pos where
  | source (t : Nat)
  | router (field quad r : Nat)
  | relayed (t : Nat)
  | arrived (t : Nat)
  | aside (t : Nat)
  | discarded
  deriving DecidableEq, Repr

/-- A packet in the fabric with the head fields of R198 that act; `len` counts the flits that follow the head. -/
structure Packet where
  id      : Nat
  vc      : Nat
  len     : Nat
  src     : Ltn
  dst     : Ltn
  asid    : Nat
  lgen    : Nat
  gen     : Bool
  turns   : List (BitVec 4)
  dport   : Nat
  fwdc    : Nat
  pos     : Pos
  body    : Payload
  deriving DecidableEq, Repr

/-- A steal request or refusal (R232). -/
structure StealMsg where
  id      : Nat
  refusal : Bool
  thief   : Nat
  thiefCore : Nat
  victim  : Nat
  victimCore : Option Nat
  asid    : Nat
  lgen    : Nat
  deriving DecidableEq, Repr

/-- Residency entry of a gang on a tile (R106, R108, R70, R285, R268-R281, R372); `forming` while system software is still making the gang
resident, before its launch, `rcmt` or `cxld` (log 23). `doms` holds for each level joined the
field-node slot and the domain identifier. -/
structure Resid where
  asid     : Nat
  lgen     : Nat
  ltn      : Ltn
  idx      : Nat
  quarters : List Nat
  forming  : Bool
  weight   : Nat
  slotFirst : Nat
  slotCount : Nat
  cxbase   : Option Nat
  preempted : Bool
  quenching : Bool
  doms     : List (Nat × (Nat × Nat))
  recv     : Bool
  rounds   : List (Nat × Nat)
  nrb      : Bool
  deriving DecidableEq, Repr

/-- Steal state of a core (R231, R232): the request outstanding and when it was sent, the gang of the round by its key and residency
index, the slot reserved for the answer, the refusals of this round, the core and circle entry last asked, and when a back-off
began. -/
structure Steal where
  waiting : Option Nat
  sentAt  : Nat
  gang    : Option Nat
  gangPos : Nat
  slot    : Nat
  asked   : Nat
  coreAt  : Nat
  tileAt  : Nat
  backoff : Option Nat
  deriving DecidableEq, Repr

/-- Copy tags of one gang on one core (R245). -/
structure TagMap where
  tags : Word
  ovf  : Word
  deriving DecidableEq, Repr

/-- Status of the matrix engine for one gang on one core, the sticky fields of R304. -/
structure MStat where
  sub  : Nat
  rtag : Nat
  part : Nat
  rej  : Nat
  flg  : BitVec 5
  psn  : Bool
  drop : Bool
  can  : Bool
  deriving DecidableEq, Repr

/-- A compute core (0-7) or the service core (8); the task records and mailbox messages of saved gangs stand apart (R372-R374). -/
structure Core where
  lastSlot : Nat
  recent   : List Bool
  rrPtr    : Nat
  credit   : Nat
  vecq     : List Nat
  recvq    : List Nat
  deque    : List TaskRec
  spill    : List TaskRec
  steal    : Steal
  mbx      : List (Nat × List Msg)
  savedTasks : List TaskRec
  savedMsgs : List (Nat × Msg)
  tags     : List (Nat × TagMap)
  mstat    : List (Nat × MStat)
  bufs     : List HeldRow
  utlb     : List (Nat × Word)
  bellLast : Option Nat
  ctr      : List (Nat × Word)
  deriving DecidableEq, Repr

/-- A tile-TLB miss record (R185). -/
structure Miss where
  kind : Nat
  asid : Nat
  va   : Nat
  deriving DecidableEq, Repr

/-- One route-table bank (R215): entries by index. -/
structure RouteBank where
  field : List (Nat × Quad)
  quad  : List (Nat × Quad)
  site  : List (Nat × Quad)
  deriving DecidableEq, Repr

/-- Contents of one memory block with its metadata (undo records, snapshots, shadows; R332, R335). -/
structure Block where
  base : Nat
  data : List Byte
  tags : List Bool
  full : List Bool
  psn  : List Bool
  deriving DecidableEq, Repr

/-- A line of a superblock in the slice (R163); `round` is the gang whose round bit is set, `old` the vault's contents while
the line is dirty. -/
structure Line where
  valid : Bool
  dirty : Bool
  round : Option Nat
  old   : Option Block
  deriving DecidableEq, Repr

/-- An allocation of a superblock that waits for a way of its set (R165): whether SLHOLDW has counted it, and the accesses that held
superblocks of the set when it began to wait, which go on ahead of it. -/
structure Alloc where
  sb      : Nat
  counted : Bool
  ahead   : List Nat
  deriving DecidableEq, Repr

/-- A superblock held in the slice (R163), and whether its fill is under way (R164). -/
structure Super where
  sb      : Nat
  filling : Bool
  lines   : List Line
  deriving DecidableEq, Repr

/-- A request that waits at a bank of the slice, in order of arrival: the number of the packet, store-buffer entry, copy or thread
that makes it, and its superblock (R164). -/
structure SliceReq where
  who : Nat
  sb  : Nat
  deriving DecidableEq, Repr

/-- An entry of the shelf mask cache: the lines of a sub-block of a stripe page that are homed on the tile (R161). -/
structure Mask where
  field : Nat
  page  : Nat
  sub   : Nat
  bits  : BitVec 128
  deriving DecidableEq, Repr

/-- A posted write on its way to a host, with the EP bit it carries (R168, R264). -/
structure HostWrite where
  hpa  : Nat
  data : List Byte
  ep   : Bool
  deriving DecidableEq, Repr

/-- An undo record (R332): its kind, 0 for a vault line and 1 to 4 for an entry of a reserve area, the address, and the line or the bytes of
the entry as they stood. -/
structure Undo where
  asid   : Nat
  lgen   : Nat
  stk    : Nat
  kind   : Nat
  addr   : Nat
  block  : Block
  deriving DecidableEq, Repr

/-- A waiter on a full/empty word (R115): a thread parked at the home, or a proxy entry that answers the request
`proxy` of thread `th` at the tile `src`.  `op` is 0 `lds`, 1 `ldk`, 2 `sts`, 3 `join`; `len` the instruction's bytes. -/
structure Waiter where
  pa    : Nat
  th    : Nat
  proxy : Option Nat
  op    : Nat
  d     : RegNo
  data  : Word
  va    : VAddr
  page  : Nat
  races : Nat
  len   : Nat
  src   : Ltn
  name  : Ltn
  asid  : Nat
  lgen  : Nat
  deriving DecidableEq, Repr

/-- A copy in a tile's copy engine (R243-R247). -/
structure Copy where
  id    : Nat
  asid  : Nat
  lgen  : Nat
  ltn   : Ltn
  core  : Nat
  cap   : Reg
  n     : Nat
  desc  : Word
  done  : Nat
  ended : Bool
  miss  : Option Nat
  unmapped : Option Nat
  pks   : List Nat
  deriving DecidableEq, Repr

/-- A panel slot record (R285). -/
structure PanelSlot where
  head  : Bool
  first : Nat
  fmt   : Nat
  k     : Nat
  w     : Nat
  asid  : Nat
  lgen  : Nat
  deriving DecidableEq, Repr

/-- A queued matrix command or panel load (R288, R291, R302).  `part` is 0 for the lead or a command of its own, 1-3 for a
partner's share led by tile `lead`; `pass` counts the passes begun; `answers` are the partners' answers before acceptance, of the `mmq`
of thread `th`, and `reports` the completion reports still due; `src` is the source of a load as a window offset, or the bytes of a
group's `mmq`; `early` holds the elements of A and C that a pass to come has read already: the pass, the window offset, the bytes, and
whether they were poisoned (R297). -/
structure MatCmd where
  seq     : Nat
  load    : Bool
  core    : Nat
  asid    : Nat
  lgen    : Nat
  ltn     : Ltn
  shape   : BitVec 512
  fmt     : BitVec 19
  src     : Nat
  part    : Nat
  lead    : Ltn
  leadCmd : Nat
  accepted : Bool
  pass    : Nat
  stopping : Bool
  th      : Nat
  answers : List (Nat × Nat)
  reports : List Nat
  flags   : BitVec 5
  psn     : Bool
  early   : List (Nat × Nat × List Byte × Bool)
  deriving DecidableEq, Repr

/-- A result row of the pass that is draining (R295). -/
structure Row where
  cmd    : Nat
  row    : Nat
  col    : Nat
  vals   : List (BitVec 32)
  psn    : Bool
  deriving DecidableEq, Repr

/-- The matrix engine of a tile (R283-R290). -/
structure Matrix where
  ptr    : Nat
  grant  : Option Nat
  credit : Nat
  weights : BitVec 32
  queue  : List MatCmd
  slots  : List (Nat × PanelSlot)
  rows   : List Row
  mslot  : Word
  deriving DecidableEq, Repr

/-- A page of a fan-out region as a context keeps it (R323): its first address, the bits of its size, the vault address of its first byte, and
whether a `tlbi` has made the translation stale. -/
structure EvPage where
  va    : Nat
  bits  : Nat
  at'   : Nat
  stale : Bool
  deriving DecidableEq, Repr

/-- An event-engine context of a gang (R315, R323, R328). -/
structure EvCtx where
  asid  : Nat
  lgen  : Nat
  ltn   : Ltn
  first : Nat
  count : Nat
  look  : Nat
  ltrap : Bool
  hzn   : Nat
  fo    : Reg
  pages : List EvPage
  nextCore : Nat
  fire  : Word
  late  : Word
  drop  : Word
  sLate : Bool
  sDrop : Bool
  sPsn  : Bool
  deriving DecidableEq, Repr

/-- A run of ticks of the context of a logical tile (R322, R327, R349). -/
structure EvRun where
  id   : Nat
  asid : Nat
  lgen : Nat
  ltn  : Ltn
  left : Nat
  tag  : Nat
  core : Nat
  deriving DecidableEq, Repr

/-- A tick whose emission is under way (R316 step 3): the neurons still to emit, and the events for other tiles by destination. -/
structure EvTick where
  asid  : Nat
  lgen  : Nat
  ltn   : Ltn
  tick  : Nat
  fired : List Nat
  out   : List (Nat × List Event)
  deriving DecidableEq, Repr

/-- The event engine of a tile (R310-R329); `cur` is the run that holds the run slot, `tick` its tick while hook pushes stall it (R319, R322). -/
structure EvEngine where
  own   : List (Nat × Word)
  qb    : Word
  acc   : List (Nat × BitVec 32)
  dyn   : List (Nat × Quad)
  queue : List (Nat × Event)
  ctxs  : List EvCtx
  runs  : List EvRun
  cur   : Option Nat
  tick  : Option EvTick
  hook  : List (Nat × TaskRec)
  hookTold : Bool
  deriving DecidableEq, Repr

/-- A trap record (R364). -/
structure TrapRec where
  eval  : Word
  epc   : VAddr
  asid  : Nat
  lgen  : Nat
  cause : Nat
  held  : Option Nat
  tid   : BitVec 32
  slot  : Nat
  core  : Nat
  deriving DecidableEq, Repr

/-- The event-engine part of a commit copy (R338). -/
structure EvImage where
  ctx   : Option EvCtx
  acc   : List (Nat × BitVec 32)
  dyn   : List (Nat × Quad)
  queue : List (Nat × Event)
  deriving DecidableEq, Repr

/-- A commit-record copy of a gang on a tile (R331): its number 0 or 1, whether it is the current one, and the commit that `stk` counts, for a
logical tile and the quarters held there, with the block map of R340: for each scratchpad block that the shadow holds, the copy with its commit
contents. -/
structure Commit where
  copy    : Nat
  live    : Bool
  asid    : Nat
  lgen    : Nat
  ltn     : Ltn
  quarters : List Nat
  stk     : Nat
  threads : List Thread
  deques  : List (Nat × List TaskRec)
  spill   : List (Nat × List TaskRec)
  mbx     : List (Nat × List Msg)
  mbxOvf  : List (Nat × Msg)
  tags    : List (Nat × TagMap)
  ev      : EvImage
  bmap    : List (Nat × Nat)
  deriving DecidableEq, Repr

/-- What a shadow tile holds of its source tile (R340-R343): the scratchpad shadow in its two copies, each block under its copy's number, the
items of the last commit and those of a commit phase under way, the shadow log (old contents of the shadow frames written in it, by gang),
and the lines left stale.  The lines themselves lie in the shadow frames. -/
structure Shadow where
  source : Nat
  blocks : List (Nat × Block)
  items  : List Commit
  pendItems : List Commit
  log    : List (Nat × Block)
  stale  : List Nat
  deriving DecidableEq, Repr

/-- Progress of a commit phase of a gang on a tile (R338): the lines written back, the blocks with a snap bit, the new items of each logical tile, whether
everything is to be mirrored, whether the shadow has been written and has acknowledged, and whether anything was left unmirrored: lines only,
or items and blocks too. -/
structure Phase where
  g      : Nat
  lines  : List Nat
  blocks : List Nat
  items  : List Commit
  full   : Bool
  sent   : Bool
  acked  : Bool
  short  : Bool
  bare   : Bool
  deriving DecidableEq, Repr

/-- A commit phase of a gang (R273, R338, R358): the sites that have not reported, the request of an `rcmt` or the gong slot of the
round that it completes. -/
structure CommitRun where
  todo : List Nat
  req  : Option Nat
  slot : Nat
  deriving DecidableEq, Repr

/-- A tile site (`missWait` holds the misses that wait for room in the miss queue, `allocs` the allocations that wait in the
slice, `feed` the core that the context queue
served last): cores, scratchpad owners, slice, network interface and engines (R13); `recover` holds what a loss has brought here for
gangs that are not resident yet (R348).  Its scratchpad, vault and operand
layer bytes lie in `State.mem` under the site's keys. -/
structure Tile where
  cores   : List (Nat × Core)
  resid   : List Resid
  qown    : List (Nat × Word)
  ctr     : List (Nat × Word)
  waiters : List Waiter
  slice   : List Super
  sliceq  : List SliceReq
  allocs  : List Alloc
  masks   : List Mask
  tlb     : List (Nat × Word)
  missq   : List Miss
  missWait : List Miss
  svcAsid : Nat
  ctxq    : List Nat
  feed    : Nat
  heapq   : List Nat
  heapFullTold : Bool
  ncache  : List (Ltn × Nat)
  fwd     : List (Ltn × Nat)
  banks   : List (Bool × RouteBank)
  gen     : Bool
  heldFields : List (Nat × List Nat)
  switcher : Option Nat
  mbxOvf  : List (Nat × Msg)
  mbxTold : Bool
  refused : List (Ltn × Nat × Nat)
  resend  : List (Nat × Nat × Nat)
  copies  : List Copy
  mat     : Matrix
  ev      : EvEngine
  commits : List Commit
  undo    : List Undo
  snaps   : List Block
  snapping : List Nat
  shadow  : List Shadow
  recover : List (Commit × List Block)
  phase   : List Phase
  trapq   : List TrapRec
  trapWait : List TrapRec
  trapHead : Nat
  svec    : Reg
  spcc    : Reg
  tvec    : Reg
  cxbase  : Word
  tasks   : Nat
  deriving DecidableEq, Repr

/-- What the cox is to do to a gang next: roll it back to its last commit (R344), or end it and report a cause at a tile (R347). -/
inductive CoxOrder where
  | rollback
  | fatal (t cause : Nat) (eval : Word)
  deriving DecidableEq, Repr

/-- One sample of a member tile in a sweep (R268-R272). -/
structure Sample where
  t       : Nat
  arrived : Bool
  quiet   : Bool
  started : Bool
  ops     : List GOp
  level   : Nat
  value   : Option Word
  other   : Bool
  deriving DecidableEq, Repr

/-- A segment slot of the gong: its record (R267) and the state of its rounds (R271-R273). -/
structure GongSlot where
  record  : Word
  prevArr : Bool
  prevMix : Bool
  sweep   : List Sample
  last    : List Sample
  commit  : Bool
  value   : Word
  deriving DecidableEq, Repr

/-- What a gang is, fixed at launch (R19, R383), and what the machine keeps of it for all its tiles; `saved` holds the sites and
quarters of a pre-empted gang (R374), `slots` its gong slots as they were saved (R277), `hostBytes` what the host
wrote while the stroke was open: each byte's key, the host's value, and the value before (R263). -/
structure Gang where
  asid    : Nat
  lgen    : Nat
  num     : BitVec 16
  code    : Reg
  tvec    : Reg
  arg     : Reg
  entry   : Nat
  q       : Nat
  rb      : Bool
  mir     : Bool
  mlo     : Nat
  mhi     : Nat
  seed    : BitVec 32
  tiles   : List Ltn
  steal   : List (Int × Int)
  x0      : Nat
  y0      : Nat
  w       : Nat
  h       : Nat
  excused : List Ltn
  stk     : Word
  committed : Bool
  strokeOpen : Bool
  lastPoison : Option Word
  order   : Option CoxOrder
  commit  : Option CommitRun
  partialMir : Bool
  bareMir : Bool
  egress  : List (Nat × List HostWrite)
  stopped : Bool
  saved   : List (Nat × List Nat)
  slots   : List (Nat × GongSlot)
  hostBytes : List (Nat × Byte × Byte)
  deriving DecidableEq, Repr

/-- A binding entry of a name table (R210). -/
structure Binding where
  v     : Bool
  field : Nat
  quad  : Nat
  site  : Nat
  deriving DecidableEq, Repr

/-- A zone (field): its name table (R210) and supply (R15, R394, R396); `retiring` holds indices whose retirement waits for the zone's
reshelving, and `salvage` the lines of their tiles that a shadow held; `returning` holds retired
indices that a new image brings back, with their sites (R162). -/
structure Zone where
  retired : List Nat
  retiring : List Nat
  salvage : List (Nat × Block)
  returning : List (Nat × Nat)
  stripeP : Nat
  stripeA : Nat
  epoch   : BitVec 16
  live    : Nat
  binds   : List (Nat × Binding)
  limit   : Nat
  draw    : Nat
  temp    : Nat
  droop   : Nat
  power   : Nat
  thermal : Nat
  lost    : Bool
  clamped : Bool
  cycBase : Nat
  cycAt   : Nat
  reshelving : Bool
  trims   : Nat
  deriving DecidableEq, Repr

/-- A management event (R395). -/
structure MgmtEvent where
  code : Nat
  cause : Nat
  ltn  : Nat
  eval : Word
  bell : Nat
  deriving DecidableEq, Repr

/-- A path by which the cox receives a command and answers it: the mailbox in a port's BAR0, UDP, or I²C (R393). -/
inductive CmdPath where
  | mailbox (port : Nat)
  | udp
  | i2c
  deriving DecidableEq, Repr

/-- An answer of the cox to a command, with its path and, of a report, its certificate chain (R392, R393), or the completion of a host read. -/
inductive Reply where
  | done (path : CmdPath) (code : Nat)
  | events (path : CmdPath) (es : List MgmtEvent)
  | report (path : CmdPath) (version : Nat) (serial : BitVec 64) (mrs : List (BitVec 256)) (versions : List (BitVec 16)) (boots : Nat)
      (nonce : BitVec 256) (signature : Nat) (chain : List Byte)
  | hostRead (port : Nat) (status : Nat) (data : List Byte)
  deriving DecidableEq, Repr

/-- A Roshus Link port of a module: its port tile and the module it faces, as the image names them; whether it is trained and whether it is
retired; packets that have crossed it and may be unacknowledged, with their gangs (R221, R388, R389). -/
structure Roshus where
  tile    : Ltn
  peer    : Nat
  trained : Bool
  retired : Bool
  crossed : List (Nat × Nat)
  deriving DecidableEq, Repr

/-- A module: the cox, its configuration image and the management registers (R352, R390-R396); its number from boot phase 6 on (R388), the
path of the command that is acted on (R393), and the MSI-X vectors signalled, each with its port (R379). -/
structure Module where
  phase   : Nat
  refused : Bool
  boots   : Nat
  mrs     : List (BitVec 256)
  plim    : Nat
  pnow    : Nat
  evHead  : BitVec 8
  evTail  : BitVec 8
  ring    : List (Nat × MgmtEvent)
  evLost  : Word
  hwDrop  : Word
  buddy   : List Nat
  mirror  : Nat
  dead    : List Nat
  stitch  : List (Nat × Nat)
  threshold : Nat
  misroutes : List Nat
  peers   : List (Nat × Word)
  msix    : List (Nat × Nat)
  number  : Option Nat
  roshus  : List Roshus
  path    : CmdPath
  deriving DecidableEq, Repr

/-- A piece of a host request in one line of 128 bytes: the window entry and the page offset under which the port received it, its length,
and what it writes (R381). -/
structure HostPiece where
  desc : Word
  off  : Nat
  n    : Nat
  data : List Byte
  deriving DecidableEq, Repr

/-- A host request held at the ingress of its port (R162, R262, R381). -/
structure HostReq where
  id      : Nat
  read    : Bool
  relaxed : Bool
  pieces  : List HostPiece
  deriving DecidableEq, Repr

/-- A piece of a host write on its way to its home or held there: one without Relaxed Ordering waits for the watermark (R262). -/
structure HeldWrite where
  id      : Nat
  seq     : Nat
  relaxed : Bool
  desc    : Word
  off     : Nat
  data    : List Byte
  deriving DecidableEq, Repr

/-- A PCI Express port and its launch unit (R379-R387), with the requests at its ingress and the bytes of its command mailbox (R380, R393). -/
structure Port where
  windows : List (Nat × Word)
  slots   : List (Nat × BitVec 2048)
  lstat   : List (Nat × Word)
  armed   : List Nat
  seq     : Nat
  mark    : Nat
  held    : List HeldWrite
  ingress : List HostReq
  mailbox : List (Nat × Byte)
  deriving DecidableEq, Repr

/-- A release on its way to a tile, and the threads there that were in the round (R275). -/
structure Release where
  t     : Nat
  g     : Nat
  level : Nat
  value : Word
  ths   : List Nat
  deriving DecidableEq, Repr

/-- A request across tiles that parks its thread: each names the tiles still to receive it, and for those that have, what they wait for: `tlbi`, `namei` (R189, R224), or a request to the cox (R358, R372-R375). -/
inductive Req where
  | tlbi (id th : Nat) (key : Word) (todo : List Nat) (waits : List (Nat × List Nat))
  | namei (id th : Nat) (key : Word) (todo : List Nat) (waits : List (Nat × List Nat))
  | preempt (id th g : Nat)
  | quench (id th g : Nat)
  | commit (id th g : Nat)
  | rollback (id th g : Nat) (leave : Bool)
  deriving DecidableEq, Repr

/-- An announced SC atomic not yet performed (R258): window, position, home key, and the number it waits under. -/
structure Ann where
  w    : Nat
  pos  : Nat
  pa   : Nat
  ref  : Nat
  deriving DecidableEq, Repr

/-- State of a stitch link (R221), with the packets that have crossed it and their gangs, and the errors counted on each lane; `failed` once
too few lanes are left to carry flits, `retired` once the cox has marked its port. -/
structure Link where
  crossed : List (Nat × Nat)
  errs    : List (Nat × Nat)
  lost    : List Nat
  failed  : Bool
  steered : Nat
  half    : Bool
  retired : Bool
  retraining : Bool
  deriving DecidableEq, Repr

/-- A link after reset. -/
def Link.reset : Link := { crossed := [], errs := [], lost := [], failed := false, steered := 0, half := false, retired := false, retraining := false }

/-- Stages of a `tlbi` or `namei` across tiles (R189, R224): its request reaches a tile, the tile answers, the thread is told. -/
inductive ReqStage where
  | tlbiRequest | tlbiTileAck | tlbiComplete | nameiRequest | nameiTileAck | nameiComplete
  deriving DecidableEq, Repr

/-- What moves next: a machine event or input, a stage of a request across tiles, a core that takes its turn to issue (log 5), or an error
that comes to light in the scratchpad, the slice or an egress hold (R113, R167, R168), a route-table entry that the cox writes (R216), and
system software's write of a service core's ASID register, which no `wrs` makes (R99, R180; log 37); acts of the cox and of service firmware:
a turn in which a page-2 instruction only starts, the reading of one of its bank words or its results, the landing of one of its element
writes (R137); the reading of an element of A or C before the pass that uses it (R297); a read of a register that the operand cache does not hold (R73); a lane's error count, the mark on a port (R221), a forward record, a change of binding, its end (R212), a stripe page made or deleted
(R161), a retired index brought back (R162), a Roshus Link that fails (R389); a host request at a port's ingress that is tried again, reads and
writes of BAR0 (R379, R380), and the path of the command that comes next (R393). -/
inductive Move where
  | event (i : Instr)
  | request (k : ReqStage) (req t : Nat)
  | turn (t core : Nat)
  | symbolError (pa symbols : Nat)
  | egressError (asid lgen port i : Nat)
  | routeEntry (t : Nat) (sel : Word) (v : Quad)
  | serviceAsid (t : Nat) (asid : Nat)
  | vectorStart (t core : Nat)
  | vectorStep (th : Nat) (act : VAct)
  | vectorLand (th k : Nat)
  | matRead (t cmd pass off n : Nat)
  | operandMiss (th : Nat)
  | laneError (link lane : Nat)
  | retirePort (link : Nat)
  | forward (name : Ltn) (site : Nat)
  | bindName (name : Ltn)
  | forwardEnd (name : Ltn)
  | stripeCreate (zone page base : Nat)
  | stripeDelete (zone page : Nat)
  | indexReturn (zone index site : Nat)
  | peerLinkLost (m k : Nat)
  | ingress (port id : Nat)
  | bar0Read (port off n : Nat)
  | mailboxWrite (port off : Nat) (data : List Byte)
  | commandPath (m : Nat) (path : CmdPath)
  deriving DecidableEq, Repr

/-- The state of the load-store domain.  `thr` is the thread whose instruction is issued; `others` are all other threads. -/
structure State where
  thr     : Thread
  others  : List Thread
  mem     : List Host.Cell
  tags    : List Nat
  full    : List Nat
  psn     : List Nat
  psnBits : List Nat
  tiles   : List (Nat × Tile)
  gangs   : List Gang
  zones   : List (Nat × Zone)
  modules : List (Nat × Module)
  ports   : List (Nat × Port)
  packets : List Packet
  steals  : List StealMsg
  gong    : List (Nat × GongSlot)
  releases : List Release
  reqs    : List Req
  anns    : List Ann
  bellWin : Nat
  bellDone : Nat
  links   : List (Nat × Link)
  hostOut : List (Nat × HostWrite)
  replies : List Reply
  schedule : List Move
  nextId  : Nat
  time    : Nat
  free    : Nat
  deriving DecidableEq, Repr

/-- The start state of R75 for a thread of a launch, with zero in every register (launch and task fill in the rest). -/
def Arch.start : Arch :=
  { pcc := .zero, regs := Vector.replicate 16 .zero, preds := 1, stat := 0, tid := 0, vl := 16, fmt := 0, carry := 0xFFFE,
    mbxn := 0, jc := .zero, migt := 8, retc := 0, ecause := 0, eval := 0, epc := 0, estat := 0, seed := 0, fflg := 0, gval := 0 }

/-- A thread at no place, belonging to no gang: what `thr` holds while nothing issues (log 1). -/
def Thread.idle : Thread :=
  { Arch.start with
    id := 0, kind := .gang, asid := 0, lgen := 0, loc := .ended, ltn := 0, park := none, sb := [], rhome := 0, rcnt := 0,
    short := 0, pinc := 0, pinx := false, refault := 0, faultAt := (0, 0), since := 0, races := 0, trapAt := 0, tandem := none, after := none, vec := .idle, mrec := none, hstk := 0 }

/-- A core after reset: no work, every counter zero (log 2). -/
def Core.reset : Core :=
  { lastSlot := 15, recent := [], rrPtr := 0, credit := 0, vecq := [], recvq := [], deque := [], spill := [],
    steal := { waiting := none, sentAt := 0, gang := none, gangPos := 3, slot := 0, asked := 0, coreAt := 0, tileAt := 0, backoff := none }, mbx := [], savedTasks := [], savedMsgs := [],
    tags := [], mstat := [], bufs := [],
    utlb := [], bellLast := none, ctr := [] }

/-- An empty route-table bank (R215; log 4). -/
def RouteBank.empty : RouteBank := { field := [], quad := [], site := [] }

/-- A tile site after reset (R108, R111, R169, R192, R220, R250, R282, R308, R329, R359, R377). -/
def Tile.reset : Tile :=
  { cores := [], resid := [], qown := [], ctr := [], waiters := [], slice := [], sliceq := [], allocs := [], masks := [], tlb := [], missq := [], missWait := [],
    svcAsid := 0, ctxq := [], feed := 7, heapq := [], heapFullTold := false, ncache := [], fwd := [],
    banks := [(false, .empty), (true, .empty)], gen := false, heldFields := [], switcher := none, mbxOvf := [], mbxTold := false, refused := [],
    resend := [], copies := [],
    mat := { ptr := 0, grant := none, credit := 0, weights := 0x11111111, queue := [], slots := [], rows := [],
             mslot := 0 },
    ev := { own := [], qb := 0, acc := [], dyn := [], queue := [], ctxs := [], runs := [], cur := none, tick := none, hook := [], hookTold := false },
    commits := [], undo := [], snaps := [], snapping := [], shadow := [], recover := [], phase := [], trapq := [], trapWait := [], trapHead := 0,
    svec := .zero, spcc := .zero, tvec := .zero, cxbase := 0, tasks := 0 }

/-- A zone after reset: every index live and bound to its own site (R12, R210), limit 300 W (R396; log 21). -/
def Zone.reset : Zone :=
  { retired := [], retiring := [], salvage := [], returning := [], stripeP := 0, stripeA := 0, epoch := 0, live := 160, binds := [], limit := 300, draw := 0,
    temp := 0, droop := 0, power := 0, thermal := 0, lost := false, clamped := false, cycBase := 0, cycAt := 0,
    reshelving := false, trims := 0 }

/-- The default buddy ring of R16. -/
def defaultRing : List Nat :=
  [7, 6, 5, 4, 3, 2, 1, 0, 9, 10, 11, 12, 13, 14, 15, 16, 25, 24, 23, 22, 21, 20, 19, 18, 27, 28, 29, 30, 31, 32, 33, 34] ++
  [43, 42, 41, 40, 39, 38, 37, 36, 45, 54, 63, 72, 73, 64, 55, 46, 47, 56, 65, 74, 75, 66, 57, 48] ++
  [49, 58, 67, 76, 77, 68, 59, 50, 51, 60, 69, 78, 79, 80, 71, 70, 61, 52, 62, 53, 44, 35, 26, 17, 8]

/-- A module after reset: phase 0 of the boot (R390), PLIM 24,000 (R396), measurement registers zero (R391). -/
def Module.reset : Module :=
  { phase := 0, refused := false, boots := 0, mrs := List.replicate 8 0, plim := 24000, pnow := 0, evHead := 0, evTail := 0,
    ring := [], evLost := 0, hwDrop := 0, buddy := defaultRing, mirror := 0, dead := [], stitch := [], threshold := 0, misroutes := [],
    peers := [], msix := [], number := none, roshus := [], path := .i2c }

/-- A port after reset: no window valid, every launch slot free (R380, R383, R384). -/
def Port.reset : Port := { windows := [], slots := [], lstat := [], armed := [], seq := 0, mark := 0, held := [], ingress := [], mailbox := [] }

/-- The domain right after reset: boot phase 0, no gang, no thread, memory with nothing listed (R390). -/
def State.reset : State :=
  { thr := .idle, others := [], mem := [], tags := [], full := [], psn := [], psnBits := [], tiles := [], gangs := [], zones := [],
    modules := [], ports := [], packets := [], steals := [], gong := [], releases := [], reqs := [], anns := [],
    bellWin := 0, bellDone := 0, links := [], hostOut := [], replies := [], schedule := [], nextId := 1, time := 0, free := 0 }

end Sys2Proof.Machine
end

