-- ==== Sys2Proof/Machine/Mem.lean ====
section
/-! DEFINITION. Bytes and per-word metadata of memory: the canonical cell list, and sorted sets of tagged granules, full words and
poisoned sectors (spec/05_scratchpad.md R104, spec/07_home_memory.md R156; INVENTORY.md, Memory and ordering). -/
namespace Sys2Proof.Machine

/-- The byte at a key; a key that is not listed reads zero (log 3). -/
def Memory.get : List Host.Cell → Nat → Byte
  | [], _ => 0
  | (b, w) :: r, a => if b = a then w else Memory.get r a

/-- Put a listed byte before the first larger key. -/
def Memory.insert : List Host.Cell → Nat → Byte → List Host.Cell
  | [], a, v => [(a, v)]
  | (b, w) :: r, a, v => if a < b then (a, v) :: (b, w) :: r else (b, w) :: Memory.insert r a v

/-- Write one byte, keeping the list rising and free of zero entries. -/
def Memory.set (m : List Host.Cell) (a : Nat) (v : Byte) : List Host.Cell :=
  let r := m.filter fun c => c.1 ≠ a
  if v = 0 then r else Memory.insert r a v

/-- Write bytes from a key upwards. -/
def Memory.write (m : List Host.Cell) : Nat → List Byte → List Host.Cell
  | _, [] => m
  | a, v :: vs => Memory.write (Memory.set m a v) (a + 1) vs

/-- The bytes from a key upwards. -/
def Memory.read (m : List Host.Cell) (a n : Nat) : List Byte := (List.range n).map fun i => Memory.get m (a + i)

/-- The canonical form: keys strictly rising from a lower bound on, and no entry zero. -/
def Memory.wfFrom : Nat → List Host.Cell → Bool
  | _, [] => true
  | k, (b, w) :: r => decide (k ≤ b) && !decide (w = 0) && Memory.wfFrom (b + 1) r

/-- The canonical form of a memory. -/
def Memory.wf (m : List Host.Cell) : Bool := Memory.wfFrom 0 m

/-- Membership in a sorted set of numbers. -/
def Keys.has (l : List Nat) (k : Nat) : Bool := l.contains k

/-- Add a number to a sorted set. -/
def Keys.put : List Nat → Nat → List Nat
  | [], k => [k]
  | b :: r, k => if k < b then k :: b :: r else if k = b then b :: r else b :: Keys.put r k

/-- Remove a number from a set. -/
def Keys.drop (l : List Nat) (k : Nat) : List Nat := l.filter (fun b => b ≠ k)

/-- Put or remove a number. -/
def Keys.assign (l : List Nat) (k : Nat) (v : Bool) : List Nat := if v then Keys.put l k else Keys.drop l k

/-- Number of keys of one tile: vault, scratchpad and operand layer (R104, R156, R284). -/
def tileSpan : Nat := 2 ^ 28

/-- Key of a byte of a site's vault (R156). -/
def vaultKey (t a : Nat) : Nat := t * tileSpan + a

/-- Key of a byte of a site's scratchpad: slice k, bank word W, byte (R104). -/
def scratchKey (t k w b : Nat) : Nat := t * tileSpan + 2 ^ 27 + k * 98304 + w * 32 + b

/-- Key of a byte of a panel slot of a site's operand layer (R284). -/
def operandKey (t slot b : Nat) : Nat := t * tileSpan + 2 ^ 27 + 2 ^ 26 + slot * 73728 + b

/-- The site of a key. -/
def keySite (pa : Nat) : Nat := pa / tileSpan

/-- Whether a key lies in the vault of its site. -/
def isVaultKey (pa : Nat) : Bool := pa % tileSpan < 2 ^ 27

/-- The vault address of a vault key. -/
def keyVault (pa : Nat) : Nat := pa % tileSpan

/-- Bytes of a vault, where the scratchpad's keys of a tile begin (R107, R156). -/
def vaultSpan : Nat := 2 ^ 27

/-- Offset of a scratchpad key in its tile's scratchpad. -/
def scratchOff (pa : Nat) : Nat := pa % tileSpan - vaultSpan

/-- The bytes at a key. -/
def State.bytes (s : State) (pa n : Nat) : List Byte := Memory.read s.mem pa n

/-- Tag of the granule of a key (R112). -/
def State.tagAt (s : State) (pa : Nat) : Bool := Keys.has s.tags (pa / 16)

/-- Full/empty bit of the word of a key (R114). -/
def State.fullAt (s : State) (pa : Nat) : Bool := Keys.has s.full (pa / 8)

/-- Poison bit of the sector of a key (R113, R167). -/
def State.psnAt (s : State) (pa : Nat) : Bool := Keys.has s.psn (pa / 32)

/-- The granules, words or sectors of size `u` that n bytes from `pa` touch. -/
def unitsOf (u pa n : Nat) : List Nat := if n = 0 then [] else (List.range ((pa + n - 1) / u - pa / u + 1)).map (· + pa / u)

/-- Any byte of a range in a poisoned sector. -/
def State.poisoned (s : State) (pa n : Nat) : Bool := (unitsOf 32 pa n).any (Keys.has s.psn)

/-- First poisoned byte of a range. -/
def State.firstPoison (s : State) (pa n : Nat) : Option Nat := ((List.range n).map (· + pa)).find? fun a => s.psnAt a

/-- Data written to memory: bytes change, the tags of the granules touched clear, poison clears in sectors wholly written
(R112, R113, R167); full/empty bits stay (R114). -/
def State.poke (s : State) (pa : Nat) (bs : List Byte) : State :=
  { s with
    mem := Memory.write s.mem pa bs,
    tags := (unitsOf 16 pa bs.length).foldl Keys.drop s.tags,
    psn := ((unitsOf 32 pa bs.length).filter fun u => decide (pa ≤ 32 * u) && decide (32 * u + 32 ≤ pa + bs.length)).foldl
      Keys.drop s.psn }

/-- Set the tag of a granule. -/
def State.setTag (s : State) (pa : Nat) (v : Bool) : State := { s with tags := Keys.assign s.tags (pa / 16) v }

/-- Set a full/empty bit. -/
def State.setFull (s : State) (pa : Nat) (v : Bool) : State := { s with full := Keys.assign s.full (pa / 8) v }

/-- Number of the poison-present bit of a scratchpad byte: its site, slice and quarter (R135). -/
def presentBit (pa : Nat) : Nat := keySite pa * 32 + scratchOff pa / 24576

/-- The poison-present bits once a sector of a scratchpad is poisoned: a bit stays until its quarter is scrubbed (R135). -/
def presentAfter (l : List Nat) (pa : Nat) (v : Bool) : List Nat :=
  if v && !isVaultKey pa && decide (scratchOff pa < 786432) then Keys.put l (presentBit pa) else l

/-- Set the poison bit of a sector. -/
def State.setPoison (s : State) (pa : Nat) (v : Bool) : State :=
  { s with psn := Keys.assign s.psn (pa / 32) v, psnBits := presentAfter s.psnBits pa v }

/-- Clear a quarter of a slice, or a range in it: data zero, no tag, every word empty, no poison, its poison-present bit (R110, R135). -/
def State.clearRange (s : State) (pa n : Nat) : State :=
  let outside := fun (u k : Nat) => decide (u * k < pa) || decide (pa + n ≤ u * k)
  { s with mem := s.mem.filter fun c => outside 1 c.1, tags := s.tags.filter (outside 16), full := s.full.filter (outside 8),
           psn := s.psn.filter (outside 32), psnBits := Keys.drop s.psnBits (presentBit pa) }

/-- The contents of n bytes from an aligned key, with their metadata. -/
def State.block (s : State) (pa n : Nat) : Block :=
  { base := pa, data := s.bytes pa n, tags := (List.range (n / 16)).map fun i => s.tagAt (pa + 16 * i),
    full := (List.range (n / 8)).map fun i => s.fullAt (pa + 8 * i),
    psn := (List.range (n / 32)).map fun i => s.psnAt (pa + 32 * i) }

/-- Assign a run of bits to a set of units. -/
def Keys.run (l : List Nat) : Nat → List Bool → List Nat
  | _, [] => l
  | k, v :: vs => Keys.run (Keys.assign l k v) (k + 1) vs

/-- Restore a block as it was, metadata included (R332, R335). -/
def State.restore (s : State) (b : Block) : State :=
  { s with mem := Memory.write s.mem b.base b.data, tags := Keys.run s.tags (b.base / 16) b.tags,
           full := Keys.run s.full (b.base / 8) b.full, psn := Keys.run s.psn (b.base / 32) b.psn,
           psnBits := presentAfter s.psnBits b.base (b.psn.contains true) }

/-- A block of zeros at a key: data zero, no tag, every word empty, no poison (R110, R162). -/
def Block.zeros (pa n : Nat) : Block :=
  { base := pa, data := List.replicate n 0, tags := List.replicate (n / 16) false, full := List.replicate (n / 8) false,
    psn := List.replicate (n / 32) false }

end Sys2Proof.Machine
end

