-- ==== Sys2Proof/Machine/Ops.lean ====
section
/-! DEFINITION. The named operations on the state: reading and writing registers, finding threads, tiles, cores and gangs, retiring an
instruction, parking, and taking a trap and returning from one (spec/04_threads_registers.md R74-R76, R95;
spec/16_traps_preemption.md R361-R366, R369). -/
namespace Sys2Proof.Machine

/-- The answer of a meaning. -/
abbrev Out := Host.Outcome State Fault Refusal

-- bits of a number
/-- Bits [hi:lo] of a number. -/
def bitsOf (x hi lo : Nat) : Nat := x / 2 ^ lo % 2 ^ (hi + 1 - lo)

/-- A flag as a number. -/
def bit (b : Bool) : Nat := if b then 1 else 0

/-- Bits [hi:lo] of a word. -/
def wbits (x : Word) (hi lo : Nat) : Nat := bitsOf x.toNat hi lo

/-- Update of the thread whose instruction is issued. -/
def State.withThr (s : State) (f : Thread → Thread) : State := { s with thr := f s.thr }

-- CRC-32C (R353)
/-- One bit of the reflected CRC with polynomial 0x1EDC6F41. -/
def crcBit (c : BitVec 32) : BitVec 32 := if c.getLsbD 0 then (c >>> 1) ^^^ 0x82F63B78#32 else c >>> 1

/-- One byte folded into the CRC. -/
def crcByte (c : BitVec 32) (b : Byte) : BitVec 32 := (List.range 8).foldl (fun c _ => crcBit c) (c ^^^ b.setWidth 32)

/-- Bytes folded into the CRC. -/
def crcBytes (c : BitVec 32) (bs : List Byte) : BitVec 32 := bs.foldl crcByte c

/-- Fold bytes into both fingerprints of a tandem pair; the follower executes the same stream (R353). -/
def Thread.fold (th : Thread) (bs : List Byte) : Thread :=
  match th.tandem with
  | none => th
  | some t => { th with tandem := some { t with leadFp := crcBytes t.leadFp bs, followFp := crcBytes t.followFp bs } }

-- registers
/-- Register n: c0 reads zero, untagged (R31, R76). -/
def State.reg (s : State) (n : RegNo) : Reg := if n = 0 then .zero else s.thr.regs[n.toNat]

/-- Bits [63:0] of a register, an integer source (R76). -/
def State.x (s : State) (n : RegNo) : Word := (s.reg n).bits.setWidth 64

/-- Write register n; a write to c0 is discarded (R31). -/
def State.setReg (s : State) (n : RegNo) (v : Reg) : State :=
  if n = 0 then s
  else s.withThr fun th =>
    { th.fold (bytesOf 16 v.bits.toNat ++ [if v.tag then 1 else 0]) with regs := th.regs.set n.toNat v }

/-- An integer result: bits [63:0], the rest and the tag zero (R76). -/
def Reg.int (w : Word) : Reg := { tag := false, bits := w.setWidth 128 }

/-- Write an integer result (R76). -/
def State.setX (s : State) (n : RegNo) (w : Word) : State := s.setReg n (.int w)

/-- Predicate n: p0 reads true (R80). -/
def State.pred (s : State) (n : PredNo) : Bool := n = 0 || s.thr.preds.getLsbD n.toNat

/-- Replace bit n of a byte of predicates. -/
def setBit (x : BitVec 8) (n : Nat) (v : Bool) : BitVec 8 :=
  if v then x ||| ((1 : BitVec 8) <<< n) else x &&& ~~~((1 : BitVec 8) <<< n)

/-- Write predicate n; a write to p0 is discarded (R31). -/
def State.setPred (s : State) (n : PredNo) (v : Bool) : State :=
  if n = 0 then s
  else s.withThr fun th => { th.fold [if v then 1 else 0] with preds := setBit th.preds n.toNat v }

/-- Write MBXN, a special register of eight bytes to the fingerprints (R242, R353). -/
def State.setMbxn (s : State) (m : Nat) : State := s.withThr fun th => { th.fold (bytesOf 8 m) with mbxn := BitVec.ofNat 3 m }

/-- Write GVAL, a special register of eight bytes to the fingerprints (R275, R353). -/
def State.setGval (s : State) (v : Word) : State := s.withThr fun th => { th.fold (bytesOf 8 v.toNat) with gval := v }

-- status fields (R82)
/-- Rounding mode STAT[1:0]. -/
def State.rm (s : State) : Nat := (s.thr.stat.extractLsb' 0 2).toNat
/-- STAT.SR. -/
def State.sr (s : State) : Bool := s.thr.stat.getLsbD 2
/-- STAT.PIN. -/
def Thread.pinned (th : Thread) : Bool := th.stat.getLsbD 3
/-- STAT.PRIV. -/
def Thread.priv (th : Thread) : Nat := (th.stat.extractLsb' 6 2).toNat
/-- STAT.MTRAP. -/
def Thread.mtrap (th : Thread) : Bool := th.stat.getLsbD 8

/-- Replace one bit of a status word. -/
def statBit (x : BitVec 9) (n : Nat) (v : Bool) : BitVec 9 :=
  if v then x ||| ((1 : BitVec 9) <<< n) else x &&& ~~~((1 : BitVec 9) <<< n)

/-- Set or clear STAT.PIN. -/
def Thread.setPin (th : Thread) (v : Bool) : Thread := { th with stat := statBit th.stat 3 v }

-- the program counter
/-- The PC: the cursor of PCC (R200). -/
def Arch.pc (a : Arch) : VAddr := a.pcc.bits.setWidth 48

/-- A register with another cursor (R77). -/
def Reg.withCursor (r : Reg) (v : VAddr) : Reg := { r with bits := (r.bits >>> 48 <<< 48) ||| v.setWidth 128 }

/-- The address of the instruction that issues. -/
def State.pc (s : State) : VAddr := s.thr.pc

/-- Bytes of an instruction of a page with its prefixes (R26). -/
def instrBytes (pg : Nat) (p : Pfx) : Nat := 2 * (prefixCount pg p + 1)

/-- The address of the next instruction (R27). -/
def State.nextPc (s : State) (pg : Nat) (p : Pfx) : VAddr := s.pc + BitVec.ofNat 48 (instrBytes pg p)

/-- Counts of one instruction retiring: RETC, the instructions since the last arrival (R204), the pinned count (R204), the refault
count (R188), the tandem interval, which the 512th instruction ends (R354). -/
def Thread.countRetired (th : Thread) : Thread :=
  let counts := th.pinned && !th.pinx && decide (0 < th.pinc)
  let pinc := if counts then th.pinc - 1 else th.pinc
  let stat := if counts && pinc = 0 then statBit th.stat 3 false else th.stat
  let th := { th with retc := th.retc + 1, since := th.since + 1, pinc := pinc, stat := stat, refault := 0, races := 0, park := none }
  match th.tandem with
  | none => th
  | some t =>
    let t := { t with count := t.count + 1 }
    let closes := t.count ≥ 512
    { th with tandem := some t, park := if closes then some .follower else none }

/-- Retire with the PC at an address (PCC unchanged but for its cursor). -/
def State.retireTo (s : State) (pc : VAddr) : State :=
  s.withThr fun th => { th with pcc := th.pcc.withCursor pc }.countRetired

/-- Retire with the PC past the instruction (R27). -/
def State.retire (s : State) (pg : Nat) (p : Pfx) : State := s.retireTo (s.nextPc pg p)

/-- The guard of an instruction (R35). -/
def State.guardHolds (s : State) (p : Pfx) : Bool := xor (s.pred p.guard) p.neg

/-- An instruction under its guard: guarded off, it retires without effect (R35). -/
def guarded (pg : Nat) (p : Pfx) (s : State) (k : State → State) : Out :=
  .next (if s.guardHolds p then k s else s.retire pg p)

/-- Park the thread: the slot is not ready until the condition holds, and the instruction re-executes then (Park, R8). -/
def State.parkOn (s : State) (c : Park) : State := s.withThr fun th => { th with park := some c }

-- threads
/-- The site a thread is on. -/
def Loc.site : Loc → Nat
  | .slot t _ _ => t
  | .queue t => t
  | .heap t _ _ _ => t
  | .saved t => t
  | .draining t _ => t
  | .fabric => 0
  | .ended => 0

/-- The core whose slot a thread holds. -/
def Loc.core : Loc → Nat
  | .slot _ c _ => c
  | .draining _ c => c
  | _ => 0

/-- The slot a thread holds. -/
def Loc.slotNo : Loc → Nat
  | .slot _ _ n => n
  | _ => 0

/-- Whether a thread holds a slot. -/
def Loc.inSlot : Loc → Bool
  | .slot _ _ _ => true
  | _ => false

/-- Whether a thread has ended with entries of its store buffer still to leave. -/
def Loc.drains : Loc → Bool
  | .draining _ _ => true
  | _ => false

/-- Whether a thread is on a tile: in a slot, in the context queue or in the heap. -/
def Loc.onTile : Loc → Bool
  | .slot _ _ _ => true
  | .queue _ => true
  | .heap _ _ _ _ => true
  | _ => false

/-- The ASID by which the model marks what belongs to no gang: service threads, and writes of hardware and the host.  No gang has it, since an ASID
has 12 bits; wherever the number is read or sent it is 0 (R157, R198, R364). -/
def noGang : Nat := 4096

/-- Whether a thread belongs to a gang, by its identifiers. -/
def Thread.inGang (th : Thread) (asid lgen : Nat) : Bool := th.asid = asid && th.lgen = lgen

/-- The site of the issuing thread. -/
def State.tileNo (s : State) : Nat := s.thr.loc.site
/-- The core of the issuing thread. -/
def State.coreNo (s : State) : Nat := s.thr.loc.core

/-- All threads. -/
def State.threads (s : State) : List Thread := s.thr :: s.others

/-- The thread of a number. -/
def State.thread? (s : State) (id : Nat) : Option Thread := s.threads.find? fun th => th.id = id

/-- Update the thread of a number, wherever it is. -/
def State.modThread (s : State) (id : Nat) (f : Thread → Thread) : State :=
  { s with thr := if s.thr.id = id then f s.thr else s.thr,
           others := s.others.map fun th => if th.id = id then f th else th }

/-- Update all threads. -/
def State.mapThreads (s : State) (f : Thread → Thread) : State := { s with thr := f s.thr, others := s.others.map f }

/-- A thread that ends: it leaves its slot and keeps nothing (R25). -/
def Thread.ends (th : Thread) : Thread := { th with loc := .ended, park := none, sb := [], tandem := none }

/-- Make a thread the issuing one. -/
def State.focus (s : State) (id : Nat) : State :=
  if s.thr.id = id then s
  else
    match s.others.find? (fun th => th.id = id) with
    | none => s
    | some th => { s with thr := th, others := s.thr :: s.others.filter (fun o => o.id ≠ id) }

/-- The thread in a slot. -/
def State.slotThread (s : State) (t core n : Nat) : Option Thread := s.threads.find? fun th => th.loc = .slot t core n

-- tiles, cores, gangs, zones, modules, ports
/-- The tile at a site. -/
def State.tile (s : State) (t : Nat) : Tile := assocGet t .reset s.tiles
/-- Update the tile at a site. -/
def State.modTile (s : State) (t : Nat) (f : Tile → Tile) : State := { s with tiles := assocSet t (f (s.tile t)) s.tiles }
/-- A core of a tile. -/
def Tile.core (t : Tile) (c : Nat) : Core := assocGet c .reset t.cores
/-- Update a core of a tile. -/
def Tile.modCore (t : Tile) (c : Nat) (f : Core → Core) : Tile := { t with cores := assocSet c (f (t.core c)) t.cores }
/-- Update a core at a site. -/
def State.modCore (s : State) (t c : Nat) (f : Core → Core) : State := s.modTile t fun x => x.modCore c f
/-- The gang of an ASID and generation. -/
def State.gang? (s : State) (asid lgen : Nat) : Option Gang := s.gangs.find? fun g => g.asid = asid && g.lgen = lgen
/-- Update a gang. -/
def State.modGang (s : State) (asid lgen : Nat) (f : Gang → Gang) : State :=
  { s with gangs := s.gangs.map fun g => if g.asid = asid && g.lgen = lgen then f g else g }
/-- A zone. -/
def State.zone (s : State) (z : Nat) : Zone := assocGet z .reset s.zones
/-- Update a zone. -/
def State.modZone (s : State) (z : Nat) (f : Zone → Zone) : State := { s with zones := assocSet z (f (s.zone z)) s.zones }
/-- A module. -/
def State.module (s : State) (m : Nat) : Module := assocGet m .reset s.modules
/-- Update a module. -/
def State.modModule (s : State) (m : Nat) (f : Module → Module) : State :=
  { s with modules := assocSet m (f (s.module m)) s.modules }
/-- A host port. -/
def State.port (s : State) (n : Nat) : Port := assocGet n .reset s.ports
/-- Update a host port. -/
def State.modPort (s : State) (n : Nat) (f : Port → Port) : State := { s with ports := assocSet n (f (s.port n)) s.ports }

/-- Residency entry of a gang on a tile (R106). -/
def Tile.resid? (t : Tile) (asid lgen : Nat) : Option Resid := t.resid.find? fun r => r.asid = asid && r.lgen = lgen
/-- The entry of a gang for a logical tile, or its only one: a site that hosts two logical tiles keeps one for each (R349). -/
def Tile.residFor (t : Tile) (asid lgen : Nat) (name : Ltn) : Option Resid :=
  match t.resid.find? fun r => r.asid = asid && r.lgen = lgen && r.ltn = name with
  | some r => some r
  | none => t.resid? asid lgen
/-- Update a residency entry. -/
def Tile.modResid (t : Tile) (asid lgen : Nat) (f : Resid → Resid) : Tile :=
  { t with resid := t.resid.map fun r => if r.asid = asid && r.lgen = lgen then f r else r }

/-- Zone of a site. -/
def siteZone (t : Nat) : Nat := t / 256
/-- Module of a site. -/
def siteModule (t : Nat) : Nat := t / 32768

/-- A number for a new object. -/
def State.fresh (s : State) : Nat × State := (s.nextId, { s with nextId := s.nextId + 1 })

/-- A tile counter, a special register kept by its number. -/
def Tile.count (t : Tile) (n : Nat) : Word := assocGet n 0 t.ctr
/-- Add one to a tile counter, wrapping. -/
def State.bump (s : State) (t n : Nat) : State := s.modTile t fun x => { x with ctr := assocSet n (x.count n + 1) x.ctr }
/-- Set a tile counter. -/
def State.setCount (s : State) (t n : Nat) (v : Word) : State := s.modTile t fun x => { x with ctr := assocSet n v x.ctr }
/-- A core counter, a special register kept by its number. -/
def Core.count (c : Core) (n : Nat) : Word := assocGet n 0 c.ctr
/-- Add to a core counter. -/
def State.bumpCore (s : State) (t c n : Nat) (k : Nat) : State :=
  s.modCore t c fun x => { x with ctr := assocSet n (x.count n + BitVec.ofNat 64 k) x.ctr }

-- capabilities (R77)
/-- The fields of a capability (R77). -/
def Reg.cursor (r : Reg) : VAddr := r.bits.setWidth 48
/-- BASE × 16. -/
def Reg.base (r : Reg) : Nat := bitsOf r.bits.toNat 107 64 * 16
/-- (L + 1) × 2^E. -/
def Reg.length (r : Reg) : Nat := (bitsOf r.bits.toNat 122 108 + 1) * 2 ^ bitsOf r.bits.toNat 127 123
/-- First address past the span. -/
def Reg.limit (r : Reg) : Nat := r.base + r.length
/-- Permission bits [56:48]: LOC ENG ATM SYN SC LC X W R. -/
def Reg.perms (r : Reg) : BitVec 9 := r.bits.extractLsb' 48 9

/-- The permissions of R77 as bits of [56:48]. -/
def permR : BitVec 9 := 1
def permW : BitVec 9 := 2
def permX : BitVec 9 := 4
def permLC : BitVec 9 := 8
def permSC : BitVec 9 := 16
def permSYN : BitVec 9 := 32
def permATM : BitVec 9 := 64
def permENG : BitVec 9 := 128
def permLOC : BitVec 9 := 256

/-- Whether a capability holds a permission. -/
def Reg.can (r : Reg) (p : BitVec 9) : Bool := r.perms &&& p = p

/-- A trap: its cause and EVAL. -/
abbrev TrapVal := Nat × Word

/-- CheckCap of R8 at the capability's cursor: tag, permission, bounds, alignment, in that order. -/
def checkCap (r : Reg) (size : Nat) (perm : BitVec 9) : Except TrapVal VAddr :=
  let v := r.cursor
  if !r.tag then .error (0x03, 0)
  else if !r.can perm then .error (0x05, v.setWidth 64)
  else if v.toNat < r.base || r.limit < v.toNat + size || 2 ^ 48 < v.toNat + size then .error (0x04, v.setWidth 64)
  else if v.toNat % size ≠ 0 then .error (0x06, v.setWidth 64)
  else .ok v

-- management events and trap records
/-- Post a management event (R395): the ring of 256 entries, shared by all ports, or EVLOST when it is full; vector 1 is signalled on each. -/
def State.postMgmt (s : State) (m code cause ltn : Nat) (eval : Word) : State :=
  s.modModule m fun x =>
    if x.evTail + 1 = x.evHead then { x with evLost := x.evLost + 1 }
    else { x with ring := assocSet x.evTail.toNat { code := code, cause := cause, ltn := ltn, eval := eval, bell := s.bellWin } x.ring,
                  evTail := x.evTail + 1, msix := x.msix ++ (List.range 4).map fun port => (port, 1) }

/-- Post a management event whose EVAL, and LTN where none is given, the spec leaves open (R395; log 21). -/
def State.postEvent (s : State) (m code : Nat) (ltn : Option Nat) : State :=
  let n := s.free
  State.postMgmt { s with free := n + 1 } m code 0 (ltn.getD (Config.eventLtn code n)) (Config.eventEval code n)

/-- The 256 bits of a trap record (R364). -/
def TrapRec.bits (r : TrapRec) : Nat :=
  r.eval.toNat * 2 ^ 192 + r.epc.toNat * 2 ^ 144 + r.lgen % 65536 * 2 ^ 128 + r.asid % 4096 * 2 ^ 116 + r.cause % 256 * 2 ^ 108 +
  (match r.held with
   | some h => 2 ^ 107 + r.tid.toNat * 2 ^ 64 + h % 16384 * 2 ^ 32
   | none => 0) + r.slot % 16 * 2 ^ 8 + r.core % 8

-- lines of the cache slice (R163)
/-- Superblock number of a vault address, its set, and the line within it. -/
def superOf (v : Nat) : Nat := v / 512
def superSet (sb : Nat) : Nat := Nat.xor (sb % 256) (sb / 256 % 256)
def lineNo (v : Nat) : Nat := v / 128 % 4

/-- A line written by the tile's own hardware: dirty in the slice where it stands there, with what the vault holds, or else written through
(R157, R163). -/
def Tile.written (x : Tile) (v : Nat) (old : Block) : Tile :=
  { x with slice := x.slice.map fun z =>
      if z.sb = superOf v && !z.filling then
        { z with lines := listUpd z.lines (lineNo v) fun l => if l.valid then { l with dirty := true, old := some (l.old.getD old) } else l }
      else z }

/-- Append a record to the trap queue and write it into its place of the service area (R364). -/
def State.appendTrap (s : State) (t : Nat) (r : TrapRec) : State :=
  let x := s.tile t
  let v := 0x07017000 + 32 * ((x.trapHead + x.trapq.length) % 64)
  let old := s.block (vaultKey t (v / 128 * 128)) 128
  (s.poke (vaultKey t v) (bytesOf 32 r.bits)).modTile t fun x => { (x.written v old) with trapq := x.trapq ++ [r] }

/-- Queue a trap record (R364): 64 records; a held record waits for room, another is lost and counted in TRLOST (96). -/
def State.queueTrap (s : State) (t : Nat) (r : TrapRec) : State :=
  let x := s.tile t
  if x.trapq.length < 64 && x.trapWait.isEmpty then s.appendTrap t r
  else if r.held.isSome then s.modTile t fun x => { x with trapWait := x.trapWait ++ [r] }
  else s.bump t 96

/-- A cause that is not precise, reported to the service core of a tile (R361, R363). -/
def State.report (s : State) (t cause asid lgen : Nat) (eval : Word) : State :=
  s.queueTrap t { eval := eval, epc := 0, asid := asid, lgen := lgen, cause := cause, held := none, tid := 0, slot := 0, core := 0 }

-- the status word as software sees it
/-- Whether rollback is lost for the gang of the issuing thread on its tile (NRB, R336). -/
def State.nrb (s : State) : Bool :=
  match (s.tile s.tileNo).resid? s.thr.asid s.thr.lgen with
  | some r => r.nrb
  | none => false

/-- STAT as it reads: NRB belongs to the gang on the tile (R82, R336). -/
def State.statNow (s : State) : BitVec 9 := statBit s.thr.stat 5 s.nrb

/-- The gang of the issuing thread. -/
def State.myGang (s : State) : Option Gang := s.gang? s.thr.asid s.thr.lgen

/-- TVEC of the gang of the issuing thread; for a thread of no gang the tile's own, the model's choice (R81; log 37). -/
def State.tvec (s : State) : Reg :=
  match s.myGang with
  | some g => g.tvec
  | none => (s.tile s.tileNo).tvec

/-- The code capability of the gang of the issuing thread (R79). -/
def State.codeCap (s : State) : Reg :=
  match s.myGang with
  | some g => g.code
  | none => .zero

-- traps
/-- Trap entry's writes: ECAUSE, EVAL, EPC and ESTAT (R362), and when it was (R364). -/
def State.saveTrap (s : State) (cause : Nat) (value : Word) : State :=
  s.withThr fun th =>
    { th with ecause := BitVec.ofNat 8 cause, eval := value, epc := s.pc, estat := s.statNow, trapAt := s.time }

/-- Whether a cause raised at user level goes to TVEC (R361). -/
def toTvec (cause : Nat) : Bool := [0x03, 0x04, 0x05, 0x06, 0x0B, 0x0C, 0x0F, 0x10].contains cause

/-- A slot that stops (R366, R370): the cox restarts it, and posts a management event with the tile's LTN. -/
def State.stopSlot (s : State) (code cause : Nat) (eval : Word) : State :=
  (s.postMgmt (siteModule s.tileNo) code cause s.thr.ltn eval).parkOn .stopped

/-- Whether rollback is lost for a gang on any tile (R336). -/
def State.gangNrb (s : State) (asid lgen : Nat) : Bool := s.tiles.any fun x => (x.2.resid.any fun r => r.asid = asid && r.lgen = lgen && r.nrb)

/-- Consumed poison of a gang under the ROLLBACK policy (R344): a rollback, or the end of the gang on a second consumption in one
stroke number or where rollback is lost (R336, R347). -/
def State.consumePoison (s : State) (asid lgen t : Nat) (va : Word) : State :=
  let nrb := s.gangNrb asid lgen
  s.modGang asid lgen fun g =>
    match g.order with
    | some _ => g
    | none =>
      if nrb || g.lastPoison = some g.stk then { g with order := some (.fatal t 0x0A va) }
      else { g with order := some .rollback, lastPoison := some g.stk }

/-- Enter a vector with the saved registers written: PCC becomes the vector (R362, R366). -/
def State.enterVector (s : State) (v : Reg) : State := s.withThr fun th => { th with pcc := v, park := none }

/-- Rounding back to RNE at a TVEC entry (R362). -/
def State.clearRounding (s : State) : State := s.withThr fun th => { th with stat := th.stat &&& 0x1F8 }

/-- Delivery at user level (R361-R363): to TVEC, to a rollback of the gang, or held for system software. -/
def State.trapUser (s : State) (cause : Nat) (value : Word) : State :=
  let e := s.saveTrap cause value
  if toTvec cause then
    match checkCap s.tvec 2 permX with
    | .ok _ => (e.enterVector s.tvec).clearRounding
    | .error _ => e.parkOn (.trapHold cause value)
  else if cause = 0x0A && (match s.myGang with | some g => g.rb | none => false) then
    (s.consumePoison s.thr.asid s.thr.lgen s.tileNo value).parkOn .rollback
  else e.parkOn (.trapHold cause value)

/-- Delivery at system level (R366): to SVEC, or the slot stops. -/
def State.trapSystem (s : State) (cause : Nat) (value : Word) : State :=
  let e := s.saveTrap cause value
  let svec := (s.tile s.tileNo).svec
  match checkCap svec 2 permX with
  | .ok _ => (e.modTile s.tileNo fun x => { x with spcc := s.thr.pcc }).enterVector svec
  | .error _ => e.stopSlot 6 cause value

/-- Whether a tandem interval is open with instructions in it, which a boundary must close first (R354). -/
def Thread.intervalOpen (th : Thread) : Bool :=
  match th.tandem with
  | some t => decide (0 < t.count)
  | none => false

/-- Take a precise trap (R361-R363, R366).  An open tandem interval closes first, and the instruction then raises it again (R354,
R362). -/
def State.takeTrap (s : State) (cause : Nat) (value : Word) : State :=
  if s.thr.intervalOpen then s.parkOn .follower
  else
    match s.thr.priv with
    | 0 => s.trapUser cause value
    | 1 => s.trapSystem cause value
    | _ => (s.saveTrap cause value).stopSlot 6 cause value

/-- Take the trap a check answers, or go on. -/
def State.checked {α : Type} (s : State) (c : Except TrapVal α) (k : α → State) : State :=
  match c with
  | .error (cause, value) => s.takeTrap cause value
  | .ok a => k a

/-- Illegal instruction with EVAL naming the base word (R40). -/
def State.illegal (s : State) (i : Instr) : State := s.takeTrap 0x01 (baseEval i)

/-- Privileged, with EVAL naming the base word (R40, R46). -/
def State.privileged (s : State) (i : Instr) : State := s.takeTrap 0x02 (baseEval i)

/-- A system-only instruction: 0x02 at user level, whatever the guard (R46). -/
def sysOnly (i : Instr) (pg : Nat) (p : Pfx) (s : State) (k : State → State) : Out :=
  if s.thr.priv = 0 then .next (s.privileged i) else guarded pg p s k

/-- An instruction that ends a tandem interval before it is performed (R354). -/
def State.boundary (s : State) (k : State → State) : State := if s.thr.intervalOpen then s.parkOn .follower else k s

/-- Transfer control to a capability: PCC becomes it, and the instruction retires (R95). -/
def State.transfer (s : State) (t : Reg) : State := s.checked (checkCap t 2 permX) fun _ => s.withThr fun th => { th with pcc := t }.countRetired

/-- Return from a trap (R369): to the gang's code or to SPCC at EPC, with PRIV, MTRAP and the rounding mode of ESTAT; `i` names the
instruction for EVAL. -/
def State.returnFromTrap (s : State) (i : Instr) : State :=
  let e := s.thr.estat
  let epriv := (e.extractLsb' 6 2).toNat
  if epriv > s.thr.priv then s.privileged i
  else
    let c := (if epriv = 0 then s.codeCap else (s.tile s.tileNo).spcc).withCursor s.thr.epc
    s.checked (checkCap c 2 permX) fun _ =>
      s.withThr fun th =>
        { th with pcc := c, stat := (th.stat &&& 0x38) ||| (e &&& 0x1C7) }.countRetired

end Sys2Proof.Machine
end

