-- ==== Sys2Proof/Machine/Flags.lean ====
section
/-! DEFINITION. What instructions compute of predicates, comparisons and the sticky floating-point flags (spec/03_numbers.md R62;
spec/04_threads_registers.md R83-R88). -/
namespace Sys2Proof.Machine

/-- Signed or unsigned less-than. -/
def ltW (u : Bool) (a b : Word) : Bool := if u then a.ult b else a.slt b

/-- Signed or unsigned not-greater. -/
def leW (u : Bool) (a b : Word) : Bool := if u then a.ule b else a.sle b

/-- FFLG bits (R62): NV, DZ, OF, UF, NX as bits 0-4. -/
def flagNV : BitVec 5 := 1
def flagDZ : BitVec 5 := 2
def flagOF : BitVec 5 := 4
def flagUF : BitVec 5 := 8
def flagNX : BitVec 5 := 16

/-- OR flags into FFLG, a special register written (R62, R353). -/
def State.orFlags (s : State) (f : BitVec 5) : State :=
  if f = 0 then s else s.withThr fun th => { th.fold (bytesOf 8 (th.fflg ||| f).toNat) with fflg := th.fflg ||| f }

/-- Write SEED, a special register (R60, R353). -/
def State.setSeed (s : State) (v : BitVec 32) : State :=
  if v = s.thr.seed then s else s.withThr fun th => { th.fold (bytesOf 8 v.toNat) with seed := v }

end Sys2Proof.Machine
end

