-- ==== Sys2Proof/Machine/Float.lean ====
section
/-! DEFINITION. Number formats, the one rounding, special values and flags, conversions (spec/03_numbers.md R53-R64). -/
namespace Sys2Proof.Machine

/-- An exact value of a floating format: a NaN (signalling or quiet), an infinity, or sign, magnitude m × 2^e (R55, R56). -/
inductive FVal where
  | nan (sig : Bool)
  | inf (neg : Bool)
  | fin (neg : Bool) (m : Nat) (e : Int)
  deriving DecidableEq, Repr

/-- Encodings of the largest exponent (R54): infinities and NaNs, E4M3's single NaN, or none. -/
inductive TopCode where
  | ieee | e4m3 | e2m1
  deriving DecidableEq, Repr

/-- Fields of a floating format (R54). -/
structure FFmt where
  ebits : Nat
  mbits : Nat
  bias  : Nat
  top   : TopCode
  deriving DecidableEq, Repr

def FFmt.f32 : FFmt := { ebits := 8, mbits := 23, bias := 127, top := .ieee }
def FFmt.f16 : FFmt := { ebits := 5, mbits := 10, bias := 15, top := .ieee }
def FFmt.bf16 : FFmt := { ebits := 8, mbits := 7, bias := 127, top := .ieee }
def FFmt.e4 : FFmt := { ebits := 4, mbits := 3, bias := 7, top := .e4m3 }
def FFmt.e5 : FFmt := { ebits := 5, mbits := 2, bias := 15, top := .ieee }
def FFmt.e2m1 : FFmt := { ebits := 2, mbits := 1, bias := 1, top := .e2m1 }

/-- Canonical NaN of a format (R54); an E2M1 element has none and its block carries it (R57). -/
def FFmt.nan (f : FFmt) : Nat :=
  match f.top with
  | .ieee => (2 ^ f.ebits - 1) * 2 ^ f.mbits + 2 ^ (f.mbits - 1)
  | .e4m3 => 0x7F
  | .e2m1 => 0

/-- Encoding of a magnitude with a sign. -/
def FFmt.signed (f : FFmt) (neg : Bool) (mag : Nat) : Nat := (if neg then 2 ^ (f.ebits + f.mbits) else 0) + mag

/-- Encoding of the largest finite magnitude M (R55). -/
def FFmt.maxMag (f : FFmt) : Nat :=
  match f.top with
  | .ieee => (2 ^ f.ebits - 1) * 2 ^ f.mbits - 1
  | .e4m3 => 0x7E
  | .e2m1 => 7

/-- Encoding of an infinity of a format (R54, R59): the canonical NaN in E4M3, ±6 in E2M1. -/
def FFmt.infinity (f : FFmt) (neg : Bool) : Nat :=
  match f.top with
  | .ieee => f.signed neg ((2 ^ f.ebits - 1) * 2 ^ f.mbits)
  | .e4m3 => f.nan
  | .e2m1 => f.signed neg 7

/-- The value of an encoding (R54-R57). -/
def FFmt.decode (f : FFmt) (x : Nat) : FVal :=
  let frac := x % 2 ^ f.mbits
  let e := x / 2 ^ f.mbits % 2 ^ f.ebits
  let neg := x / 2 ^ (f.mbits + f.ebits) % 2 = 1
  let special :=
    match f.top with
    | .ieee => decide (e = 2 ^ f.ebits - 1)
    | .e4m3 => decide (e = 15) && decide (frac = 7)
    | .e2m1 => false
  if special then
    if f.top = .e4m3 then .nan false
    else if frac = 0 then .inf neg
    else .nan (frac < 2 ^ (f.mbits - 1))
  else if e = 0 then .fin neg frac (1 - (f.bias : Int) - f.mbits)
  else .fin neg (frac + 2 ^ f.mbits) ((e : Int) - f.bias - f.mbits)

/-- Rounding modes (R59); stochastic with the LFSR state after its step (R60). -/
inductive RMode where
  | rne | rtz | rdn | rup
  | stoch (seed : Nat)
  deriving DecidableEq, Repr

/-- The mode of STAT[1:0] or FMT[17:16]. -/
def RMode.ofCode : Nat → RMode
  | 1 => .rtz | 2 => .rdn | 3 => .rup | _ => .rne

/-- One step of the LFSR (R60). -/
def stepSeed (x : BitVec 32) : BitVec 32 := let y := x <<< 1; if x.getLsbD 31 then y ^^^ 0x80200003 else y

/-- Whether the magnitude q + rem / 2^sh is rounded up to q + 1 (R59, R60). -/
def roundsUp (mode : RMode) (neg : Bool) (q rem sh : Nat) : Bool :=
  match mode with
  | .rtz => false
  | .rdn => neg && decide (rem ≠ 0)
  | .rup => !neg && decide (rem ≠ 0)
  | .rne => decide (2 ^ sh < 2 * rem) || (decide (2 * rem = 2 ^ sh) && decide (q % 2 = 1))
  | .stoch seed => decide (2 ^ 32 ≤ rem * 2 ^ 32 / 2 ^ sh + seed)

/-- m × 2^e in units of 2^u: the whole part, and the rest with its scale. -/
def inUnits (m : Nat) (e u : Int) : Nat × Nat × Nat :=
  if u ≤ e then (m * 2 ^ (e - u).toNat, 0, 0)
  else let sh := (u - e).toNat; (m / 2 ^ sh, m % 2 ^ sh, sh)

/-- A magnitude rounded in units of 2^u: the result, whether it is inexact, whether it went up. -/
def roundUnits (mode : RMode) (neg : Bool) (m : Nat) (e u : Int) : Nat × Bool × Bool :=
  let (q, rem, sh) := inUnits m e u
  let up := roundsUp mode neg q rem sh
  (if up then q + 1 else q, rem ≠ 0, up)

/-- Whether an overflow in this mode gives an infinity (R59); stochastic rounding does when it rounded up past M. -/
def toInfinity (mode : RMode) (neg up : Bool) : Bool :=
  match mode with
  | .rne => true
  | .rtz => false
  | .rup => !neg
  | .rdn => neg
  | .stoch _ => up

/-- A magnitude rounded once to a format, with its flags (R59, R62). -/
def FFmt.round (f : FFmt) (mode : RMode) (sat neg : Bool) (m : Nat) (e : Int) : Nat × BitVec 5 :=
  if m = 0 then (f.signed neg 0, 0)
  else
    let top : Int := Nat.log2 m + e
    let emin : Int := 1 - f.bias
    let u : Int := max top emin - f.mbits
    let (q, inexact, up) := roundUnits mode neg m e u
    let (qu, _, _) := roundUnits mode neg m e (top - f.mbits)
    let tiny := decide (top < emin) && !(decide (qu = 2 ^ (f.mbits + 1)) && decide (top + 1 = emin))
    let carried := decide (q = 2 ^ (f.mbits + 1))
    let expo := (u + f.mbits + f.bias).toNat
    let mag := if q < 2 ^ f.mbits then q
               else if carried then (expo + 1) * 2 ^ f.mbits
               else expo * 2 ^ f.mbits + (q - 2 ^ f.mbits)
    if f.maxMag < mag then
      (if sat then f.signed neg f.maxMag
       else if toInfinity mode neg up then f.infinity neg
       else f.signed neg f.maxMag, flagOF ||| flagNX)
    else (f.signed neg mag, (if inexact then flagNX else 0) ||| (if inexact && tiny then flagUF else 0))

/-- A value delivered in a format, with its flags: a NaN is canonical (R61). -/
def FFmt.deliver (f : FFmt) (mode : RMode) (sat : Bool) (v : FVal) : Nat × BitVec 5 :=
  match v with
  | .nan sig => (f.nan, if sig then flagNV else 0)
  | .inf neg => if sat then (f.signed neg f.maxMag, 0) else (f.infinity neg, 0)
  | .fin neg m e => f.round mode sat neg m e

-- exact arithmetic with the special values of R61
/-- Sign of an exact zero sum (IEEE 754-2019): minus only when rounding down. -/
def zeroSign (mode : RMode) : Bool := mode = .rdn

/-- A signed integer m × 2^e as a value; zero takes the given sign. -/
def FVal.ofInt (m : Int) (e : Int) (zeroNeg : Bool) : FVal := .fin (if m = 0 then zeroNeg else m < 0) m.natAbs e

/-- The signed mantissa of a finite value at exponent e. -/
def signedAt (neg : Bool) (m : Nat) (e u : Int) : Int :=
  let k : Int := (m * 2 ^ (e - u).toNat : Nat)
  if neg then -k else k

/-- Exact sum; the flag is NV (R61). -/
def FVal.add (mode : RMode) (a b : FVal) : FVal × BitVec 5 :=
  match a, b with
  | .nan sa, .nan sb => (.nan false, if sa || sb then flagNV else 0)
  | .nan sa, _ => (.nan false, if sa then flagNV else 0)
  | _, .nan sb => (.nan false, if sb then flagNV else 0)
  | .inf x, .inf y => if x = y then (.inf x, 0) else (.nan false, flagNV)
  | .inf x, _ => (.inf x, 0)
  | _, .inf y => (.inf y, 0)
  | .fin na ma ea, .fin nb mb eb =>
    let u := min ea eb
    let m := signedAt na ma ea u + signedAt nb mb eb u
    (if m = 0 then .fin (if na = nb then na else zeroSign mode) 0 u else .ofInt m u false, 0)

/-- The value with its sign inverted; a NaN stays. -/
def FVal.neg : FVal → FVal
  | .nan s => .nan s
  | .inf n => .inf (!n)
  | .fin n m e => .fin (!n) m e

/-- Exact product (R61). -/
def FVal.mul (a b : FVal) : FVal × BitVec 5 :=
  match a, b with
  | .nan sa, .nan sb => (.nan false, if sa || sb then flagNV else 0)
  | .nan sa, _ => (.nan false, if sa then flagNV else 0)
  | _, .nan sb => (.nan false, if sb then flagNV else 0)
  | .inf x, .inf y => (.inf (xor x y), 0)
  | .inf x, .fin y m _ => if m = 0 then (.nan false, flagNV) else (.inf (xor x y), 0)
  | .fin x m _, .inf y => if m = 0 then (.nan false, flagNV) else (.inf (xor x y), 0)
  | .fin x ma ea, .fin y mb eb => (.fin (xor x y) (ma * mb) (ea + eb), 0)

/-- c + a × b with the flags of R61; 0 × ∞ is invalid whatever c holds (R143). -/
def FVal.fma (mode : RMode) (c a b : FVal) : FVal × BitVec 5 :=
  let (p, f1) := a.mul b
  let (r, f2) := FVal.add mode c p
  (r, f1 ||| f2)

/-- Order of two numbers: negative, zero or positive difference (−0 equals +0). -/
def FVal.cmp (a b : FVal) : Int :=
  match a, b with
  | .inf x, .inf y => (if y then 1 else 0) - (if x then 1 else 0)
  | .inf x, _ => if x then -1 else 1
  | _, .inf y => if y then 1 else -1
  | .fin na ma ea, .fin nb mb eb => let u := min ea eb; signedAt na ma ea u - signedAt nb mb eb u
  | _, _ => 0

/-- Whether a value is a NaN. -/
def FVal.isNan : FVal → Bool
  | .nan _ => true
  | _ => false
/-- Whether a value is a signalling NaN. -/
def FVal.isSig : FVal → Bool
  | .nan s => s
  | _ => false
/-- Whether a value is an infinity. -/
def FVal.isInf : FVal → Bool
  | .inf _ => true
  | _ => false
/-- Sign of a value. -/
def FVal.sign : FVal → Bool
  | .nan _ => false
  | .inf n => n
  | .fin n _ _ => n

-- integers (R53)
/-- Width in bits of an element format; FP4B elements have 4. -/
def fmtBits : Fmt → Nat
  | .i8 | .u8 | .e4 | .e5 => 8
  | .i16 | .bf16 | .f16 => 16
  | .i32 | .f32 => 32
  | .i64 => 64
  | .f4b => 4
/-- Whether a format is an integer format. -/
def isIntFmt : Fmt → Bool
  | .i8 | .u8 | .i16 | .i32 | .i64 => true
  | _ => false
/-- Fields of a floating element format. -/
def floatFmt : Fmt → FFmt
  | .bf16 => .bf16 | .f16 => .f16 | .e4 => .e4 | .e5 => .e5 | .f4b => .e2m1 | _ => .f32
/-- Value of an integer pattern. -/
def intValue (f : Fmt) (x : Nat) : Int :=
  let w := fmtBits f
  let v := x % 2 ^ w
  if f ≠ .u8 && decide (2 ^ (w - 1) ≤ v) then (v : Int) - 2 ^ w else v
/-- Pattern of an integer modulo 2^w. -/
def intPattern (f : Fmt) (v : Int) : Nat := (v % (2 ^ fmtBits f : Int)).toNat
/-- Least and greatest value of an integer format (R53). -/
def intMin (f : Fmt) : Int := if f = .u8 then 0 else -(2 ^ (fmtBits f - 1) : Int)
def intMax (f : Fmt) : Int := if f = .u8 then 255 else (2 ^ (fmtBits f - 1) : Int) - 1

/-- A finite value rounded to an integer, and whether it is inexact. -/
def roundToInt (mode : RMode) (neg : Bool) (m : Nat) (e : Int) : Int × Bool :=
  let (q, inexact, _) := roundUnits mode neg m e 0
  (if neg then -(q : Int) else q, inexact)

/-- A floating value to an integer format (R64); `clamp` gives the flags of a value out of range. -/
def toIntFmt (f : Fmt) (mode : RMode) (clamp : BitVec 5) (v : FVal) : Nat × BitVec 5 :=
  match v with
  | .nan _ => (0, flagNV)
  | .inf neg => (intPattern f (if neg then intMin f else intMax f), clamp)
  | .fin neg m e =>
    let (r, inexact) := roundToInt mode neg m e
    if r < intMin f then (intPattern f (intMin f), clamp)
    else if intMax f < r then (intPattern f (intMax f), clamp)
    else (intPattern f r, if inexact then flagNX else 0)

/-- An integer saturated to a format (R64). -/
def satInt (f : Fmt) (v : Int) : Nat := intPattern f (max (intMin f) (min (intMax f) v))

/-- `aaddf` (R172): RNE of the exact sum of two FP32 words, no flag. -/
def addF32 (a b : Nat) : Nat :=
  (FFmt.f32.deliver .rne false (FVal.add .rne (FFmt.f32.decode a) (FFmt.f32.decode b)).1).1

end Sys2Proof.Machine
end

