-- ==== Sys2Proof/Machine/Operands.lean ====
section
/-! DEFINITION. Forming and checking an address, and finding its home: the window map, translation, stripe groups and logical names
(spec/05_scratchpad.md R107, R119; spec/07_home_memory.md R156-R161; spec/08_translation.md R180-R188; spec/09_contexts_fabric.md
R210-R211). -/
namespace Sys2Proof.Machine

-- the local window (R107)
/-- Whether an address lies in the local window (R77, R107). -/
def inWindow (va : VAddr) : Bool := va.extractLsb' 40 8 = 0xFF

/-- The first address of the local window (R107). -/
def windowBase : Nat := 0xFF0000000000

/-- Window offset of an address. -/
def winOffset (va : VAddr) : Nat := va.toNat - windowBase

/-- The scratchpad key of window offset o for a gang's set of quarter numbers, ascending (R107). -/
def windowKey (t : Nat) (quarters : List Nat) (o : Nat) : Nat :=
  let s := quarters.length * 24576
  let q := quarters.getD (o % s / 24576) 0
  let u := o % 24576
  scratchKey t (o / s) (q * 768 + u / 32) (u % 32)

/-- Bytes of the window of a gang of q quarters (R107). -/
def windowBytes (q : Nat) : Nat := q * 196608

/-- Quarter numbers of the issuing thread's gang on its tile; none where it is not resident. -/
def State.quarters (s : State) : List Nat :=
  match (s.tile s.tileNo).residFor s.thr.asid s.thr.lgen s.thr.ltn with
  | some r => r.quarters
  | none => []

/-- The ASID of an access (R180).  R180 names gang threads, engine records and service-core threads: a steward's accesses, in slot 0 of a compute
core, are looked up under ASID 0, the model's choice (DESIGN CHOICE, log 37). -/
def State.accessAsid (s : State) : Nat :=
  if s.coreNo = 8 then (s.tile s.tileNo).svcAsid else if s.thr.asid = noGang then 0 else s.thr.asid

-- TLB entries (R181, R184)
/-- Log of the page size of a SIZE code. -/
def pageBits (size : Nat) : Nat := if size = 0 then 14 else if size = 1 then 21 else 30

/-- SIZE, ASID and first address of the page of an entry's key, which is the key word of `tlbw` without EPOCH (R186). -/
def keySize (k : Nat) : Nat := k / 2 ^ 48
def keyAsid (k : Nat) : Nat := k / 2 ^ 34 % 4096
def keyVa (k : Nat) : Nat := k % 2 ^ 34 * 2 ^ 14

/-- Whether an entry's page holds an address of an ASID. -/
def tlbMatch (asid va : Nat) (e : Nat × Word) : Bool :=
  keyAsid e.1 = asid && va / 2 ^ pageBits (keySize e.1) = keyVa e.1 / 2 ^ pageBits (keySize e.1)

/-- The key of the TLB entry that translates an address for the issuing thread, 0 where there is none. -/
def State.pageKey (s : State) (va : VAddr) : Nat :=
  match (((s.tile s.tileNo).core s.coreNo).utlb ++ (s.tile s.tileNo).tlb).find? (tlbMatch s.accessAsid va.toNat) with
  | some e => e.1
  | none => 0

/-- The tile-TLB set of an entry (R184). -/
def tlbSet (k : Nat) : Nat := Nat.xor (keyVa k / 2 ^ pageBits (keySize k) % 64) (keyAsid k % 64)

/-- Move the entry that a test finds to the front, most recently used. -/
def touch {α : Type} (t : α → Bool) (l : List α) : List α :=
  match l.find? t with
  | none => l
  | some e => e :: l.eraseP t

/-- Look an address up in the micro-TLB of a compute core and then in the tile TLB, whose entry is copied into the micro-TLB
(R184). -/
def State.lookup (s : State) (t core asid va : Nat) : Option (Nat × Word) × State :=
  let x := s.tile t
  let u := (x.core core).utlb
  match (if core < 8 then u.find? (tlbMatch asid va) else none) with
  | some e => (some e, s.modCore t core fun c => { c with utlb := touch (tlbMatch asid va) u })
  | none =>
    match x.tlb.find? (tlbMatch asid va) with
    | none => (none, s)
    | some e =>
      let s := s.modTile t fun x => { x with tlb := touch (tlbMatch asid va) x.tlb }
      (some e, if core < 8 then s.modCore t core fun c => { c with utlb := (e :: c.utlb).take 16 } else s)

/-- Whether a miss record for the same 16 KiB is queued (R185). -/
def sameMiss (asid va : Nat) (m : Miss) : Bool := m.asid = asid && m.va / 16384 = va / 16384

/-- Put a miss into the queue of 32 unless a record for it is there (R185); with the queue full it is presented again when a record
frees (R179). -/
def Tile.recordMiss (t : Tile) (m : Miss) : Tile :=
  if t.missq.any (sameMiss m.asid m.va) || t.missWait.any (sameMiss m.asid m.va) then t
  else if t.missq.length < 32 then { t with missq := t.missq ++ [m] }
  else { t with missWait := t.missWait ++ [m] }

/-- A tile-TLB miss: counted in TLBCNT (55), a record queued, and the thread parked (R185). -/
def State.tlbMiss (s : State) (kind asid : Nat) (va : VAddr) : State :=
  let t := s.tileNo
  ((s.bump t 55).modTile t fun x => x.recordMiss { kind := kind, asid := asid, va := va.toNat }).parkOn (.miss asid va.toNat kind)

/-- Page fault with the refault count of R188: 0x08, or 0x18 for the eighth in a row; counted in PFCNT (56).  A coupled thread
takes it once its open interval has been compared (R354). -/
def State.pageFault (s : State) (va : VAddr) : State :=
  if s.thr.intervalOpen then (s.withThr fun th => { th with after := some (.fault va) }).parkOn .follower
  else
    let same := decide (0 < s.thr.refault) && decide (s.thr.faultAt = (s.pc, va))
    let n := if same then s.thr.refault + 1 else 1
    let s := (s.bump s.tileNo 56).withThr fun th => { th with refault := if n = 8 then 0 else n, faultAt := (s.pc, va) }
    s.takeTrap (if n = 8 then 0x18 else 0x08) (va.setWidth 64)

-- descriptors (R181)
/-- TYPE of a descriptor: 0 invalid, 1 LOCAL, 2 STRIPED, 3 HOST. -/
def descType (d : Word) : Nat := wbits d 63 62
/-- RPL. -/
def descRpl (d : Word) : Bool := d.getLsbD 58
/-- MIR. -/
def descMir (d : Word) : Bool := d.getLsbD 60
/-- HSH. -/
def descHsh (d : Word) : Bool := d.getLsbD 59

-- logical names (R210, R211)
/-- Default binding of an index: its own zone, quadrant i div 40, site i mod 40; indices from 160 on are never bound (R12, R210). -/
def defaultBinding (z i : Nat) : Binding := { v := decide (i < 160) && decide (z ≤ 80), field := z, quad := i / 40, site := i % 40 }

/-- The binding of a logical name (R210). -/
def State.binding (s : State) (name : Ltn) : Binding :=
  assocGet (ltnIndex name) (defaultBinding (ltnZone name) (ltnIndex name)) (s.zone (ltnField name)).binds

/-- The site a binding names within a module. -/
def bindingSite (m : Nat) (b : Binding) : Nat := (m * 128 + b.field) * 256 + b.quad * 64 + b.site

/-- The site of a logical name. -/
def State.siteOf (s : State) (name : Ltn) : Nat := bindingSite (ltnModule name) (s.binding name)

/-- Whether a module is the tile's own or has a valid PEER entry: it is in the load-store domain (R389). -/
def State.inDomain (s : State) (own m : Nat) : Bool := m = own || (assocGet m 0 (s.module own).peers).getLsbD 19

/-- A name that faults without a walk (R211). -/
def State.badName (s : State) (t : Nat) (name : Ltn) : Bool :=
  !s.inDomain (siteModule t) (ltnModule name) || decide (80 < ltnZone name) || decide (159 < ltnIndex name) || decide (2 ^ 19 ≤ name)

/-- What resolving a name answers: its site, a name fault, or a walk to wait for. -/
inductive NameRes where
  | site (t : Nat)
  | bad
  | miss
  deriving DecidableEq, Repr

/-- Resolve a name at a site by its name cache (R211).  A name of another module is not looked up at the source: the packet is
resolved at the receiving module. -/
def State.resolve (s : State) (t : Nat) (name : Ltn) : NameRes × State :=
  if s.badName t name then (.bad, s)
  else if ltnModule name ≠ siteModule t then (.site (s.siteOf name), s)
  else
    match (s.tile t).ncache.find? (fun e => e.1 = name) with
    | some e => (.site e.2, s.modTile t fun x => { x with ncache := touch (fun e => e.1 = name) x.ncache })
    | none => (.miss, s)

/-- The name of the logical tile a thread or an engine of a site answers by: its thread's, or the one bound to the site. -/
def State.ownName (s : State) : Ltn := s.thr.ltn

/-- A walk for a name, sent on VC3 to the table tile unless one is out from this site; counted in NCMISS (60) (R211). -/
def State.walkName (s : State) (t : Nat) (own name : Ltn) : State :=
  let s := s.bump t 60
  if s.packets.any (fun pk => match pk.body with | .walk n => n = name && pk.src = own | .walkReply n _ _ => n = name && pk.dst = own | _ => false)
  then s
  else
    let (id, s) := s.fresh
    let pk : Packet := { id := id, vc := 3, len := 1, src := own, dst := ltnOf (ltnModule name) (ltnZone name) 0, asid := 0, lgen := 0,
                         gen := (s.tile t).gen, turns := [], dport := 0, fwdc := 0, pos := .source t, body := .walk name }
    { s with packets := s.packets ++ [pk] }

/-- Go on with the site of a name, take a name fault, or park for a walk (R211). -/
def State.withName (s : State) (name : Ltn) (k : State → Nat → Out) : Out :=
  match s.resolve s.tileNo name with
  | (.site t, s) => k s t
  | (.bad, s) => .next (s.takeTrap 0x09 (BitVec.ofNat 64 name))
  | (.miss, s) => .next ((s.walkName s.tileNo s.thr.ltn name).parkOn (.name name))

-- lines of the cache slice (R163, R164)
/-- The superblock of a number in a slice. -/
def Tile.super? (t : Tile) (sb : Nat) : Option Super := t.slice.find? fun x => x.sb = sb

/-- Whether the lines of a range are present and valid (R164). -/
def Tile.lineValid (t : Tile) (v : Nat) : Bool :=
  match t.super? (superOf v) with
  | some x => !x.filling && (match x.lines[lineNo v]? with | some l => l.valid | none => false)
  | none => false

-- stripe groups (R160, R161)
/-- The logical shift of a line number (R160). -/
def lineHash (x : Nat) : Nat := Nat.xor x (x / 2 ^ 17) * 0x2C1B3C6D % 2 ^ 32

/-- The live logical indices of a zone, ascending (R160). -/
def Zone.liveIndices (z : Zone) : List Nat := (List.range 160).filter fun i => !z.retired.contains i

/-- Home index of a line among n live tiles (R160). -/
def homeIndex (n x : Nat) : Nat := lineHash x % n

/-- The name of the home of line x of a group (R160). -/
def Zone.lineName (z : Zone) (f x : Nat) : Ltn := f * 256 + z.liveIndices.getD (homeIndex z.live x) 0

/-- A little-endian number read at a key. -/
def State.nat (s : State) (pa n : Nat) : Nat := ofBytes (s.bytes pa n)

/-- The mask of the lines of a sub-block that have the home index of line x (R161). -/
def Zone.mask (z : Zone) (x : Nat) : BitVec 128 :=
  (List.range 128).foldl (fun m i =>
    if homeIndex z.live (x / 128 * 128 + i) = homeIndex z.live x then m ||| ((1 : BitVec 128) <<< i) else m) 0

/-- The mask of line x at a site: from its shelf mask cache, or computed (R161). -/
def State.shelfMask (s : State) (f t x : Nat) : BitVec 128 :=
  match (s.tile t).masks.find? fun m => m.field = f && m.page = x / 16384 && m.sub = x % 16384 / 128 with
  | some m => m.bits
  | none => (s.zone f).mask x

/-- The shelf mask cache of 64 entries after a look-up, the least recently used replaced (R155, R161). -/
def State.noteMask (s : State) (f t x : Nat) : State :=
  let m : Mask := { field := f, page := x / 16384, sub := x % 16384 / 128, bits := s.shelfMask f t x }
  s.modTile t fun y => { y with masks := (m :: y.masks.filter fun o => o ≠ m).take 64 }

/-- Vault address of line x of a group at its home site, from the shelf record of its stripe page (R161). -/
def State.shelfLine (s : State) (f t x : Nat) : Nat :=
  let p := x / 16384
  let l := x % 16384
  let rec0 := vaultKey t ((s.zone f).stripeA * 16384 + p * 512)
  let shelf := s.nat rec0 8
  let pre := s.nat (rec0 + 16 + 2 * (l / 128)) 2
  let m := s.shelfMask f t x
  let below := ((List.range (l % 128)).filter fun i => m.getLsbD i).length
  shelf + (pre + below) * 128

/-- Whether an access changes data, tags or full/empty bits, which an RPL page does not take (R183). -/
abbrev Writes := Bool

/-- The page offset of an address in the page of an entry. -/
def pageOffset (e : Nat × Word) (va : VAddr) : Nat := va.toNat % 2 ^ pageBits (keySize e.1)

/-- What step 7a of R119 refuses: an instruction that no HOST page takes, and a tagged value bound to scratchpad outside a window. -/
structure Step7a where
  host : Bool
  loc  : Bool
  deriving DecidableEq, Repr

/-- An access that step 7a lets pass everywhere. -/
def Step7a.open : Step7a := { host := false, loc := false }

/-- Go on past step 7a, or 0x05 with the address (R119). -/
def State.step7a (s : State) (refused : Bool) (va : VAddr) (k : State → Out) : Out :=
  if refused then .next (s.takeTrap 0x05 (va.setWidth 64)) else k s

/-- The home of an address under a TLB entry (R159-R161, R183): steps 7, 7a and 8 of R119. -/
def State.homeUnder (s : State) (e : Nat × Word) (va : VAddr) (writes : Writes) (r : Step7a) (k : State → Home → Out) : Out :=
  let d := e.2
  let o := pageOffset e va
  match descType d with
  | 1 =>
    let v := wbits d 12 0 * 16384 + o
    if descRpl d then
      if writes then .next (s.pageFault va)
      else s.step7a r.loc va fun s => k s (.tile s.tileNo (vaultKey s.tileNo v) s.thr.ltn)
    else
      let name := wbits d 50 32
      s.step7a r.loc va fun s => s.withName name fun s t => k s (.tile t (vaultKey t v) name)
  | 2 =>
    let m := wbits d 50 47
    let zn := wbits d 46 40
    let f := m * 128 + zn
    let x := wbits d 31 0 + o / 128
    if (s.zone f).stripeP ≤ x / 16384 then .next (s.pageFault va)
    else
      let name := (s.zone f).lineName f x
      s.step7a r.loc va fun s => s.withName name fun s t =>
        let v := s.shelfLine f t x + o % 128
        if 2 ^ 27 ≤ v then .fault .noSuchVaultAddress
        else k (if (s.tile t).lineValid v then s else s.noteMask f t x) (.tile t (vaultKey t v) name)
  | 3 => s.step7a (r.host || r.loc) va fun s => k s (.host (siteModule s.tileNo * 4 + wbits d 41 40) (wbits d 37 0 * 16384 + o))
  | _ => .next (s.pageFault va)

/-- Steps 7 to 8 of R119 for n bytes at a checked address: the window bound, or translation and the home.  `kind` is the access
kind of a miss record (R185). -/
def State.withHome (s : State) (va : VAddr) (n kind : Nat) (writes : Writes) (r : Step7a) (k : State → Home → Out) : Out :=
  if inWindow va then
    let qs := s.quarters
    if winOffset va + n > windowBytes qs.length then .next (s.takeTrap 0x04 (va.setWidth 64))
    else k s (.tile s.tileNo (windowKey s.tileNo qs (winOffset va)) s.thr.ltn)
  else
    match s.lookup s.tileNo s.coreNo s.accessAsid va.toNat with
    | (none, s) => .next (s.tlbMiss kind s.accessAsid va)
    | (some e, s) => s.homeUnder e va writes r k

/-- The capability of an access at an offset, its cursor moved modulo 2^48 (R119). -/
def Reg.at (r : Reg) (off : Word) : Reg := r.withCursor (r.cursor + off.setWidth 48)

/-- A checked address or the trap of steps 3-6 (R119). -/
def State.withAddr (s : State) (r : Reg) (n : Nat) (perm : BitVec 9) (k : State → VAddr → Out) : Out :=
  match checkCap r n perm with
  | .error (cause, value) => .next (s.takeTrap cause value)
  | .ok va => k s va

/-- Whether a home is another logical tile than the issuing thread's (step 9 of R119). -/
def State.isRemote (s : State) : Home → Bool
  | .tile _ _ name => name ≠ s.thr.ltn
  | .host _ _ => true

end Sys2Proof.Machine
end

