-- ==== Sys2Proof/Machine/Packets.lean ====
section
/-! DEFINITION. Making packets and finding them (spec/09_contexts_fabric.md R198, R217, R218).  How packets move is in Fabric. -/
namespace Sys2Proof.Machine

-- the system reserve (R157, R158, R349)
/-- The first frame of a module's mirror reservations, and of the recovery reserves below them, by the fraction of its image: 0, 1/8, 1/4 or
1/2 (R158). -/
def reserveFirst (fraction : Nat) : Nat :=
  match fraction with
  | 0 => 7168
  | 1 => 6144
  | 2 => 5120
  | _ => 3072
def recoveryFirst (fraction : Nat) : Nat :=
  match fraction with
  | 0 => 5888
  | 1 => 4864
  | 2 => 3840
  | _ => 1792

/-- Whether a logical tile is the second one of a site: its zone is another, which was lost (R349). -/
def secondTile (t : Nat) (name : Ltn) : Bool := ltnField name ≠ siteZone t

/-- First vault address of a site's recovery reserve (R158). -/
def State.recoveryBase (s : State) (t : Nat) : Nat := recoveryFirst (s.module (siteModule t)).mirror * 16384

/-- Where what lies at an offset of the system reserve has its place for a logical tile: there, or for a second logical tile at the same offset
of the recovery reserve (R157, R349). -/
def State.areaBase (s : State) (t : Nat) (name : Ltn) (off : Nat) : Nat :=
  (if secondTile t name then s.recoveryBase t else 0x07000000) + off

/-- Places of heap context i, of spill record i of a core, and of overflow message i (R157, R349). -/
def State.heapAddr (s : State) (t : Nat) (name : Ltn) (i : Nat) : Nat := s.areaBase t name (0x00080000 + 352 * i)
def State.spillAddr (s : State) (t : Nat) (name : Ltn) (core i : Nat) : Nat := s.areaBase t name (0x00600000 + core * 262144 + 64 * i)
def State.overflowAddr (s : State) (t : Nat) (name : Ltn) (i : Nat) : Nat := s.areaBase t name (0x00800000 + 32 * i)

/-- Key of a heap context's place. -/
def State.heapKey (s : State) (t : Nat) (name : Ltn) (i : Nat) : Nat := vaultKey t (s.heapAddr t name i)

-- host bridges (R417)
/-- Zone of the host bridge of a port number 0-3, and the field of that of a port of any module (R417). -/
def bridgeZone (port : Nat) : Nat := [9, 27, 45, 63].getD port 9
def bridgeField (port : Nat) : Nat := port / 4 * 128 + bridgeZone (port % 4)

/-- The number by which packets name the host bridge of a port: above every LTN, since no LTN names a bridge (R417). -/
def bridgeName (port : Nat) : Ltn := 2 ^ 19 + port

/-- The port of a bridge that a packet names, if it names one. -/
def bridgePort (n : Ltn) : Option Nat := if 2 ^ 19 ≤ n then some (n - 2 ^ 19) else none

/-- Where a packet at a bridge stands: a number of the bridge's field that no tile site has (log 57). -/
def bridgeSite (port : Nat) : Nat := bridgeField port * 256 + 255

/-- Module and field of a tile or a bridge that a packet names (R12, R417). -/
def nameModule (n : Ltn) : Nat := match bridgePort n with | some port => port / 4 | none => ltnModule n
def nameField (n : Ltn) : Nat := match bridgePort n with | some port => bridgeField port | none => ltnField n

/-- A list of turns as one number, the first in the lowest four bits (R214). -/
def ofDigits16 : List Nat → Nat
  | [] => 0
  | d :: r => d + 16 * ofDigits16 r

/-- Virtual channel of a payload (R218); 4 stands for the steal network, which runs beside the fabric (R232). -/
def Payload.vc : Payload → Nat
  | .context _ => 0
  | .task _ _ _ => 0
  | .response _ _ _ _ _ _ _ => 2
  | .ack _ _ _ => 2
  | .shareAnswer _ _ _ => 2
  | .walk _ => 3
  | .walkReply _ _ _ => 3
  | .gset _ _ _ => 3
  | .mirror _ _ => 3
  | .steal _ => 4
  | _ => 1

/-- Class of a payload, the KIND of the head flit (R198). -/
def Payload.kind : Payload → Nat
  | .context _ => 0
  | .task _ _ _ => 1
  | .store _ _ op _ _ => (match op with | .atom _ _ _ _ => 3 | .dec => 3 | _ => 2)
  | .proxyLoad _ _ _ _ => 4
  | .proxySync _ _ _ _ _ _ => 4
  | .proxyFer _ _ _ => 4
  | .proxyAtomic _ _ _ _ _ _ _ _ => 4
  | .hostLoad _ _ _ _ _ => 4
  | .response _ _ _ _ _ _ _ => 5
  | .ack _ _ _ => 5
  | .events _ => 6
  | .copy _ _ _ _ _ _ _ _ _ _ => 7
  | .msg _ _ _ _ _ => 8
  | _ => 9

/-- Flits that follow the head of a packet (R198): those of a task record (R234), of events (R314) and of a copy (R246) as the spec gives them,
of a whole context (R197), and one or as many as the content needs elsewhere, the model's choice (log 57). -/
def Payload.len : Payload → Nat
  | .context _ => 11
  | .task _ _ _ => 2
  | .ack _ _ _ => 0
  | .events es => (es.length + 1) / 2
  | .copy _ _ data _ _ _ _ _ _ _ => 1 + data.length / 32
  | .shareRequest _ _ _ _ _ => 3
  | .mirror _ _ => 11
  | _ => 1

/-- Inject a packet of so many flits behind its head at a site for a logical name.  A packet to a name the site itself answers goes by the
loop-back port. -/
def State.sendLen (s : State) (t : Nat) (own dst : Ltn) (asid lgen len : Nat) (body : Payload) : State :=
  let (id, s) := s.fresh
  let pk : Packet := { id := id, vc := body.vc, len := len, src := own, dst := dst, asid := asid, lgen := lgen, gen := (s.tile t).gen,
                       turns := [], dport := 0, fwdc := 0, pos := if own = dst then .arrived t else .source t, body := body }
  { s with packets := s.packets ++ [pk] }

/-- Inject a packet at a site. -/
def State.send (s : State) (t : Nat) (own dst : Ltn) (asid lgen : Nat) (body : Payload) : State := s.sendLen t own dst asid lgen body.len body

/-- The packet whose acknowledgement or response a packet carries, or the packet itself. -/
def Packet.origin (p : Packet) : Nat :=
  match p.body with
  | .ack k _ _ => k
  | .response _ k _ _ _ _ _ => k
  | _ => p.id

/-- SEQ, by which an acknowledgement finds its packet (R198): the low bits of the packet's number (log 57). -/
def Packet.seq (p : Packet) : Nat := p.origin % 65536

/-- STATUS of the head flit (R198). -/
def Packet.status (p : Packet) : Nat :=
  match p.body with
  | .ack _ status _ => status
  | .response _ _ status _ _ _ _ => status
  | _ => 0

/-- Place a value at a bit. -/
def field (v lo : Nat) : Nat := v * 2 ^ lo

/-- The head flit of a packet (R198). -/
def Packet.headFlit (p : Packet) : BitVec 256 :=
  BitVec.ofNat 256
    (field p.body.kind 252 + field (p.vc % 4) 250 + field (bit p.gen) 249 + field (p.len % 16) 245 + field (p.dport % 8) 242 +
     field (p.dst % 2 ^ 19) 223 + field (p.src % 2 ^ 19) 204 + field (p.asid % 4096) 192 + field (p.lgen % 65536) 176 + field p.seq 160 +
     field (p.fwdc % 4) 158 + field (p.status % 64) 152 + ofDigits16 (p.turns.map BitVec.toNat) % 2 ^ 120)

/-- The copy header flit (R246). -/
def Payload.copyHeader : Payload → BitVec 256
  | .copy _ off _ _ _ tagged full last core tag =>
    BitVec.ofNat 256 (field (off % 2 ^ 20) 236 + field (core % 8) 233 + field (tag % 64) 227 + field (bit full) 226 + field (bit last) 225 +
      field (bit tagged) 224)
  | _ => 0

/-- The packet of a number. -/
def State.packet? (s : State) (pk : Nat) : Option Packet := s.packets.find? fun p => p.id = pk

/-- The number under which an SC atomic in a packet is announced (R258). -/
def Packet.bellRef (p : Packet) : Option Nat :=
  match p.body with
  | .store _ seq (.atom _ _ _ true) _ _ => some seq
  | .proxyAtomic th _ _ _ _ _ _ true => some th
  | _ => none

/-- Take a packet out of the fabric; with an SC atomic its announcement goes (R258). -/
def State.dropPacket (s : State) (pk : Nat) : State :=
  { s with packets := s.packets.filter (fun p => p.id ≠ pk),
           anns := s.anns.filter fun a => !(s.packets.any fun p => p.id = pk && p.bellRef = some a.ref) }

/-- Whether what an object number stands for is over: a packet and its acknowledgement or response, a store-buffer entry, a copy that
has read its source, a run of the event engine. -/
def State.settled (s : State) (id : Nat) : Bool :=
  !(s.packets.any fun p => p.id = id ||
      (match p.body with | .ack k _ _ => k = id | .response _ k _ _ _ _ _ => k = id | _ => false)) &&
  !(s.threads.any fun th =>
      (match th.park with | some (.proxy k _) => k = id | _ => false) ||
      th.sb.any fun x => match x with | .entry q _ _ _ _ _ _ _ => q = id | .marker _ _ => false) &&
  !(s.tiles.any fun x => (x.2.copies.any fun c => c.id = id && !c.ended && decide (c.done < c.n)) || x.2.ev.runs.any fun r => r.id = id)

/-- A copy that is over: read to its end or ended, every packet acknowledged (R247). -/
def State.copyOver (s : State) (c : Copy) : Bool := (c.ended || c.done = c.n) && c.pks.all s.settled

/-- The copies outstanding at a site (R243). -/
def State.copiesOut (s : State) (t : Nat) : List Copy := (s.tile t).copies.filter fun c => !s.copyOver c

/-- Destination fields that a route switch still holds at a site (R219). -/
def State.heldNow (s : State) (t : Nat) : List Nat :=
  ((s.tile t).heldFields.filter fun h => h.2.any fun id => !s.settled id).map (·.1)

/-- Update a packet. -/
def State.modPacket (s : State) (pk : Nat) (f : Packet → Packet) : State :=
  { s with packets := s.packets.map fun p => if p.id = pk then f p else p }

/-- Whether a packet waits at its home for its bell order (R258). -/
def Packet.bellHeld (p : Packet) : Bool := p.bellRef.isSome && (match p.pos with | .arrived _ => true | _ => false)

/-- Whether a packet is a share request that its tile has taken and keeps until a partner entry frees (R294). -/
def Packet.isAside (p : Packet) : Bool := match p.pos with | .aside _ => true | _ => false

/-- Whether a packet is the oldest from its source to its destination on its channel, which VC order performs first (R218).  A packet that a
router has discarded holds nothing back, nor does a share request that waits for a partner entry (R294), and neither does an SC atomic that has arrived and waits for its bell order: no later access of its own
thread leaves before it is acknowledged (R257, R173), and bell order decides among such atomics (R258; log 33). -/
def State.isOldest (s : State) (p : Packet) : Bool :=
  match s.packets.find? fun q =>
    q.vc = p.vc && q.src = p.src && q.dst = p.dst && q.pos ≠ .discarded && !((q.bellHeld || q.isAside) && q.id ≠ p.id) with
  | some q => q.id = p.id
  | none => false

/-- The site to which a forward record of a site sends a packet on VC0 or VC1 on (R212). -/
def State.forwardOf (s : State) (t : Nat) (p : Packet) : Option Nat :=
  if p.vc < 2 then ((s.tile t).fwd.find? fun e => e.1 = p.dst).map (·.2) else none

/-- The site at which a packet has arrived, if the site hosts its name and keeps no forward record of it, and may be taken in order. -/
def State.arrivedAt (s : State) (p : Packet) : Option Nat :=
  match p.pos with
  | .arrived t => if (p.vc ≥ 2 || s.isOldest p) && s.siteOf p.dst = t && (s.forwardOf t p).isNone then some t else none
  | .aside t => if s.siteOf p.dst = t then some t else none
  | _ => none

/-- A packet that has arrived, with its site; the meaning of its arrival otherwise does nothing. -/
def State.withArrival (s : State) (pk : Nat) (k : State → Packet → Nat → State) : Out :=
  match s.packet? pk with
  | none => .next s
  | some p =>
    match s.arrivedAt p with
    | none => .next s
    | some t => .next (k s p t)

/-- RECV of a gang on a tile (R270). -/
def State.received (s : State) (t asid lgen : Nat) : State := s.modTile t fun x => x.modResid asid lgen fun r => { r with recv := true }

/-- Anything that reaches a tile or a deque ends the back-off of its thieves (R231). -/
def Tile.wakeThieves (t : Tile) : Tile :=
  { t with cores := t.cores.map fun c => (c.1, { c.2 with steal := { c.2.steal with backoff := none } }) }

/-- End the back-off of the cores of a site (R231). -/
def State.wakeThieves (s : State) (t : Nat) : State := s.modTile t Tile.wakeThieves

/-- Answer a packet with an acknowledgement on VC2 (R198): 0 performed, 1 poison, 2 refused, 3 discarded; a packet that was taken sets
RECV (R270). -/
def State.ackPacket (s : State) (p : Packet) (t : Nat) (status : Nat) (va : VAddr) : State :=
  (if status < 2 then s.received t p.asid p.lgen else s).send t p.dst p.src p.asid p.lgen (.ack p.id status va)

/-- Packets that are lost: a context in one ends, a steal message in one is gone, and so is the announcement of an SC atomic (R212, R232,
R258). -/
def State.losePackets (s : State) (hit : Packet → Bool) : State :=
  let gone := s.packets.filter hit
  let s := gone.foldl (fun s p => match p.body with | .context id => s.modThread id Thread.ends | _ => s) s
  { s with packets := s.packets.filter fun p => !hit p,
           steals := s.steals.filter fun m => !(gone.any fun p => match p.body with | .steal k => k = m.id | _ => false),
           anns := s.anns.filter fun a => !(gone.any fun p => p.bellRef = some a.ref) }

/-- A gang's key: ASID and generation as one number. -/
def gangKey (asid lgen : Nat) : Nat := asid * 65536 + lgen

/-- Whether a gang is resident at a site, pre-empted there, or neither (R207). -/
def State.residentAt (s : State) (t asid lgen : Nat) (name : Ltn) : Option Resid := (s.tile t).residFor asid lgen name

/-- Whether the issuing thread's gang, or a gang, has an open stroke (R263). -/
def State.strokeOpen (s : State) (asid lgen : Nat) : Bool :=
  match s.gang? asid lgen with
  | some g => g.strokeOpen
  | none => false

end Sys2Proof.Machine
end

