-- ==== Sys2Proof/Machine/Home.lean ====
section
/-! DEFINITION. What happens at a home: the cache slice, round writes and snapshots, ownership of quarters, full/empty wait lists,
atomics and poison (spec/05_scratchpad.md R103, R108-R118; spec/07_home_memory.md R163-R175; spec/15_resilience.md R332-R336). -/
namespace Sys2Proof.Machine

-- quarters (R106-R110)
/-- Quarter number of a scratchpad key. -/
def quarterOf (pa : Nat) : Nat := scratchOff pa % 98304 / 24576

/-- Owner record fields (R108). -/
def qownV (w : Word) : Bool := w.getLsbD 63
def qownScrub (w : Word) : Bool := w.getLsbD 62
def qownGen (w : Word) : Nat := wbits w 43 28
def qownAsid (w : Word) : Nat := wbits w 27 16

/-- Owner record of a quarter. -/
def Tile.owner (t : Tile) (q : Nat) : Word := assocGet q 0 t.qown

/-- Whether a write of a gang lands in a quarter (R109). -/
def Tile.owns (t : Tile) (q asid lgen : Nat) : Bool :=
  qownV (t.owner q) && qownAsid (t.owner q) = asid && qownGen (t.owner q) = lgen

-- the cache slice (R163-R166)
/-- The line addresses of a range of a vault. -/
def linesOf (v n : Nat) : List Nat := (unitsOf 128 v n).map (· * 128)

/-- An invalid line. -/
def Line.empty : Line := { valid := false, dirty := false, round := none, old := none }

/-- Quarters a gang holds on a tile, for all its logical tiles there (R349). -/
def Tile.quartersOf (t : Tile) (asid lgen : Nat) : Nat :=
  ((t.resid.filter fun r => r.asid = asid && r.lgen = lgen).map fun r => r.quarters.length).sum

/-- Stroke number of a gang (R332). -/
def State.stkOf (s : State) (asid lgen : Nat) : Nat := match s.gang? asid lgen with | some g => g.stk.toNat | none => 0

/-- Add an undo record of a gang (R332): where its ring segments are full, rollback is lost for the stroke (R336).  At a home where the
gang is not resident it has as many segments as quarters elsewhere (log 44). -/
def State.addUndo (s : State) (t key kind addr : Nat) (b : Block) : State :=
  let asid := key / 65536
  let lgen := key % 65536
  let x := s.tile t
  let used := (x.undo.filter fun u => u.asid = asid && u.lgen = lgen).length
  let here := (x.resid? asid lgen).isSome
  let q := if here then x.quartersOf asid lgen else match s.gang? asid lgen with | some g => g.q | none => 0
  let lost := fun (x : Tile) => x.modResid asid lgen fun r => { r with nrb := true }
  if 4096 * q ≤ used then if here then s.modTile t lost else { s with tiles := s.tiles.map fun x => (x.1, lost x.2) }
  else
    let stk := s.stkOf asid lgen
    s.modTile t fun x => { x with undo := x.undo ++ [{ asid := asid, lgen := lgen, stk := stk, kind := kind, addr := addr, block := b }] }

/-- The undo record of a vault line: KIND 0 (R332). -/
def State.pushUndo (s : State) (t key : Nat) (b : Block) : State := s.addUndo t key 0 (keyVault b.base) b

/-- The current commit copy of a gang on a tile for a logical tile (R331). -/
def Tile.commitOf (x : Tile) (asid lgen : Nat) (name : Ltn) : Option Commit :=
  x.commits.find? fun c => c.live && c.asid = asid && c.lgen = lgen && c.ltn = name

/-- An entry of a reserve area leaves it: where the stroke number it carries says that it was written before the current commit point, an undo
record of its kind is made, with the metadata of its place (R332, R334). -/
def State.removeEntry (s : State) (t asid lgen kind addr stk : Nat) (data : List Byte) : State :=
  if s.strokeOpen asid lgen && stk ≠ s.stkOf asid lgen then
    s.addUndo t (gangKey asid lgen) kind addr { s.block (vaultKey t addr) data.length with data := data }
  else s

/-- Undo record of a dirty line's vault contents where its round bit is set, as a write-back makes it (R166, R334). -/
def State.undoLine (s : State) (t : Nat) (l : Line) : State :=
  match l.round, l.old with
  | some key, some b => if l.dirty then s.pushUndo t key b else s
  | _, _ => s

/-- A line that leaves the slice: a dirty one is written back, its undo record made first; a clean one leaves the vault as the vault stands,
which a scrub may have found wrong since the fill (R166, R167). -/
def State.dropLine (s : State) (t : Nat) (l : Line) : State :=
  if l.dirty then s.undoLine t l else match l.old with | some b => s.restore b | none => s

/-- Evict a superblock (R166). -/
def State.evict (s : State) (t : Nat) (x : Super) : State :=
  (x.lines.foldl (fun s l => s.dropLine t l) s).modTile t fun y => { y with slice := y.slice.filter fun z => z.sb ≠ x.sb }

/-- Bytes a store-buffer operation touches. -/
def StOp.size : StOp → Nat
  | .write n _ _ => n
  | .atom _ n _ _ => n
  | .msg _ _ _ _ => 0
  | .event _ _ => 0
  | _ => 8

/-- The bank of a superblock (R164). -/
def superBank (sb : Nat) : Nat := superSet sb % 4

/-- The superblocks of a range of keys, where they lie in a vault. -/
def superblocksOf (pa n : Nat) : List Nat := if isVaultKey pa then (unitsOf 512 (keyVault pa) n) else []

/-- Whether a request queued at a slice still waits there: its packet, its store-buffer entry, its copy or its host request is there, or its
thread is parked for a fill. -/
def State.sliceWaits (s : State) (who : Nat) : Bool :=
  (s.packets.any fun p => p.id = who) ||
  (s.threads.any fun th =>
    (th.id = who && th.loc.inSlot && (match s.gang? th.asid th.lgen with | some g => !g.stopped | none => true) &&
      (match th.park with | some (.fill _ _) => true | _ => false)) ||
    th.sb.any fun x => match x with | .entry q _ _ _ _ _ _ _ => q = who | .marker _ _ => false) ||
  (s.tiles.any fun x => x.2.copies.any fun c => c.id = who) ||
  (s.ports.any fun p => (p.2.held.any fun w => w.id = who) || p.2.ingress.any fun r => r.id = who)

/-- The requests that wait at the slice of a site before those that `who` makes (R164). -/
def State.aheadOf (s : State) (t who : Nat) : List SliceReq :=
  ((s.tile t).sliceq.takeWhile fun r => r.who ≠ who).filter fun r => s.sliceWaits r.who

/-- Whether a bank's bypass queue of 8 is full, so that it takes no new request (R164). -/
def State.bypassFull (s : State) (t bank : Nat) : Bool :=
  decide (8 ≤ ((s.tile t).sliceq.filter fun r => superBank r.sb = bank && s.sliceWaits r.who).length)

/-- Whether a request of `who` for a superblock must wait its turn (R164): one before it is for the same superblock, its set is blocked
by a fill or by an allocation of another superblock that waits there, but for the accesses that held superblocks before it (R165), or the bank
takes no new request. -/
def State.sliceBlocked (s : State) (t who sb : Nat) : Bool :=
  let x := s.tile t
  ((s.aheadOf t who).any fun r => r.sb = sb) ||
  (x.slice.any fun z => z.filling && superSet z.sb = superSet sb) ||
  (x.allocs.any fun a => superSet a.sb = superSet sb && a.sb ≠ sb && !a.ahead.contains who &&
    x.sliceq.any fun r => r.sb = a.sb && s.sliceWaits r.who) ||
  ((x.sliceq.all fun r => r.who ≠ who) && s.bypassFull t (superBank sb))

/-- Where a byte under a window entry has its home: the site and the key, or none for an invalid entry or a name that is not bound
(R381). -/
def State.entryHome (s : State) (d : Word) (o : Nat) : Option (Nat × Nat) :=
  match descType d with
  | 1 =>
    let name := wbits d 50 32
    if (s.binding name).v then let t := s.siteOf name; some (t, vaultKey t (wbits d 12 0 * 16384 + o)) else none
  | 2 =>
    let f := wbits d 50 47 * 128 + wbits d 46 40
    let x := wbits d 31 0 + o / 128
    if (s.zone f).stripeP ≤ x / 16384 then none
    else
      let t := s.siteOf ((s.zone f).lineName f x)
      let v := s.shelfLine f t x + o % 128
      if 2 ^ 27 ≤ v then none else some (t, vaultKey t v)
  | _ => none

/-- The accesses that have reached the bank and hold a superblock (R165): remote operations and proxy requests that have arrived, and host
writes. -/
def State.holders (s : State) (t sb : Nat) : List Nat :=
  (s.packets.filterMap fun p =>
    if p.pos = .arrived t &&
       (match p.body with
        | .store _ _ op _ pa => (superblocksOf pa op.size).contains sb
        | .proxyLoad _ n _ pa => (superblocksOf pa n).contains sb
        | .proxySync _ _ _ pa _ _ => (superblocksOf pa 8).contains sb
        | .proxyFer _ _ pa => (superblocksOf pa 8).contains sb
        | .proxyAtomic _ _ n _ pa _ _ _ => (superblocksOf pa n).contains sb
        | _ => false)
    then some p.id else none) ++
  s.ports.flatMap fun p => p.2.held.filterMap fun w =>
    match s.entryHome w.desc w.off with
    | some (u, pa) => if u = t && (superblocksOf pa w.data.length).contains sb then some w.id else none
    | none => none

/-- Whether a superblock is held (R165); an allocation that waits already is held up only by the accesses that were there before it, since the
later ones of its set wait behind it (log 51). -/
def State.held (s : State) (t new sb : Nat) : Bool :=
  match (s.tile t).allocs.find? fun a => a.sb = new with
  | some a => (s.holders t sb).any a.ahead.contains
  | none => !(s.holders t sb).isEmpty

/-- The way that a new superblock takes: none while its set has room, else the least recently used that is neither held nor filling;
`none` where there is no such way (R165). -/
def State.victimOf (s : State) (t sb : Nat) : Option (Option Super) :=
  let set := (s.tile t).slice.filter fun z => superSet z.sb = superSet sb
  if set.length < 16 then some none
  else ((set.filter fun z => !z.filling && !s.held t sb z.sb).getLast?).map some

/-- Allocate a superblock, its victim evicted (R165, R166). -/
def State.allocate (s : State) (t sb : Nat) (filling : Bool) (victim : Option Super) : State :=
  (match victim with | some v => s.evict t v | none => s).modTile t fun x =>
    { x with slice := { sb := sb, filling := filling, lines := List.replicate 4 .empty } :: x.slice,
             allocs := x.allocs.filter fun a => a.sb ≠ sb }

/-- A slice miss, counted in SLMISS (49) once for each superblock that has to be fetched or allocated (R155, R169). -/
def State.sliceMiss (s : State) (t sb : Nat) : State := if (s.tile t).allocs.any fun a => a.sb = sb then s else s.bump t 49

/-- Start a fill of a superblock: a miss is counted once in SLMISS (49); where no way can be taken, the allocation waits, and where every
way is held SLHOLDW (51) counts it once (R164-R166, R169). -/
def State.startFill (s : State) (t sb : Nat) : State :=
  let entry := (s.tile t).allocs.find? fun a => a.sb = sb
  let s := s.sliceMiss t sb
  match (s.tile t).super? sb with
  | some _ => s.modTile t fun x => { x with slice := x.slice.map fun z => if z.sb = sb then { z with filling := true } else z }
  | none =>
    match s.victimOf t sb with
    | some victim => s.allocate t sb true victim
    | none =>
      let set := (s.tile t).slice.filter fun z => superSet z.sb = superSet sb
      let counted := match entry with | some a => a.counted | none => false
      let ahead := match entry with | some a => a.ahead | none => set.flatMap fun z => s.holders t z.sb
      let full := set.all fun z => s.held t sb z.sb
      let s := if full && !counted then s.bump t 51 else s
      s.modTile t fun x => { x with allocs := { sb := sb, counted := counted || full, ahead := ahead } :: x.allocs.filter fun a => a.sb ≠ sb }

/-- An access that is performed leaves the queue of its bank, and its superblocks become the most recently used (R155, R164). -/
def State.throughSlice (s : State) (who pa n : Nat) : State :=
  match superblocksOf pa n with
  | [] => s
  | sbs => s.modTile (keySite pa) fun x =>
      { x with slice := sbs.foldl (fun l sb => touch (fun (z : Super) => z.sb = sb) l) x.slice,
               sliceq := x.sliceq.filter fun r => r.who ≠ who }

/-- Update one line of a slice. -/
def Tile.modLine (t : Tile) (v : Nat) (f : Line → Line) : Tile :=
  { t with slice := t.slice.map fun z => if z.sb = superOf v then { z with lines := listUpd z.lines (lineNo v) f } else z }

/-- The line of an address, invalid where it is not present. -/
def Tile.line (t : Tile) (v : Nat) : Line :=
  match t.super? (superOf v) with
  | some z => z.lines.getD (lineNo v) .empty
  | none => .empty

/-- A superblock for a line that is written whole, without a fetch (R166): a miss of the slice too (R155). -/
def State.present (s : State) (t v : Nat) : State :=
  match (s.tile t).super? (superOf v), s.victimOf t (superOf v) with
  | none, some victim => (s.sliceMiss t (superOf v)).allocate t (superOf v) false victim
  | _, _ => s

/-- A line as a fetch leaves it: one that was invalid is valid and clean (R166). -/
def Line.fetched (l : Line) : Line := if l.valid then l else { valid := true, dirty := false, round := none, old := none }

/-- Hardware reads or writes a range of a vault by its slice in one step, which takes as long as the fetches need: the superblocks of lines that
it does not write whole are fetched first (R163, R166). -/
def State.fetchFor (s : State) (pa n : Nat) : State :=
  let t := keySite pa
  let v := keyVault pa
  ((linesOf v n).filter fun l => !(decide (v ≤ l) && decide (l + 128 ≤ v + n))).foldl (fun s l =>
    if (s.tile t).lineValid l then s
    else
      let s := if ((s.tile t).super? (superOf l)).isSome then s.sliceMiss t (superOf l) else s.present t l
      s.modTile t fun x => { x with slice := x.slice.map fun z => if z.sb = superOf l then { z with filling := false, lines := z.lines.map Line.fetched } else z }) s

/-- What the slice does before a write of a line (R334), then the line is dirty: `key` is the gang whose stroke the write belongs
to, if any. -/
def State.prepLine (s : State) (t : Nat) (key : Option Nat) (v : Nat) : State :=
  let s := s.present t v
  let l := (s.tile t).line v
  let now := s.block (vaultKey t v) 128
  let s := match key with
    | some k => if l.dirty && l.round ≠ some k then s.pushUndo t k now else s
    | none => s
  s.modTile t fun x => x.modLine v fun l =>
    { l with valid := true, dirty := true, round := match key with | some k => some k | none => l.round,
             old := match l.old with | some b => some b | none => some now }

-- snapshots (R335)
/-- Block number of a scratchpad key. -/
def snapBlock (pa : Nat) : Nat := pa / 1024

/-- Whether a write into a block must wait for its snapshot: the first write of the open stroke of the quarter's owner. -/
def State.needsSnap (s : State) (pa : Nat) : Bool :=
  let x := s.tile (keySite pa)
  let w := x.owner (quarterOf pa)
  qownV w && s.strokeOpen (qownAsid w) (qownGen w) && !(x.snaps.any fun b => b.base = snapBlock pa * 1024)

/-- Copy a block to the snapshot area and set its snap bit. -/
def State.takeSnap (s : State) (blk : Nat) : State :=
  s.modTile (keySite (blk * 1024)) fun x =>
    { x with snaps := x.snaps ++ [s.block (blk * 1024) 1024], snapping := x.snapping.filter (· ≠ blk) }

-- writes
/-- Why a range of a vault cannot be accessed yet by `who`: a superblock that must be filled or waited for (R164). -/
def State.sliceWait (s : State) (who pa n : Nat) (needs : Nat → Bool) : Option Park :=
  let t := keySite pa
  match (linesOf (keyVault pa) n).find? (fun v => needs v || s.sliceBlocked t who (superOf v)) with
  | some v => some (.fill t (superOf v))
  | none => none

/-- Why a write by `who` cannot be performed yet: a line to fill, or for a whole line a way to take, a scrub, or a snapshot to take (R110,
R164, R166, R335). -/
def State.writeWaits (s : State) (who asid lgen pa n : Nat) : Option Park :=
  let t := keySite pa
  let x := s.tile t
  if isVaultKey pa then
    s.sliceWait who pa n fun v =>
      !x.lineValid v &&
      (!(decide (keyVault pa ≤ v) && decide (v + 128 ≤ keyVault pa + n)) ||
       ((x.super? (superOf v)).isNone && (s.victimOf t (superOf v)).isNone))
  else if !x.owns (quarterOf pa) asid lgen then none
  else if qownScrub (x.owner (quarterOf pa)) then some (.scrub (quarterOf pa))
  else if s.needsSnap pa then some (.snapshot (snapBlock pa))
  else none

/-- Why a read by `who` cannot be performed yet.  A read of a quarter that is being scrubbed is served at once, from what the scrub has
not cleared yet: R110 makes only writes wait (log 54). -/
def State.readWaits (s : State) (who pa n : Nat) : Option Park :=
  if isVaultKey pa then s.sliceWait who pa n fun v => !(s.tile (keySite pa)).lineValid v else none

/-- Start what a waiting access of `who` waits for: it joins the queue of its bank while that takes requests, and its superblock is
fetched unless its set is blocked (R164). -/
def State.startWait (s : State) (who : Nat) (p : Park) : State :=
  match p with
  | .fill t sb =>
    let x := s.tile t
    let queued := x.sliceq.any fun r => r.who = who
    if !queued && s.bypassFull t (superBank sb) then s
    else
      let s := if queued || who = 0 then s
        else s.modTile t fun x => { x with sliceq := (x.sliceq.filter fun r => s.sliceWaits r.who) ++ [{ who := who, sb := sb }] }
      if x.slice.any fun z => z.filling && superSet z.sb = superSet sb then s
      else
        match x.super? sb with
        | some z => if z.lines.all (·.valid) then s else s.startFill t sb
        | none => s.startFill t sb
  | .snapshot blk => s.modTile (keySite (blk * 1024)) fun x => { x with snapping := Keys.put x.snapping blk }
  | _ => s

/-- A change of n bytes at a home with its metadata, made for a gang or for none (`noGang`): the round write or
snapshot first, then the change; a write into a quarter that its gang does not own is dropped and counted in SPDROP (44). -/
def State.change (s : State) (asid lgen pa n : Nat) (f : State → State) : State :=
  let t := keySite pa
  if isVaultKey pa then
    let key := if s.strokeOpen asid lgen then some (gangKey asid lgen) else none
    f ((linesOf (keyVault pa) n).foldl (fun s v => s.prepLine t key v) s)
  else if !(s.tile t).owns (quarterOf pa) asid lgen then s.bump t 44
  else f (if s.needsSnap pa then s.takeSnap (snapBlock pa) else s)

/-- Bytes written at a home, with the granule's tag set for a tagged `stc` (R112). -/
def State.put (s : State) (asid lgen pa : Nat) (bs : List Byte) (tag : Bool) : State :=
  s.change asid lgen pa bs.length fun s => let s := s.poke pa bs; if tag then s.setTag pa true else s

/-- Bytes that service firmware or hardware writes into a vault for no gang, through the slice (R163, R166). -/
def State.writeVault (s : State) (pa : Nat) (bs : List Byte) : State := (s.fetchFor pa bs.length).put noGang 0 pa bs false

-- another thread acts
/-- Run a change as another thread: it becomes the issuing thread for it. -/
def State.onThread (s : State) (id : Nat) (f : State → State) : State :=
  if s.thr.id = id then f s
  else if s.others.any (fun th => th.id = id) then (f (s.focus id)).focus s.thr.id
  else s

-- full/empty wait lists (R115, R116)
/-- Whether a waiter's condition holds: `sts` waits for empty, `lds`, `ldk` and `join` for full (R114, R238). -/
def State.eligible (s : State) (w : Waiter) : Bool := if w.op = 2 then !s.fullAt w.pa else s.fullAt w.pa

/-- Complete a parked synchronising instruction of a thread: its result, then it retires `len` bytes on. -/
def State.finishSync (s : State) (id : Nat) (d : RegNo) (v : Option Word) (len : Nat) : State :=
  s.onThread id fun s =>
    let s := match v with | some x => s.setX d x | none => s
    s.retireTo (s.pc + BitVec.ofNat 48 len)

/-- Send the response of a proxy request from a home (R118, R173, R206). -/
def State.respond (s : State) (t : Nat) (own dst : Ltn) (asid lgen th req status : Nat) (data : Quad) (tag : Bool) (va : VAddr) : State :=
  s.send t own dst asid lgen (.response th req status data tag (status = 1) va)

/-- Serve or answer a waiter: `status` 0 with a value, 1 for poison, 4 for the retry limit (R116, R118, R124). -/
def State.answer (s : State) (w : Waiter) (status : Nat) (v : Word) : State :=
  match w.proxy with
  | some req => s.respond (keySite w.pa) w.name w.src w.asid w.lgen w.th req status (v.setWidth 128) false w.va
  | none =>
    match status with
    | 0 => s.finishSync w.th w.d (if w.op < 2 then some v else none) w.len
    | 1 => s.onThread w.th fun s => s.takeTrap 0x0A (w.va.setWidth 64)
    | _ => s.onThread w.th fun s => s.takeTrap 0x0B (w.va.setWidth 64)

/-- Identity of a waiter: its thread and request. -/
def Waiter.same (a b : Waiter) : Bool := a.th = b.th && a.proxy = b.proxy

/-- Remove a waiter from its list. -/
def State.unlist (s : State) (w : Waiter) : State :=
  s.modTile (keySite w.pa) fun x => { x with waiters := x.waiters.filter fun o => !o.same w }

/-- After a change of a word's state: every waiter whose condition held and no longer holds loses a race, and on the 64th it is
removed and traps (R116). -/
def State.loseRaces (before : State) (s : State) (pa : Nat) : State :=
  let t := keySite pa
  let lost := fun (w : Waiter) => decide (w.pa = pa) && before.eligible w && !s.eligible w
  let s := s.modTile t fun x => { x with waiters := x.waiters.map fun w => if lost w then { w with races := w.races + 1 } else w }
  ((s.tile t).waiters.filter fun w => w.pa = pa && decide (64 ≤ w.races)).foldl (fun s w => (s.unlist w).answer w 4 0) s

/-- Serve one waiter: its effect on the word, its removal, its answer (R115, R124). -/
def State.serve (s : State) (w : Waiter) : State :=
  let s := s.unlist w
  if w.op < 2 && s.poisoned w.pa 8 then s.answer w 1 0
  else
    let v := BitVec.ofNat 64 (s.nat w.pa 8)
    let after :=
      match w.op with
      | 0 => s.change w.asid w.lgen w.pa 8 fun s => s.setFull w.pa false
      | 2 => s.change w.asid w.lgen w.pa 8 fun s => (s.poke w.pa (bytesOf 8 w.data.toNat)).setFull w.pa true
      | _ => s
    (State.loseRaces s after w.pa).answer w 0 v

/-- Apply R115 to a word: serve the oldest waiter whose condition holds until none does; each round removes one. -/
def State.serveWord (pa : Nat) : Nat → State → State
  | 0, s => s
  | n + 1, s =>
    match (s.tile (keySite pa)).waiters.find? fun w => w.pa = pa && s.eligible w with
    | none => s
    | some w => State.serveWord pa n (s.serve w)

/-- R115 at a word. -/
def State.wake (s : State) (pa : Nat) : State := State.serveWord pa ((s.tile (keySite pa)).waiters.length) s

/-- A full/empty bit written, then R115. -/
def State.putFull (s : State) (asid lgen pa : Nat) (v : Bool) : State :=
  (s.change asid lgen pa 8 fun s => s.setFull pa v).wake (pa / 8 * 8)

-- atomics (R171-R173)
/-- F(old, B) of an atomic of n bytes (R171). -/
def AOp.apply (op : AOp) (n : Nat) (old b cmp : Nat) : Nat :=
  let m := 2 ^ (8 * n)
  let sg := fun (x : Nat) => if m / 2 ≤ x then (x : Int) - m else x
  match op with
  | .add => (old + b) % m
  | .or => Nat.lor old b
  | .and => Nat.land old b
  | .xor => Nat.xor old b
  | .min => if sg b < sg old then b else old
  | .minu => if b < old then b else old
  | .max => if sg old < sg b then b else old
  | .maxu => if old < b then b else old
  | .addf => addF32 old b
  | .swp => b
  | .cas => if old = cmp then b else old
  | .dec => (old + (m - 1)) % m

/-- Whether an atomic writes its word: a failed `fcas` does not (R173). -/
def AOp.writes (op : AOp) (old cmp : Nat) : Bool := !(op = .cas && old ≠ cmp)

/-- An atomic performed at its home: the old value, and the word written (R170). -/
def State.atomic (s : State) (asid lgen pa n : Nat) (op : AOp) (b cmp : Nat) : Nat × State :=
  let old := s.nat pa n
  (old, if op.writes old cmp then s.put asid lgen pa (bytesOf n (op.apply n old b cmp)) false else s)

/-- Whether an operation reads its word, so that poison stops it even where it is local (R171, R236). -/
def StOp.reads : StOp → Bool
  | .atom _ _ _ _ => true
  | .dec => true
  | _ => false

/-- A store-buffer operation performed at its home: its status, 0 performed or 1 poisoned, where an atomic, the decrement and
every remote store leave memory unchanged (R171, R174, R236), and the state.  R174 does not say whether a remote `fes` is such a store: the model
performs it on a poisoned sector, as its own tile would (DESIGN CHOICE, log 51). -/
def State.perform (s : State) (asid lgen pa : Nat) (op : StOp) (remote : Bool) : Nat × State :=
  if (remote || op.reads) && s.poisoned pa op.size && (match op with | .fes _ => false | _ => true) then (1, s)
  else
    match op with
    | .write n data tag => (0, s.put asid lgen pa (bytesOf n data.toNat) tag)
    | .fes full => (0, s.putFull asid lgen pa full)
    | .jinit v =>
      (0, (s.change asid lgen pa 8 fun s => (s.poke pa (bytesOf 8 v.toNat)).setFull pa (v = 0)).wake pa)
    | .atom a n b _ => (0, (s.atomic asid lgen pa n a (b.toNat % 2 ^ (8 * n)) 0).2)
    | .dec =>
      let old := s.nat pa 8
      let new := bytesOf 8 (AOp.dec.apply 8 old 0 0)
      (0, if old = 1 then (s.change asid lgen pa 8 fun s => (s.poke pa new).setFull pa true).wake (pa / 8 * 8) else s.put asid lgen pa new false)
    | .msg _ _ _ _ => (0, s)
    | .event _ _ => (0, s)

/-- Poison consumed by an operation whose thread does not trap (R174): the rollback policy, or 0x0A at the issuing tile. -/
def State.consumedBy (s : State) (t asid lgen : Nat) (va : VAddr) : State :=
  match s.gang? asid lgen with
  | some g =>
    if g.rb then
      s.consumePoison asid lgen t (va.setWidth 64)
    else s.report t 0x0A asid lgen (va.setWidth 64)
  | none => s.report t 0x0A asid lgen (va.setWidth 64)

-- the bell network (R258)
/-- Whether an announced atomic of a home stands first and its window has been delivered (R258). -/
def State.bellReady (s : State) (ref pa : Nat) : Bool :=
  match s.anns.find? fun a => a.ref = ref with
  | none => true
  | some a =>
    decide (a.w < s.bellDone) &&
    !(s.anns.any fun b => keySite b.pa = keySite pa && (b.w < a.w || (b.w = a.w && b.pos < a.pos)))

/-- Whether a core may still announce in the current window (R258). -/
def State.mayAnnounce (s : State) (t core : Nat) : Bool := ((s.tile t).core core).bellLast ≠ some s.bellWin

/-- Announce an SC atomic of a core in the current window, counted in SCANN (75) (R258, R265). -/
def State.announce (s : State) (t core : Nat) (own : Ltn) (ref pa : Nat) : State :=
  let a : Ann := { w := s.bellWin, pos := own * 8 + core, pa := pa, ref := ref }
  (({ s with anns := s.anns ++ [a] } : State).bump t 75).modCore t core fun c => { c with bellLast := some s.bellWin }

/-- An announced atomic has been performed. -/
def State.bellPerformed (s : State) (ref : Nat) : State := { s with anns := s.anns.filter fun a => a.ref ≠ ref }

end Sys2Proof.Machine
end

