-- ==== Sys2Proof/Machine/Buffer.lean ====
section
/-! DEFINITION. The store buffer, remote operations and their acknowledgements, migration and proxies as memory instructions use them
(spec/05_scratchpad.md R118-R120; spec/07_home_memory.md R170, R174; spec/09_contexts_fabric.md R195, R203-R206;
spec/11_ordering.md R253-R258). -/
namespace Sys2Proof.Machine

/-- The field of a home: a tile's, or its host bridge's (R254, R417). -/
def Home.field : Home → Nat
  | .tile _ _ name => ltnField name
  | .host port _ => bridgeField port

/-- Whether two homes are the same tile or the same bridge. -/
def Home.sameUnit : Home → Home → Bool
  | .tile _ _ a, .tile _ _ b => a = b
  | .host a _, .host b _ => a = b
  | _, _ => false

/-- Whether a home lies in Σ(S, t), with t the tile a thread is on (R254). -/
def inScope (own : Ltn) (sc : Scope) (h : Home) : Bool :=
  match sc with
  | .tile => (match h with | .tile _ _ name => name = own | .host _ _ => false)
  | .field => h.field = ltnField own
  | .module => h.field / 128 = ltnModule own
  | .system => true

/-- Entries that have not left the buffer. -/
def unsent (sb : List SbItem) : Nat :=
  (sb.filter fun x => match x with | .entry _ _ _ _ _ _ _ none => true | _ => false).length

/-- Entries that have left and are not acknowledged (R170). -/
def unacked (sb : List SbItem) : Nat :=
  (sb.filter fun x => match x with | .entry _ _ _ _ _ _ _ (some _) => true | _ => false).length

/-- Whether no entry is left, sent or unsent: a complete drain (R120, R196). -/
def drained (sb : List SbItem) : Bool :=
  sb.all fun x => match x with | .entry _ _ _ _ _ _ _ _ => false | .marker _ _ => true

/-- Whether every entry whose home lies in a scope has been acknowledged (R257). -/
def ackedIn (own : Ltn) (sc : Scope) (sb : List SbItem) : Bool :=
  sb.all fun x => match x with | .entry _ _ _ h _ _ _ _ => !inScope own sc h | .marker _ _ => true

/-- Whether the entry of a number has been acknowledged. -/
def entryGone (seq : Nat) (sb : List SbItem) : Bool :=
  sb.all fun x => match x with | .entry q _ _ _ _ _ _ _ => q ≠ seq | .marker _ _ => true

/-- Gang threads leave their tile for a load's home; service cores, stewards and pinned threads do not (R180, R204, R205). -/
def Thread.mayMigrate (th : Thread) : Bool :=
  !th.pinned && (match th.kind with | .gang => true | .handler _ => true | _ => false)

/-- A set of registers, as the bits of CARRY. -/
def regSet (rs : List RegNo) : BitVec 16 := rs.foldl (fun m r => m ||| ((1 : BitVec 16) <<< r.toNat)) 0

/-- Migrate (R8, R196): the thread parks until it is drained, and MIGRATION_DEPARTURE sends its context; `rs` are the registers
the instruction reads, which travel whatever CARRY holds (R197). -/
def State.migrateTo (s : State) (dst : Ltn) (rs : List RegNo) : State := s.boundary fun s => s.parkOn (.migrate dst (regSet rs))

/-- Whether a remote operation to X makes its thread migrate instead (R203). -/
def Thread.overThreshold (th : Thread) (x : Ltn) : Bool :=
  th.mayMigrate && th.migt ≠ 0 && decide (th.rhome = x) && decide (th.rcnt = th.migt.toNat)

/-- A remote operation to X counted toward MIGT, once for each operation that is made (R203).  The rule does not say what MC does past 255, where
MIGT is 0 or is lowered while MC is above it: the model counts on, and a context keeps the count modulo 256 (DESIGN CHOICE, log 38). -/
def Thread.countRemote (th : Thread) (x : Ltn) : Thread :=
  if !th.mayMigrate then th else if th.rhome = x then { th with rcnt := th.rcnt + 1 } else { th with rhome := x, rcnt := 1 }

/-- Address and data bytes of a store-buffer entry as the fingerprint folds them (R353). -/
def StOp.foldBytes (op : StOp) (va : VAddr) : List Byte :=
  bytesOf 8 va.toNat ++
  (match op with
   | .write n d _ => bytesOf n d.toNat
   | .jinit v => bytesOf 8 v.toNat
   | .atom _ n b _ => bytesOf n b.toNat
   | .msg _ _ _ d => bytesOf 32 d.toNat
   | _ => [])

/-- Whether an entry leaves in a packet whatever its destination (R241, R314). -/
def StOp.alwaysSent : StOp → Bool
  | .msg _ _ _ _ => true
  | .event _ _ => true
  | _ => false

/-- Make a store-buffer entry and go on with its number: a full buffer, or 32 unacknowledged remote operations, parks the thread
(R120, R155). -/
def State.enter (s : State) (op : StOp) (va : VAddr) (h : Home) (o : Order) (sc : Scope) (k : State → Nat → State) : State :=
  if 8 ≤ unsent s.thr.sb then s.boundary fun s => s.parkOn .storeFull
  else if (s.isRemote h || op.alwaysSent) && decide (32 ≤ unacked s.thr.sb) then s.parkOn .unacked
  else
    let (seq, s) := s.fresh
    k (s.withThr fun th =>
        { th.fold (op.foldBytes va) with sb := th.sb ++ [.entry seq op va h (inWindow va) o sc none] }) seq

/-- Hold the thread, after its instruction retires, until the entry is acknowledged (R257); where the instruction has ended a tandem interval,
once that has been compared (R354). -/
def State.holdUntil (s : State) (hold : Bool) (seq : Nat) : State :=
  if hold then s.withThr fun th => match th.park with
    | some .follower => { th with after := some (.storeAcked seq) }
    | some _ => th
    | none => { th with park := some (.storeAcked seq) }
  else s

/-- Steps 9 and 10 of a store: a remote tile counts toward MIGT, then the entry is made (R203, R121). -/
def State.storeTo (s : State) (op : StOp) (va : VAddr) (h : Home) (o : Order) (sc : Scope) (rs : List RegNo)
    (k : State → Nat → State) : State :=
  match h with
  | .tile _ _ name =>
    if name = s.thr.ltn then s.enter op va h o sc k
    else if s.thr.overThreshold name then s.migrateTo name rs
    else s.enter op va h o sc fun s seq => k (s.withThr fun th => th.countRemote name) seq
  | .host _ _ => s.enter op va h o sc k

-- forwarding (R120)
/-- Whether an entry's bytes touch a range of a tile's memory. -/
def SbItem.overlaps (pa n : Nat) : SbItem → Bool
  | .entry _ op _ (.tile _ q _) _ _ _ _ => decide (q < pa + n) && decide (pa < q + op.size)
  | _ => false

/-- Whether an entry's bytes touch a range of host memory. -/
def SbItem.overlapsHost (port hpa n : Nat) : SbItem → Bool
  | .entry _ op _ (.host p q) _ _ _ _ => p = port && decide (q < hpa + n) && decide (hpa < q + op.size)
  | _ => false

/-- An entry whose data a load cannot take: an atomic not yet performed. -/
def SbItem.isAtomic : SbItem → Bool
  | .entry _ (.atom _ _ _ _) _ _ _ _ _ _ => true
  | _ => false

/-- Number of an entry. -/
def SbItem.seq : SbItem → Nat
  | .entry q _ _ _ _ _ _ _ => q
  | .marker _ _ => 0

/-- The data an entry writes, with its key and tag. -/
def SbItem.data : SbItem → Option (Nat × List Byte × Bool)
  | .entry _ (.write n d tag) _ (.tile _ q _) _ _ _ _ => some (q, bytesOf n d.toNat, tag)
  | .entry _ (.jinit v) _ (.tile _ q _) _ _ _ _ => some (q, bytesOf 8 v.toNat, false)
  | _ => none

/-- The youngest buffered byte at a key, if any. -/
def forwardByte (sb : List SbItem) (a : Nat) : Option Byte :=
  sb.foldl (fun r x =>
    match x.data with
    | some (q, bs, _) => if q ≤ a then (match bs[a - q]? with | some b => some b | none => r) else r
    | none => r) none

/-- The tag of a granule as the buffer leaves it. -/
def forwardTag (sb : List SbItem) (pa : Nat) (tag : Bool) : Bool :=
  sb.foldl (fun r x =>
    match x.data with
    | some (q, bs, t) => if q < pa + 16 && pa < q + bs.length then t else r
    | none => r) tag

/-- Keys of a range that memory supplies, the rest being forwarded. -/
def fromMemory (sb : List SbItem) (pa n : Nat) : List Nat :=
  ((List.range n).map (· + pa)).filter fun a => (forwardByte sb a).isNone

/-- The bytes a load reads: forwarded ones first (R120, R121). -/
def State.loadBytes (s : State) (pa n : Nat) : List Byte :=
  (List.range n).map fun i => (forwardByte s.thr.sb (pa + i)).getD (Memory.get s.mem (pa + i))

/-- Whether a byte read from memory lies in a poisoned sector (R113, R121). -/
def State.loadPoisoned (s : State) (pa n : Nat) : Bool := (fromMemory s.thr.sb pa n).any s.psnAt

-- waiting on a home's machinery
/-- Start what the access waits for and park on it. -/
def State.waitOn (s : State) (p : Park) : State := (s.startWait s.thr.id p).parkOn p

/-- Go on once a read of a range can be performed. -/
def State.whenReadable (s : State) (pa n : Nat) (k : State → State) : State :=
  match s.readWaits s.thr.id pa n with
  | some p => s.waitOn p
  | none => k (s.throughSlice s.thr.id pa n)

/-- Go on once a write of a range can be performed. -/
def State.whenWritable (s : State) (pa n : Nat) (k : State → State) : State :=
  match s.writeWaits s.thr.id s.thr.asid s.thr.lgen pa n with
  | some p => s.waitOn p
  | none => k (s.throughSlice s.thr.id pa n)

/-- Go on once the store buffer is drained (R120). -/
def State.whenDrained (s : State) (k : State → State) : State := if drained s.thr.sb then k s else s.parkOn .drain

/-- An SC load waits until every earlier entry homed in its scope is acknowledged (R257). -/
def State.whenOrdered (s : State) (o : Order) (sc : Scope) (k : State → State) : State :=
  if o = .sc && !ackedIn s.thr.ltn sc s.thr.sb then s.parkOn (.acked sc) else k s

/-- Send a request of a pinned thread, or a host load, and park for its response (R118, R173, R206). -/
def State.sendProxy (s : State) (dst : Ltn) (body : Payload) (w : Await) : State :=
  (s.send s.tileNo s.thr.ltn dst s.thr.asid s.thr.lgen body).parkOn (.proxy s.nextId w)

/-- A pinned load waits until no store-buffer entry overlaps its bytes and each overlapping one is acknowledged (R206). -/
def State.whenNoOverlap (s : State) (t : SbItem → Bool) (k : State → State) : State :=
  match s.thr.sb.find? t with
  | some x => s.parkOn (.storeAcked x.seq)
  | none => k s

end Sys2Proof.Machine
end

