-- ==== Sys2Proof/Machine/LoadStore.lean ====
section
/-! DEFINITION. Loads, stores and synchronising instructions (spec/05_scratchpad.md R119-R127,
spec/07_home_memory.md R176). -/
namespace Sys2Proof.Machine

/-- The result of a load of n bytes (R121): 16 bytes whole and untagged, fewer zero-extended. -/
def State.setLoaded (s : State) (d : RegNo) (n : Nat) (v : Nat) : State :=
  if n = 16 then s.setReg d { tag := false, bits := BitVec.ofNat 128 v } else s.setX d (BitVec.ofNat 64 v)

/-- Move the cursor of a register (R122). -/
def State.bumpCursor (s : State) (inc : Option (RegNo × Word)) : State :=
  match inc with
  | some (a, v) => s.setReg a ((s.reg a).at v)
  | none => s

/-- A load at its home on this tile (R121, R123): poison, data with forwarding, the tag of an `ldc`. -/
def State.loadHere (s : State) (pg : Nat) (p : Pfx) (d : RegNo) (n pa : Nat) (va : VAddr) (cap : Option Bool)
    (inc : Option (RegNo × Word)) : State :=
  let go := fun (s : State) =>
    if s.loadPoisoned pa n then s.takeTrap 0x0A (va.setWidth 64)
    else
      let v := ofBytes (s.loadBytes pa n)
      let s := match cap with
        | none => s.setLoaded d n v
        | some lc => s.setReg d { tag := forwardTag s.thr.sb pa (s.tagAt pa) && lc, bits := BitVec.ofNat 128 v }
      (s.bumpCursor inc).retire pg p
  s.whenNoOverlap (fun x => x.overlaps pa n && x.isAtomic) fun s =>
    if (fromMemory s.thr.sb pa n).isEmpty then go s else s.whenReadable pa n go

/-- A load (R121-R123): `cap` is LC for an `ldc`, `inc` the register and increment of an `ldp`. -/
def loadOp (pg : Nat) (p : Pfx) (d a : RegNo) (n : Nat) (off : Word) (o : Order) (sc : Scope) (cap : Bool)
    (inc : Option (RegNo × Word)) (s : State) : Out :=
  if !s.guardHolds p then .next (s.retire pg p)
  else
    s.withAddr ((s.reg a).at off) n permR fun s va =>
      s.withHome va n 0 false .open fun s h =>
        .next (s.whenOrdered o sc fun s =>
          let lc := if cap then some ((s.reg a).can permLC) else none
          let w : Await := { d := d, how := if cap then (if (s.reg a).can permLC then 2 else 1) else if n = 16 then 1 else 0,
                             pd := 0, inc := inc, len := instrBytes pg p }
          match h with
          | .host port hpa =>
            s.whenNoOverlap (SbItem.overlapsHost port hpa n) fun s =>
              s.sendProxy (bridgeName port) (.hostLoad s.thr.id n va port hpa) w
          | .tile _ pa name =>
            if name = s.thr.ltn then s.loadHere pg p d n pa va lc inc
            else if s.thr.mayMigrate then s.migrateTo name [a]
            else s.whenNoOverlap (SbItem.overlaps pa n) fun s => s.sendProxy name (.proxyLoad s.thr.id n va pa) w)

/-- A store (R121-R123). -/
def storeOp (pg : Nat) (p : Pfx) (d a : RegNo) (n : Nat) (off : Word) (o : Order) (sc : Scope) (cap : Bool)
    (inc : Option (RegNo × Word)) (s : State) : Out :=
  if !s.guardHolds p then .next (s.retire pg p)
  else
    let tag := cap && (s.reg d).tag
    let perm := if tag then permW ||| permSC else permW
    s.withAddr ((s.reg a).at off) n perm fun s va =>
      s.withHome va n 1 true { host := tag, loc := tag && (s.reg d).can permLOC && !inWindow va } fun s h =>
        .next (s.storeTo (.write n (s.reg d).bits tag) va h o sc [d, a] fun s seq =>
          ((s.bumpCursor inc).retire pg p).holdUntil (o = .sc) seq)

/-- Scale an immediate (R34). -/
def scaled (imm : Word) (k : Nat) : Word := imm * BitVec.ofNat 64 k

/-- `ld.b` (R121). -/
def execLdB (p : Pfx) (d a : RegNo) (imm : Word) (o : Order) (sc : Scope) (s : State) : Out := loadOp 0 p d a 1 (scaled imm 1) o sc false none s
/-- `ld.h` (R121). -/
def execLdH (p : Pfx) (d a : RegNo) (imm : Word) (o : Order) (sc : Scope) (s : State) : Out := loadOp 0 p d a 2 (scaled imm 2) o sc false none s
/-- `ld.w` (R121). -/
def execLdW (p : Pfx) (d a : RegNo) (imm : Word) (o : Order) (sc : Scope) (s : State) : Out := loadOp 0 p d a 4 (scaled imm 4) o sc false none s
/-- `ld.d` (R121). -/
def execLdD (p : Pfx) (d a : RegNo) (imm : Word) (o : Order) (sc : Scope) (s : State) : Out := loadOp 0 p d a 8 (scaled imm 8) o sc false none s
/-- `ld.q` (R121). -/
def execLdQ (p : Pfx) (d a : RegNo) (imm : Word) (o : Order) (sc : Scope) (s : State) : Out := loadOp 0 p d a 16 (scaled imm 16) o sc false none s
/-- `st.b` (R121). -/
def execStB (p : Pfx) (d a : RegNo) (imm : Word) (o : Order) (sc : Scope) (s : State) : Out := storeOp 0 p d a 1 (scaled imm 1) o sc false none s
/-- `st.h` (R121). -/
def execStH (p : Pfx) (d a : RegNo) (imm : Word) (o : Order) (sc : Scope) (s : State) : Out := storeOp 0 p d a 2 (scaled imm 2) o sc false none s
/-- `st.w` (R121). -/
def execStW (p : Pfx) (d a : RegNo) (imm : Word) (o : Order) (sc : Scope) (s : State) : Out := storeOp 0 p d a 4 (scaled imm 4) o sc false none s
/-- `st.d` (R121). -/
def execStD (p : Pfx) (d a : RegNo) (imm : Word) (o : Order) (sc : Scope) (s : State) : Out := storeOp 0 p d a 8 (scaled imm 8) o sc false none s
/-- `st.q` (R121). -/
def execStQ (p : Pfx) (d a : RegNo) (imm : Word) (o : Order) (sc : Scope) (s : State) : Out := storeOp 0 p d a 16 (scaled imm 16) o sc false none s
/-- `ldp` (R122): d = a is refused as check 5 of R39, before the guard. -/
def execLdp (p : Pfx) (d a : RegNo) (imm : Word) (o : Order) (sc : Scope) (s : State) : Out :=
  if d = a then .next (s.illegal (.ldp p d a imm o sc)) else loadOp 0 p d a 8 0 o sc false (some (a, scaled imm 8)) s
/-- `stp` (R122). -/
def execStp (p : Pfx) (d a : RegNo) (imm : Word) (o : Order) (sc : Scope) (s : State) : Out :=
  storeOp 0 p d a 8 0 o sc false (some (a, scaled imm 8)) s
/-- `ldc` (R123). -/
def execLdc (p : Pfx) (d a : RegNo) (imm : Word) (o : Order) (sc : Scope) (s : State) : Out := loadOp 1 p d a 16 (scaled imm 16) o sc true none s
/-- `stc` (R123). -/
def execStc (p : Pfx) (d a : RegNo) (imm : Word) (o : Order) (sc : Scope) (s : State) : Out := storeOp 1 p d a 16 (scaled imm 16) o sc true none s

/-- A synchronising operation joins its word's wait list, and R115 is applied (R115, R124). -/
def State.joinWord (s : State) (pa : Nat) (name : Ltn) (op : Nat) (d : RegNo) (data : Word) (va : VAddr) (len : Nat) : State :=
  let th := s.thr
  let w : Waiter := { pa := pa, th := th.id, proxy := none, op := op, d := d, data := data, va := va, page := s.pageKey va, races := 0, len := len,
                      src := th.ltn, name := name, asid := th.asid, lgen := th.lgen }
  ((s.parkOn (.sync pa)).modTile (keySite pa) fun x => { x with waiters := x.waiters ++ [w] }).wake pa

/-- A synchronising instruction (R124, R238): 0 `lds`, 1 `ldk`, 2 `sts`, 3 `join`. -/
def syncOp (p : Pfx) (d a : RegNo) (off : Word) (op : Nat) (s : State) : Out :=
  if !s.guardHolds p then .next (s.retire 1 p)
  else if s.thr.intervalOpen then .next (s.parkOn .follower)
  else
    let writes := op = 0 || op = 2
    s.withAddr ((s.reg a).at off) 8 (if op = 2 then permW ||| permSYN else permR ||| permSYN) fun s va =>
      s.withHome va 8 2 writes { host := true, loc := false } fun s h =>
        .next (s.whenDrained fun s =>
          let data := s.x d
          match h with
          | .host _ _ => s
          | .tile _ pa name =>
            if name = s.thr.ltn then
              (if writes then s.whenWritable pa 8 else s.whenReadable pa 8) fun s => s.joinWord pa name op d data va (instrBytes 1 p)
            else if s.thr.mayMigrate then s.migrateTo name (if op = 2 then [a, d] else [a])
            else
              s.sendProxy name (.proxySync s.thr.id op va pa data s.thr.races)
                { d := d, how := if op < 2 then 0 else 4, pd := 0, inc := none, len := instrBytes 1 p })

/-- `lds` (R124). -/
def execLds (p : Pfx) (d a : RegNo) (imm : Word) (_o : Order) (_sc : Scope) (s : State) : Out := syncOp p d a (scaled imm 8) 0 s
/-- `ldk` (R124). -/
def execLdk (p : Pfx) (d a : RegNo) (imm : Word) (_o : Order) (_sc : Scope) (s : State) : Out := syncOp p d a (scaled imm 8) 1 s
/-- `sts` (R124). -/
def execSts (p : Pfx) (d a : RegNo) (imm : Word) (_o : Order) (_sc : Scope) (s : State) : Out := syncOp p d a (scaled imm 8) 2 s
/-- `join` (R238). -/
def execJoin (p : Pfx) (a : RegNo) (s : State) : Out := syncOp p 0 a 0 3 s

/-- A store-like operation of 8 bytes at the cursor with W and SYN (R125, R237). -/
def synStore (p : Pfx) (a : RegNo) (rs : List RegNo) (op : State → StOp) (s : State) : Out :=
  if !s.guardHolds p then .next (s.retire 1 p)
  else
    s.withAddr (s.reg a) 8 (permW ||| permSYN) fun s va =>
      s.withHome va 8 2 true { host := true, loc := false } fun s h =>
        .next (s.storeTo (op s) va h .plain .tile (a :: rs) fun s _ => s.retire 1 p)

/-- `fes.full`, `fes.empty` (R125). -/
def execFes (p : Pfx) (a : RegNo) (full : Bool) (s : State) : Out := synStore p a [] (fun _ => .fes full) s
/-- `jinit` (R237). -/
def execJinit (p : Pfx) (a b : RegNo) (s : State) : Out := synStore p a [b] (fun s => .jinit (s.x b)) s

/-- `fer` (R126): the state sampled once at the home; a remote home is read by proxy. -/
def execFer (p : Pfx) (pd : PredNo) (a : RegNo) (_o : Order) (_sc : Scope) (s : State) : Out :=
  if !s.guardHolds p then .next (s.retire 1 p)
  else if s.thr.intervalOpen then .next (s.parkOn .follower)
  else
    s.withAddr (s.reg a) 8 (permR ||| permSYN) fun s va =>
      s.withHome va 8 2 false { host := true, loc := false } fun s h =>
        .next (s.whenDrained fun s =>
          match h with
          | .host _ _ => s
          | .tile _ pa name =>
            if name = s.thr.ltn then s.whenReadable pa 8 fun s => (s.setPred pd (s.fullAt pa)).retire 1 p
            else s.sendProxy name (.proxyFer s.thr.id va pa)
                   { d := 0, how := 3, pd := pd, inc := none, len := instrBytes 1 p })

/-- What `home` answers for a home (R176). -/
def homeWord (h : Home) : Word :=
  match h with
  | .tile _ _ name => BitVec.ofNat 64 name
  | .host port _ => 0x8000000000000000 ||| BitVec.ofNat 64 (port % 4)

/-- Tag and bounds of one byte at the cursor, without permission or alignment (R176). -/
def checkByte (r : Reg) : Except TrapVal VAddr :=
  let v := r.cursor
  if !r.tag then .error (0x03, 0)
  else if v.toNat < r.base || r.limit < v.toNat + 1 then .error (0x04, v.setWidth 64)
  else .ok v

/-- The name of the home of a checked byte, or its port (R176, R222): for a STRIPED page the place of the line on its home tile is not
looked for, and the key is 0. -/
def State.withByteHome (s : State) (a : RegNo) (k : State → VAddr → Home → Out) : Out :=
  match checkByte (s.reg a) with
  | .error (cause, value) => .next (s.takeTrap cause value)
  | .ok va =>
    if inWindow va then s.withHome va 1 0 false .open fun s h => k s va h
    else
      match s.lookup s.tileNo s.coreNo s.accessAsid va.toNat with
      | (none, s) => .next (s.tlbMiss 0 s.accessAsid va)
      | (some e, s) =>
        if descType e.2 = 2 then
          let f := wbits e.2 50 47 * 128 + wbits e.2 46 40
          let x := wbits e.2 31 0 + pageOffset e va / 128
          if (s.zone f).stripeP ≤ x / 16384 then .next (s.pageFault va)
          else s.withName ((s.zone f).lineName f x) fun s t => k s va (.tile t 0 ((s.zone f).lineName f x))
        else s.homeUnder e va false .open fun s h => k s va h

/-- `home` (R176). -/
def execHome (p : Pfx) (d a : RegNo) (s : State) : Out :=
  if !s.guardHolds p then .next (s.retire 1 p)
  else s.withByteHome a fun s _ h => .next ((s.setX d (homeWord h)).retire 1 p)

end Sys2Proof.Machine
end

