-- ==== Sys2Proof/Machine/Atomic.lean ====
section
/-! DEFINITION. Atomics, fences, pinning and `migr` (spec/07_home_memory.md R170-R175, R178; spec/09_contexts_fabric.md R222, R223;
spec/11_ordering.md R257-R260). -/
namespace Sys2Proof.Machine

/-- Bytes of an atomic: 4 for `.w`, 8 otherwise (R170). -/
def atomicSize (w : Bool) : Nat := if w then 4 else 8

/-- A fire-and-forget atomic (R170, R171, R257): a store-buffer entry; acquire and SC hold the thread until it is acknowledged. -/
def fireOp (op : AOp) (p : Pfx) (a b : RegNo) (w : Bool) (o : Order) (sc : Scope) (s : State) : Out :=
  if !s.guardHolds p then .next (s.retire 1 p)
  else
    let n := atomicSize w
    s.withAddr (s.reg a) n (permW ||| permATM) fun s va =>
      s.withHome va n 3 true { host := true, loc := false } fun s h =>
        .next (s.storeTo (.atom op n (s.x b) (o = .sc)) va h o sc [a, b] fun s seq =>
          (s.retire 1 p).holdUntil (o = .acquire || o = .sc) seq)

/-- `aadd` (R171). -/
def execAadd (p : Pfx) (a b : RegNo) (w : Bool) (o : Order) (sc : Scope) (s : State) : Out := fireOp .add p a b w o sc s
/-- `aor` (R171). -/
def execAor (p : Pfx) (a b : RegNo) (w : Bool) (o : Order) (sc : Scope) (s : State) : Out := fireOp .or p a b w o sc s
/-- `aand` (R171). -/
def execAand (p : Pfx) (a b : RegNo) (w : Bool) (o : Order) (sc : Scope) (s : State) : Out := fireOp .and p a b w o sc s
/-- `axor` (R171). -/
def execAxor (p : Pfx) (a b : RegNo) (w : Bool) (o : Order) (sc : Scope) (s : State) : Out := fireOp .xor p a b w o sc s
/-- `amin`, `amin.u` (R171). -/
def execAmin (p : Pfx) (a b : RegNo) (w u : Bool) (o : Order) (sc : Scope) (s : State) : Out :=
  fireOp (if u then .minu else .min) p a b w o sc s
/-- `amax`, `amax.u` (R171). -/
def execAmax (p : Pfx) (a b : RegNo) (w u : Bool) (o : Order) (sc : Scope) (s : State) : Out :=
  fireOp (if u then .maxu else .max) p a b w o sc s
/-- `aaddf` (R172): FP32, 32 bits. -/
def execAaddf (p : Pfx) (a b : RegNo) (o : Order) (sc : Scope) (s : State) : Out := fireOp .addf p a b true o sc s

/-- Bell order of an SC atomic that a thread performs itself (R258): announced once in a window, then it waits until it stands first
among its home's. -/
def State.whenBell (s : State) (o : Order) (home : Nat) (k : State → State) : State :=
  if o ≠ .sc then k s
  else if s.anns.any fun a => a.ref = s.thr.id then
    (if s.bellReady s.thr.id home then k (s.bellPerformed s.thr.id) else s.parkOn (.bell s.bellWin))
  else if s.mayAnnounce s.tileNo s.coreNo then
    (s.announce s.tileNo s.coreNo s.thr.ltn s.thr.id home).parkOn (.bell s.bellWin)
  else s.parkOn (.bell s.bellWin)

/-- The word a proxied SC atomic announces before its request leaves (R258). -/
def State.whenAnnounced (s : State) (o : Order) (home : Nat) (k : State → State) : State :=
  if o ≠ .sc then k s
  else if s.mayAnnounce s.tileNo s.coreNo then k (s.announce s.tileNo s.coreNo s.thr.ltn s.thr.id home)
  else s.parkOn (.bell s.bellWin)

/-- A returning atomic at its home (R173): poison, the old value, the write. -/
def State.atomicHere (s : State) (p : Pfx) (d : RegNo) (op : AOp) (n pa : Nat) (va : VAddr) (b cmp : Word) : State :=
  if s.poisoned pa n then s.takeTrap 0x0A (va.setWidth 64)
  else
    let (old, s) := s.atomic s.thr.asid s.thr.lgen pa n op (b.toNat % 2 ^ (8 * n)) (cmp.toNat % 2 ^ (8 * n))
    (s.setX d (BitVec.ofNat 64 old)).retire 1 p

/-- A returning atomic (R170, R173). -/
def returnOp (op : AOp) (p : Pfx) (d a b : RegNo) (w : Bool) (o : Order) (s : State) : Out :=
  if !s.guardHolds p then .next (s.retire 1 p)
  else if s.thr.intervalOpen then .next (s.parkOn .follower)
  else
    let n := atomicSize w
    s.withAddr (s.reg a) n (permR ||| permW ||| permATM) fun s va =>
      s.withHome va n 3 true { host := true, loc := false } fun s h =>
        .next (s.whenDrained fun s =>
          match h with
          | .host _ _ => s
          | .tile _ pa name =>
            if name = s.thr.ltn then
              s.whenWritable pa n fun s => s.whenBell o pa fun s => s.atomicHere p d op n pa va (s.x b) (s.x d)
            else if s.thr.mayMigrate then s.migrateTo name (if op = .cas then [a, b, d] else [a, b])
            else s.whenAnnounced o pa fun s =>
              s.sendProxy name (.proxyAtomic s.thr.id op n va pa (s.x b) (s.x d) (o = .sc))
                { d := d, how := 0, pd := 0, inc := none, len := instrBytes 1 p })

/-- `fadd` (R173). -/
def execFadd (p : Pfx) (d a b : RegNo) (w : Bool) (o : Order) (_sc : Scope) (s : State) : Out := returnOp .add p d a b w o s
/-- `fswp` (R173). -/
def execFswp (p : Pfx) (d a b : RegNo) (w : Bool) (o : Order) (_sc : Scope) (s : State) : Out := returnOp .swp p d a b w o s
/-- `fcas` (R173). -/
def execFcas (p : Pfx) (d a b : RegNo) (w : Bool) (o : Order) (_sc : Scope) (s : State) : Out := returnOp .cas p d a b w o s
/-- `fior` (R173). -/
def execFior (p : Pfx) (d a b : RegNo) (w : Bool) (o : Order) (_sc : Scope) (s : State) : Out := returnOp .or p d a b w o s

/-- `fence` (R259): plain order with no scope is SC at system scope. -/
def execFence (p : Pfx) (o : Order) (sc : Scope) (s : State) : Out :=
  guarded 1 p s fun s =>
    match o with
    | .acquire => s.retire 1 p
    | .release => (s.withThr fun th => { th with sb := th.sb ++ [.marker sc s.tileNo] }).retire 1 p
    | o =>
      let scope := if o = .plain then .system else sc
      if ackedIn s.thr.ltn scope s.thr.sb then s.retire 1 p else s.parkOn (.acked scope)

/-- `pin` (R223). -/
def execPin (p : Pfx) (s : State) : Out :=
  guarded 1 p s fun s => (s.withThr fun th => { th.setPin true with pinx := true, short := 0 }).retire 1 p

/-- Whether a thread is a handler thread (R296). -/
def Thread.isHandler (th : Thread) : Bool := match th.kind with | .handler _ => true | _ => false

/-- `unpin` (R223): a handler thread stays pinned. -/
def execUnpin (p : Pfx) (s : State) : Out :=
  guarded 1 p s fun s =>
    (s.withThr fun th =>
      if th.isHandler then { th with short := 0 } else { th.setPin false with pinx := false, pinc := 0, short := 0 }).retire 1 p

/-- Whether a name is one of the gang's tiles and not excused (R222). -/
def State.gangTile (s : State) (name : Ltn) : Bool :=
  match s.myGang with
  | some g => g.tiles.contains name && !g.excused.contains name
  | none => false

/-- Go to a destination of `migr` (R222). -/
def State.migrGo (s : State) (i : Instr) (p : Pfx) (a : RegNo) (name : Ltn) : State :=
  if !s.gangTile name then s.takeTrap 0x09 (BitVec.ofNat 64 name)
  else if name = s.thr.ltn then s.retire 1 p
  else if s.thr.isHandler then s.illegal i
  else s.migrateTo name [a]

/-- `migr` (R222): to the home of an address, or to a name. -/
def execMigr (p : Pfx) (a : RegNo) (s : State) : Out :=
  if !s.guardHolds p then .next (s.retire 1 p)
  else if (s.reg a).tag then
    s.withByteHome a fun s va h =>
      match h with
      | .host _ _ => .next (s.takeTrap 0x05 (va.setWidth 64))
      | .tile _ _ name => .next (s.migrGo (.migr p a) p a name)
  else if 2 ^ 19 ≤ (s.x a).toNat then .next (s.takeTrap 0x09 (s.x a))
  else s.withName (s.x a).toNat fun s _ => .next (s.migrGo (.migr p a) p a (s.x a).toNat)

end Sys2Proof.Machine
end

