-- ==== Sys2Proof/Machine/Capability.lean ====
section
/-! DEFINITION. Predicate logic and capability instructions (spec/04_threads_registers.md R88-R94,
R102). -/
namespace Sys2Proof.Machine

/-- Predicate logic of page 1 (R88). -/
def predOp (v : State → Bool) (p : Pfx) (pd : PredNo) (s : State) : Out :=
  guarded 1 p s fun s => (s.setPred pd (v s)).retire 1 p

/-- `pand` (R88). -/
def execPand (p : Pfx) (pd pa pb : PredNo) (s : State) : Out := predOp (fun s => s.pred pa && s.pred pb) p pd s
/-- `por` (R88). -/
def execPor (p : Pfx) (pd pa pb : PredNo) (s : State) : Out := predOp (fun s => s.pred pa || s.pred pb) p pd s
/-- `pxor` (R88). -/
def execPxor (p : Pfx) (pd pa pb : PredNo) (s : State) : Out := predOp (fun s => xor (s.pred pa) (s.pred pb)) p pd s
/-- `pnot` (R88). -/
def execPnot (p : Pfx) (pd pa : PredNo) (s : State) : Out := predOp (fun s => !s.pred pa) p pd s
/-- `pmov` (R88). -/
def execPmov (p : Pfx) (pd pa : PredNo) (s : State) : Out := predOp (fun s => s.pred pa) p pd s

/-- The mantissa of a length at an exponent: ceil(n / 2^E) (R78). -/
def ceilShift (n e : Nat) : Nat := (n + 2 ^ e - 1) / 2 ^ e

/-- Exponent of the representation of a length: the smallest E with ceil(n / 2^E) at most 32,768 (R78). -/
def lengthExp (n : Nat) : Nat := ((List.range 32).find? fun e => decide (ceilShift n e ≤ 32768)).getD 31

/-- A capability of given fields, reserved bits zero (R77). -/
def mkCap (base len_e len_m : Nat) (perms : BitVec 9) (cursor : VAddr) : Reg :=
  { tag := true,
    bits := BitVec.ofNat 5 len_e ++ BitVec.ofNat 15 (len_m - 1) ++ BitVec.ofNat 44 (base / 16) ++ 0#7 ++ perms ++ cursor }

/-- `cset` (R89): the capability narrowed to `want` bytes at the cursor, and whether the length was lengthened; a requested length
of 0 is represented as 1 (R78). -/
def narrow (a : Reg) (want : Nat) : Except TrapVal (Reg × Bool) :=
  let start := a.cursor
  if !a.tag then .error (0x03, 0)
  else if start.toNat % 16 ≠ 0 then .error (0x06, start.setWidth 64)
  else if want > 2 ^ 46 then .error (0x04, start.setWidth 64)
  else
    let n := if want = 0 then 1 else want
    let e := lengthExp n
    let m := ceilShift n e
    let got := m * 2 ^ e
    if start.toNat < a.base || start.toNat + got > a.limit then .error (0x04, start.setWidth 64)
    else .ok (mkCap start.toNat e m a.perms start, got ≠ want)

/-- `cset` (R89). -/
def execCset (p : Pfx) (d a b : RegNo) (s : State) : Out :=
  guarded 1 p s fun s => s.checked (narrow (s.reg a) (s.x b).toNat) fun (r, longer) =>
    ((s.setReg d r).setPred 7 longer).retire 1 p

/-- Restriction of permissions by a mask, and LOC added (R90). -/
def restrict (a : Reg) (m : Word) : Reg :=
  let perms := (a.perms &&& (m.setWidth 8).setWidth 9) ||| (if m.getLsbD 8 then permLOC else 0) ||| (a.perms &&& permLOC)
  { a with bits := (a.bits &&& ~~~((0x1FF#128) <<< 48)) ||| (perms.setWidth 128 <<< 48) }

/-- `cperm` (R90). -/
def execCperm (p : Pfx) (d a b : RegNo) (s : State) : Out :=
  guarded 1 p s fun s =>
    if (s.reg a).tag then (s.setReg d (restrict (s.reg a) (s.x b))).retire 1 p else s.takeTrap 0x03 0

/-- An instruction that reads a part of a capability (R91). -/
def partOp (v : Reg → Nat) (p : Pfx) (d a : RegNo) (s : State) : Out :=
  guarded 1 p s fun s => (s.setX d (BitVec.ofNat 64 (v (s.reg a)))).retire 1 p

/-- `cgetb` (R91). -/
def execCgetb (p : Pfx) (d a : RegNo) (s : State) : Out := partOp (fun r => if r.tag then r.base else 0) p d a s
/-- `cgetl` (R91): all 49 bits of the limit. -/
def execCgetl (p : Pfx) (d a : RegNo) (s : State) : Out := partOp (fun r => if r.tag then r.limit % 2 ^ 49 else 0) p d a s
/-- `cgeta` (R91). -/
def execCgeta (p : Pfx) (d a : RegNo) (s : State) : Out := partOp (fun r => r.cursor.toNat) p d a s
/-- `ctag` (R91). -/
def execCtag (p : Pfx) (pd : PredNo) (a : RegNo) (s : State) : Out :=
  guarded 1 p s fun s => (s.setPred pd (s.reg a).tag).retire 1 p
/-- `cclr` (R91). -/
def execCclr (p : Pfx) (d a : RegNo) (s : State) : Out :=
  guarded 1 p s fun s => (s.setReg d { s.reg a with tag := false }).retire 1 p

/-- The cursor moved by V, or an integer sum (R92). -/
def moveCursor (a : Reg) (v : Word) : Reg :=
  if a.tag then a.withCursor (a.cursor + v.setWidth 48) else .int (a.bits.setWidth 64 + v)

/-- `cadd` (R92). -/
def execCadd (p : Pfx) (d a b : RegNo) (s : State) : Out :=
  guarded 0 p s fun s => (s.setReg d (moveCursor (s.reg a) (s.x b))).retire 0 p
/-- `caddi` (R92). -/
def execCaddi (p : Pfx) (d a : RegNo) (imm : Word) (s : State) : Out :=
  guarded 0 p s fun s => (s.setReg d (moveCursor (s.reg a) imm)).retire 0 p

/-- `lea` (R93): PCC with the cursor at the instruction's address plus the offset. -/
def execLea (p : Pfx) (d : RegNo) (imm : Word) (s : State) : Out :=
  guarded 0 p s fun s => (s.setReg d (s.thr.pcc.withCursor (s.pc + imm.setWidth 48))).retire 0 p

/-- Placing the cursor; system and firmware levels mint from an untagged image (R94). -/
def placeCursor (priv : Nat) (a : Reg) (v : VAddr) : Except TrapVal Reg :=
  if a.tag then .ok (a.withCursor v)
  else if 1 ≤ priv then .ok { tag := true, bits := (a.withCursor v).bits &&& ~~~((0x7F#128) <<< 57) }
  else .error (0x03, 0)

/-- `cfrom` (R94). -/
def execCfrom (p : Pfx) (d a b : RegNo) (s : State) : Out :=
  guarded 1 p s fun s => s.checked (placeCursor s.thr.priv (s.reg a) (addrOf (s.x b))) fun r => (s.setReg d r).retire 1 p

end Sys2Proof.Machine
end

