-- ==== Sys2Proof/Machine/HomeEvents.lean ====
section
/-! DEFINITION. Machine events at homes and in store buffers: entries leaving, remote operations, proxies, acknowledgements, fills,
snapshots and the scrubber (spec/05_scratchpad.md R110, R118; spec/07_home_memory.md R164-R174; spec/09_contexts_fabric.md R206,
R218; spec/11_ordering.md R256, R264; spec/15_resilience.md R335-R337). -/
namespace Sys2Proof.Machine

-- store-buffer departure (R256)
/-- The items before the oldest entry that has not left, that entry, and those behind it. -/
def splitUnsent : List SbItem → Option (List SbItem × SbItem × List SbItem)
  | [] => none
  | x :: r =>
    match x with
    | .entry _ _ _ _ _ _ _ none => some ([], x, r)
    | _ => (splitUnsent r).map fun (a, e, b) => (x :: a, e, b)

/-- Condition 4 of R256: every entry before a marker whose home lies in its scope has been acknowledged. -/
def markersAllow (own : Ltn) : List SbItem → List SbItem → Bool
  | _, [] => true
  | seen, .marker sc _ :: r => ackedIn own sc seen && markersAllow own seen r
  | seen, x :: r => markersAllow own (seen ++ [x]) r

/-- Conditions 2-5 of R256 for an entry behind the items `pre`, all of which have left. -/
def mayLeave (th : Thread) (pre : List SbItem) (e : SbItem) : Bool :=
  match e with
  | .entry seq _ _ h _ o sc _ =>
    (pre.all fun x => match x with | .entry _ _ _ g _ _ _ _ => !(g.field = h.field && !g.sameUnit h) | .marker _ _ => true) &&
    (!(o = .release || o = .sc) || ackedIn th.ltn sc pre) &&
    markersAllow th.ltn [] pre &&
    (match th.tandem with | some t => decide (seq < t.mark) | none => true)
  | .marker _ _ => false

/-- Remove the entry of a number; markers at the head of a drained buffer go with it. -/
def dropEntry (seq : Nat) (sb : List SbItem) : List SbItem :=
  let r := sb.filter fun x => match x with | .entry q _ _ _ _ _ _ _ => q ≠ seq | .marker _ _ => true
  r.dropWhile fun x => match x with | .marker _ _ => true | _ => false

/-- Mark an entry as sent in a packet. -/
def markSent (seq pk : Nat) (sb : List SbItem) : List SbItem :=
  sb.map fun x => match x with
    | .entry q op va h w o sc st => if q = seq then .entry q op va h w o sc (some pk) else .entry q op va h w o sc st
    | m => m

/-- A handler thread that has ended is gone once its buffer is drained (R306). -/
def Thread.drainedOut (th : Thread) : Thread :=
  match th.loc with
  | .draining _ _ => if drained th.sb then { th with loc := .ended, sb := [] } else th
  | _ => th

/-- The entry of a number is acknowledged: it leaves the buffer's books. -/
def State.entryDone (s : State) (id seq : Nat) : State := s.modThread id fun th => { th with sb := dropEntry seq th.sb }.drainedOut

/-- Bytes a gang holds for egress at a port (R337). -/
def Gang.heldAt (g : Gang) (port : Nat) : Nat := ((assocGet port [] g.egress).map fun e => e.data.length).sum

/-- Release the egress hold of a gang at a port as posted writes, in order of acceptance (R264, R337). -/
def State.releaseHold (s : State) (asid lgen port : Nat) : State :=
  match s.gang? asid lgen with
  | none => s
  | some g =>
    { (s.modGang asid lgen fun g => { g with egress := assocSet port [] g.egress }) with
      hostOut := s.hostOut ++ (assocGet port [] g.egress).map fun e => (port, e) }

/-- Rollback lost for a gang on a tile (R336). -/
def State.loseRollback (s : State) (t asid lgen : Nat) : State :=
  s.modTile t fun x => x.modResid asid lgen fun r => { r with nrb := true }

/-- A store accepted by the host egress of its port (R264, R337): a gang's into its hold, released early where it is full; system
software's at once. -/
def State.acceptHost (s : State) (t asid lgen port hpa : Nat) (bs : List Byte) : State :=
  match s.gang? asid lgen with
  | none => { s with hostOut := s.hostOut ++ [(port, { hpa := hpa, data := bs, ep := false })] }
  | some g =>
    let s := if 65536 < g.heldAt port + bs.length then (s.releaseHold asid lgen port).loseRollback t asid lgen else s
    s.modGang asid lgen fun g => { g with egress := assocSet port (assocGet port [] g.egress ++ [{ hpa := hpa, data := bs, ep := false }]) g.egress }

/-- Data bytes of a store to a HOST page. -/
def StOp.hostBytes : StOp → List Byte
  | .write n d _ => bytesOf n d.toNat
  | _ => []

/-- The packet an entry leaves in (R256): a message or an event in its own form, any other as a remote operation. -/
def StOp.packet (op : StOp) (th : Thread) (seq pa : Nat) (va : VAddr) : Payload :=
  match op with
  | .msg _ core mbx d => .msg th.id seq core mbx { src := th.ltn, asid := th.asid, lgen := th.lgen, data := d }
  | .event _ e => .events [e]
  | op => .store th.id seq op va pa

-- events at a tile (R311, R314): owners and contexts of its engine
/-- Owner record of a bank (R311). -/
def EvEngine.owner (e : EvEngine) (n : Nat) : Word := assocGet n 0 e.own

/-- Whether a gang owns a bank (R311). -/
def EvEngine.owns (e : EvEngine) (bank asid lgen : Nat) : Bool :=
  qownV (e.owner bank) && qownAsid (e.owner bank) = asid && qownGen (e.owner bank) = lgen

/-- The context of a gang for a logical tile (R323, R349). -/
def EvEngine.ctx? (e : EvEngine) (asid lgen : Nat) (name : Ltn) : Option EvCtx := e.ctxs.find? fun c => c.asid = asid && c.lgen = lgen && c.ltn = name

/-- Update the engine of a site. -/
def State.modEv (s : State) (t : Nat) (f : EvEngine → EvEngine) : State := s.modTile t fun x => { x with ev := f x.ev }

/-- Whether two contexts are of one gang and one logical tile. -/
def EvCtx.same (c k : EvCtx) : Bool := k.asid = c.asid && k.lgen = c.lgen && k.ltn = c.ltn

/-- Update a context. -/
def State.modCtx (s : State) (t : Nat) (c : EvCtx) (f : EvCtx → EvCtx) : State :=
  s.modEv t fun e => { e with ctxs := e.ctxs.map fun k => if c.same k then f k else k }

/-- Count a drop for a context, with its sticky bit. -/
def EvCtx.dropped (c : EvCtx) : EvCtx := { c with drop := c.drop + 1, sDrop := true }

/-- A dropped event (R314): it counts for its gang, else for the gang that owns its bank, else in PKTDROP (61). -/
def State.evDrop (s : State) (t asid lgen : Nat) (name : Ltn) (e : Event) : State :=
  let x := (s.tile t).ev
  let w := x.owner (e.idx / 16384)
  match x.ctx? asid lgen name, x.ctxs.find? fun c => qownV w && c.asid = qownAsid w && c.lgen = qownGen w with
  | some c, _ => s.modCtx t c EvCtx.dropped
  | none, some c => s.modCtx t c EvCtx.dropped
  | none, none => s.bump t 61

/-- A late event is counted; the first since the sticky bit was clear traps under LTRAP (R317, R318, R320). -/
def State.evLate (s : State) (t : Nat) (c : EvCtx) (e : Event) : State :=
  let s' := s.modCtx t c fun c => { c with late := c.late + 1, sLate := true }
  if c.ltrap && !c.sLate then s'.report t 0x11 c.asid c.lgen (BitVec.ofNat 64 (e.tick + e.idx * 2 ^ 32)) else s'

/-- An event arrives at a logical tile (R314), whose own queue takes it (R349) with the stroke number of its gang (R334). -/
def State.evArrive (t asid lgen : Nat) (name : Ltn) (s : State) (e : Event) : State :=
  let x := (s.tile t).ev
  if !x.owns (e.idx / 16384) asid lgen then s.evDrop t asid lgen name e
  else
    match x.ctx? asid lgen name with
    | none => s.evDrop t asid lgen name e
    | some c =>
      if e.idx < c.first || c.first + c.count ≤ e.idx then s.evDrop t asid lgen name e
      else if e.tick < c.hzn then s.evLate t c e
      else if 262144 ≤ (x.queue.filter fun q => ltnField q.2.name = ltnField name).length then s.evDrop t asid lgen name e
      else s.modEv t fun x => { x with queue := x.queue ++ [(gangKey asid lgen, { e with name := name, stk := s.stkOf asid lgen })] }

/-- An entry leaves: performed here, accepted by the host, or sent (R256); an event for its own tile is queued there by R314 (R326).  A store to a host page stays behind the loads of its tile that are on
their way to the same bridge (R417). -/
def State.leave (s : State) (th : Thread) (e : SbItem) : State :=
  match e with
  | .marker _ _ => s
  | .entry seq op va h _ o _ _ =>
    let t := th.loc.site
    match h with
    | .host port hpa =>
      if s.packets.any fun q => q.src = th.ltn && q.dst = bridgeName port then s
      else (s.acceptHost t th.asid th.lgen port hpa op.hostBytes).entryDone th.id seq
    | .tile _ pa name =>
      let isMsg := match op with | .msg _ _ _ _ => true | .event _ _ => true | _ => false
      let own := match op with | .event _ e => if name = th.ltn then some e else none | _ => none
      let sc := o = .sc && (match op with | .atom _ _ _ _ => true | _ => false)
      if sc && !s.mayAnnounce t th.loc.core then s
      else
        let s := if sc then s.announce t th.loc.core th.ltn seq pa else s
        if let some e := own then (State.evArrive t th.asid th.lgen th.ltn s e).entryDone th.id seq
        else if name = th.ltn && !isMsg then
          if sc then s.modThread th.id fun th => { th with sb := markSent seq 0 th.sb }
          else
            match s.writeWaits seq th.asid th.lgen pa op.size with
            | some p => s.startWait seq p
            | none =>
              let (st, s) := (s.throughSlice seq pa op.size).perform th.asid th.lgen pa op false
              let s := if st = 1 then s.consumedBy t th.asid th.lgen va else s
              s.entryDone th.id seq
        else
          let pk := s.nextId
          (s.send t th.ltn name th.asid th.lgen (op.packet th seq pa va)).modThread th.id fun th => { th with sb := markSent seq pk th.sb }

/-- An SC atomic of this tile that has left and whose bell order has come. -/
def State.bellEntry (s : State) (th : Thread) : Option (Nat × StOp × VAddr × Nat) :=
  th.sb.findSome? fun x =>
    match x with
    | .entry seq op va (.tile _ pa _) _ _ _ (some 0) => if s.bellReady seq pa then some (seq, op, va, pa) else none
    | _ => none

/-- STORE_BUFFER_LEAVE (R256): the oldest entry of a thread leaves once its conditions hold, or an SC atomic of this tile that has
left is performed in bell order (R258). -/
def execStoreBufferLeave (th : Nat) (s : State) : Out :=
  match s.thread? th with
  | none => .next s
  | some x =>
    if !(x.loc.onTile || x.loc.drains) then .next s
    else
      match s.bellEntry x with
      | some (seq, op, va, pa) =>
        match s.writeWaits seq x.asid x.lgen pa op.size with
        | some p => .next (s.startWait seq p)
        | none =>
          let (st, s) := (s.throughSlice seq pa op.size).perform x.asid x.lgen pa op false
          let s := if st = 1 then s.consumedBy x.loc.site x.asid x.lgen va else s
          .next ((s.bellPerformed seq).entryDone th seq)
      | none =>
        match splitUnsent x.sb with
        | none => .next s
        | some (pre, e, _) => .next (if mayLeave x pre e && decide (unacked pre < 32) then s.leave x e else s)

-- arrivals at a home
/-- Discard a packet whose gang is being quenched at the tile, or deliver it (R375): STATUS 3, counted in PKTDROP (61). -/
def State.unlessQuenched (s : State) (p : Packet) (t : Nat) (k : State → State) : State :=
  match s.residentAt t p.asid p.lgen p.dst with
  | some r => if r.quenching then ((s.bump t 61).ackPacket p t 3 0).dropPacket p.id else k s
  | none => k s

/-- A remote store or atomic at its home (R164, R171, R174): once its line is there it is performed, counted in AOPS (52) and
acknowledged. -/
def State.remoteOp (s : State) (p : Packet) (t seq : Nat) (op : StOp) (va : VAddr) (pa : Nat) : State :=
  match s.writeWaits p.id p.asid p.lgen pa op.size with
  | some w => s.startWait p.id w
  | none =>
    let sc := match op with | .atom _ _ _ b => b | _ => false
    if sc && !s.bellReady seq pa then s
    else
      let (st, s) := (s.throughSlice p.id pa op.size).perform p.asid p.lgen pa op true
      let s := if sc then s.bellPerformed seq else s
      let s := if st = 0 then s.bump t 52 else s
      (s.ackPacket p t st va).dropPacket p.id

/-- Whether an operation is an atomic or the decrement of `tend`, the steps REMOTE_ATOMIC covers. -/
def StOp.isAtomicOp : StOp → Bool
  | .atom _ _ _ _ => true
  | .dec => true
  | _ => false

/-- REMOTE_STORE (R164). -/
def execRemoteStore (pk : Nat) (s : State) : Out :=
  s.withArrival pk fun s p t =>
    match p.body with
    | .store _ seq op va pa => if op.isAtomicOp then s else s.unlessQuenched p t fun s => s.remoteOp p t seq op va pa
    | _ => s

/-- REMOTE_ATOMIC (R171). -/
def execRemoteAtomic (pk : Nat) (s : State) : Out :=
  s.withArrival pk fun s p t =>
    match p.body with
    | .store _ seq op va pa => if op.isAtomicOp then s.unlessQuenched p t fun s => s.remoteOp p t seq op va pa else s
    | _ => s

/-- The newest held byte of a gang at a host address (R264). -/
def heldByte (es : List HostWrite) (a : Nat) : Option Byte :=
  es.foldl (fun r e => if e.hpa ≤ a then (match e.data[a - e.hpa]? with | some b => some b | none => r) else r) none

/-- PROXY_REQUEST (R118, R173, R206): a load, a state read, an atomic or a synchronising operation of another tile's thread. -/
def execProxyRequest (pk : Nat) (s : State) : Out :=
  s.withArrival pk fun s p t => s.unlessQuenched p t fun s =>
    let reply := fun (s : State) (th st : Nat) (data : Quad) (tag : Bool) (va : VAddr) =>
      ((s.received t p.asid p.lgen).respond t p.dst p.src p.asid p.lgen th p.id st data tag va).dropPacket p.id
    match p.body with
    | .proxyLoad th n va pa =>
      match s.readWaits p.id pa n with
      | some w => s.startWait p.id w
      | none => reply (s.throughSlice p.id pa n) th (if s.poisoned pa n then 1 else 0) (BitVec.ofNat 128 (s.nat pa n)) (s.tagAt pa) va
    | .proxyFer th va pa =>
      match s.readWaits p.id pa 8 with
      | some w => s.startWait p.id w
      | none => reply (s.throughSlice p.id pa 8) th 0 (if s.fullAt pa then 1 else 0) false va
    | .proxyAtomic th op n va pa b cmp sc =>
      match s.writeWaits p.id p.asid p.lgen pa n with
      | some w => s.startWait p.id w
      | none =>
        if sc && !s.bellReady th pa then s
        else
          let s := s.throughSlice p.id pa n
          let s := if sc then s.bellPerformed th else s
          if s.poisoned pa n then reply s th 1 0 false va
          else
            let (old, s) := s.atomic p.asid p.lgen pa n op (b.toNat % 2 ^ (8 * n)) (cmp.toNat % 2 ^ (8 * n))
            reply (s.bump t 52) th 0 (BitVec.ofNat 128 old) false va
    | .proxySync th op va pa data races =>
      match (if op = 0 || op = 2 then s.writeWaits p.id p.asid p.lgen pa 8 else s.readWaits p.id pa 8) with
      | some w => s.startWait p.id w
      | none =>
        let s := s.throughSlice p.id pa 8
        if 128 ≤ ((s.tile t).waiters.filter fun w => w.proxy.isSome).length then reply s th 2 0 false va
        else
          let w : Waiter := { pa := pa, th := th, proxy := some p.id, op := op, d := 0, data := data, va := va, races := races, len := 0, page := 0,
                              src := p.src, name := p.dst, asid := p.asid, lgen := p.lgen }
          (((s.received t p.asid p.lgen).modTile t fun x => { x with waiters := x.waiters ++ [w] }).dropPacket p.id).wake pa
    | _ => s

/-- Complete a proxied instruction of a thread with its data (R206, R118, R173). -/
def State.finishProxy (s : State) (w : Await) (data : Quad) (tag : Bool) : State :=
  let s := match w.how with
    | 0 => s.setX w.d (data.setWidth 64)
    | 1 => s.setReg w.d { tag := false, bits := data }
    | 2 => s.setReg w.d { tag := tag, bits := data }
    | 3 => s.setPred w.pd (data.getLsbD 0)
    | _ => s
  (s.bumpCursor w.inc).retireTo (s.pc + BitVec.ofNat 48 w.len)

/-- What a response does to the thread that waits for it: data, a poison trap, a refusal counted as a lost race, or the retry
limit (R116, R118, R206). -/
def State.takeResponse (s : State) (w : Await) (status : Nat) (data : Quad) (tag : Bool) (va : VAddr) : State :=
  match status with
  | 0 => s.finishProxy w data tag
  | 1 => s.takeTrap 0x0A (va.setWidth 64)
  | 2 =>
    let n := s.thr.races + 1
    if 64 ≤ n then (s.withThr fun th => { th with races := 0 }).takeTrap 0x0B (va.setWidth 64)
    else (s.withThr fun th => { th with races := n }).parkOn (.proxyRefused s.time)
  | 3 => s.takeTrap 0x09 (va.setWidth 64)
  | _ => s.takeTrap 0x0B (va.setWidth 64)

/-- PROXY_RESPONSE (R206). -/
def execProxyResponse (pk : Nat) (s : State) : Out :=
  s.withArrival pk fun s p _ =>
    match p.body with
    | .response th req status data tag _ va =>
      let s := s.dropPacket pk
      match s.thread? th with
      | some x =>
        match x.park with
        | some (.proxy r w) => if r = req then s.onThread th fun s => s.takeResponse w status data tag va else s
        | _ => s
      | none => s
    | _ => s

/-- PROXY_SYNC_RESEND (R118): 64 cycles after the refusal the thread's instruction is issued again and re-sends its request. -/
def execProxySyncResend (th : Nat) (s : State) : Out :=
  .next (s.modThread th fun x =>
    match x.park with
    | some (.proxyRefused since) => if 64 ≤ s.time - since then { x with park := none } else x
    | _ => x)

/-- The thread whose store-buffer entry left in a packet, and the entry's number. -/
def State.sender (s : State) (pk : Nat) : Option (Thread × Nat) :=
  s.threads.findSome? fun th =>
    (th.sb.findSome? fun x => match x with | .entry q _ _ _ _ _ _ (some k) => if k = pk then some q else none | _ => none).map
      fun q => (th, q)

/-- ACKNOWLEDGEMENT (R218, R174, R207): the outbound record clears; a store-buffer entry is done; poison is consumed by the gang;
a discarded context or access is reported as 0x09 to the source tile's service core. -/
def execAcknowledgement (pk : Nat) (s : State) : Out :=
  s.withArrival pk fun s p t =>
    match p.body with
    | .ack of st va =>
      let s := s.dropPacket pk
      let s := if st = 1 then s.consumedBy t p.asid p.lgen va else s
      let s := if st = 3 then s.report t 0x09 p.asid p.lgen (BitVec.ofNat 64 p.src) else s
      match s.sender of with
      | some (th, seq) =>
        if st = 2 then s.modTile t fun x => { x with resend := x.resend ++ [(th.id, seq, s.time)] } else s.entryDone th.id seq
      | none => s
    | _ => s

/-- SLICE_FILL_DONE (R164): every line of the superblock is valid, and the blocked set's requests proceed. -/
def execSliceFillDone (t sb : Nat) (s : State) : Out :=
  .next (s.modTile t fun x =>
    { x with slice := x.slice.map fun z =>
        if z.sb = sb && z.filling then { z with filling := false, lines := z.lines.map fun l => { l with valid := true } } else z })

/-- SNAPSHOT_COPY_DONE (R335): the block is in the snapshot area, its snap bit is set, and the waiting write proceeds. -/
def execSnapshotCopyDone (t block : Nat) (s : State) : Out :=
  .next (if (s.tile t).snapping.contains block && decide (keySite (block * 1024) = t) then s.takeSnap block else s)

/-- ROLLBACK_LOSS_NOTICE (R336): a tile reads NRB for a gang that has lost rollback on any tile; `g` is the gang's key. -/
def execRollbackLossNotice (t g : Nat) (s : State) : Out :=
  let asid := g / 65536
  let lgen := g % 65536
  .next (if s.gangNrb asid lgen then s.loseRollback t asid lgen else s)

/-- A sector of a block as a detected error leaves it: the data as read, which is a free value, the metadata kept, the poison bit set
(R167). -/
def Block.spoil (b : Block) (pa n : Nat) : Block :=
  let o := pa / 32 * 32 - b.base
  let x := (Config.misread n).toNat
  { b with data := b.data.take o ++ bytesOf 32 (Nat.xor (ofBytes ((b.data.drop o).take 32)) x) ++ b.data.drop (o + 32),
           psn := b.psn.set (o / 32) true }

/-- A detected error in the sector of a key, in the newest contents (R113, R167). -/
def State.spoil (s : State) (pa : Nat) : State :=
  State.restore { s with free := s.free + 1 } ((s.block (pa / 32 * 32) 32).spoil pa s.free)

/-- PATROL_SCRUB (R167): the sector of a vault address is read; one bad symbol is corrected and counted in VCORR (47), two set its
poison and count in VPSN (48).  While the slice holds the line, the error stands in the vault beneath it. -/
def execPatrolScrub (t addr symbols : Nat) (s : State) : Out :=
  .next (if 2 ^ 27 ≤ addr then s
         else if symbols = 1 then s.bump t 47
         else if 2 ≤ symbols then
           let s := s.bump t 48
           let pa := vaultKey t addr
           if ((s.tile t).line addr).valid then
             State.modTile { s with free := s.free + 1 } t fun x => x.modLine addr fun l =>
               { l with old := some ((l.old.getD (s.block (pa / 128 * 128) 128)).spoil pa s.free) }
           else s.spoil pa
         else s)

/-- An error that an access finds outside the vault: in a bank word of the scratchpad, corrected ones counted in SPCORR (45) (R113), or in a
sector that the slice holds (R167). -/
def State.symbolError (s : State) (pa symbols : Nat) : State :=
  let t := keySite pa
  if isVaultKey pa then
    if !((s.tile t).line (keyVault pa)).valid then s
    else if symbols = 1 then s.bump t 47
    else if 2 ≤ symbols then (s.bump t 48).spoil pa
    else s
  else if symbols = 1 then s.bump t 45
  else if 2 ≤ symbols then s.spoil pa
  else s

/-- Data held for host egress found poisoned: its posted write will carry EP (R168). -/
def State.egressError (s : State) (asid lgen port i : Nat) : State :=
  s.modGang asid lgen fun g => { g with egress := assocSet port (listUpd (assocGet port [] g.egress) i fun e => { e with ep := true }) g.egress }

end Sys2Proof.Machine
end

