-- ==== Sys2Proof/Machine/Contexts.lean ====
section
/-! DEFINITION. Contexts outside slots: the 352-byte form, the context queue, the overflow heap, departure and arrival, held contexts
and their release (spec/09_contexts_fabric.md R196-R209, R226; spec/16_traps_preemption.md R363-R365). -/
namespace Sys2Proof.Machine

-- the 352-byte form (R197-R200)
/-- Header flit (R199). -/
def Thread.headerFlit (th : Thread) : Nat :=
  let tagBits := ((List.range 15).map fun k => if (th.regs[k + 1]?.getD .zero).tag then 2 ^ k else 0).sum + (if th.jc.tag then 2 ^ 15 else 0)
  field th.pc.toNat 208 + field th.stat.toNat 199 + field (th.preds.toNat / 2) 192 + field (th.carry.toNat / 2) 177 + field tagBits 161 +
  field th.tid.toNat 129 + field (th.vl.toNat % 32768) 114 + field th.fmt.toNat 95 + field th.migt.toNat 87 + field th.seed.toNat 55 +
  field th.fflg.toNat 50 + field th.ecause.toNat 42 + field th.estat.toNat 33 + field (th.short % 32) 28 + field (th.pinc % 2048) 17 +
  field (if th.pinx then 1 else 0) 16 + field (th.refault % 8) 13

/-- State flits (R200). -/
def Thread.stateFlit (th : Thread) : Nat := field (bitsOf th.pcc.bits.toNat 127 48) 176 + field th.jc.bits.toNat 48 + th.epc.toNat
def Thread.stateFlit2 (th : Thread) : Nat :=
  field (th.rhome % 2 ^ 19) 77 + field (th.rcnt % 256) 69 + field th.mbxn.toNat 64 + th.gval.toNat

/-- Register flit j (R200): position 0 holds RETC and EVAL. -/
def Thread.regFlit (th : Thread) (j : Nat) : Nat :=
  let pos := fun (k : Nat) => if k = 0 then th.retc.toNat + field th.eval.toNat 64 else (th.regs[k]?.getD .zero).bits.toNat
  pos (2 * j) + field (pos (2 * j + 1)) 128

/-- The 352 bytes of a context (R197). -/
def Thread.record (th : Thread) : List Byte :=
  bytesOf 32 th.headerFlit ++ bytesOf 32 th.stateFlit ++ bytesOf 32 th.stateFlit2 ++
  (List.range 8).flatMap fun j => bytesOf 32 (th.regFlit j)

/-- A flit as it travels: 32 bytes, two granule tags and the poison bit (R197). -/
structure Flit where
  data : BitVec 256
  tags : BitVec 2
  psn  : Bool
  deriving DecidableEq, Repr

/-- A register travels if CARRY or the migrating instruction keeps it (R197, R200). -/
def carried (carry keep : BitVec 16) (k : Nat) : Bool := carry.getLsbD k || keep.getLsbD k

/-- The register flits of a departing context, ascending: flit 0, and those of which a register travels (R197). -/
def Thread.sentFlits (th : Thread) (keep : BitVec 16) : List Nat :=
  (List.range 8).filter fun j => j = 0 || carried th.carry keep (2 * j) || carried th.carry keep (2 * j + 1)

/-- The flits of a departing context behind its head (R197): a register flit has the tags of its two registers, which the header names too;
the others have none, and no flit of a context is poisoned (log 57). -/
def Thread.flits (th : Thread) (keep : BitVec 16) : List Flit :=
  let plain := fun (v : Nat) => ({ data := BitVec.ofNat 256 v, tags := 0, psn := false } : Flit)
  let tagOf := fun (k : Nat) => if k = 0 then 0 else bit (th.regs[k]?.getD .zero).tag
  [plain th.headerFlit, plain th.stateFlit, plain th.stateFlit2] ++
  (th.sentFlits keep).map fun j => { data := BitVec.ofNat 256 (th.regFlit j), tags := BitVec.ofNat 2 (tagOf (2 * j) + 2 * tagOf (2 * j + 1)), psn := false }

/-- A number from 32 bytes of a record. -/
def flit (bs : List Byte) (n : Nat) : Nat := ofBytes ((bs.drop (32 * n)).take 32)

/-- A register value from a record: a tagged one has its reserved bits clear (R77). -/
def capValue (tag : Bool) (bits : Quad) : Reg := { tag := tag, bits := if tag then bits &&& 0xFFFFFFFFFFFFFFFF01FFFFFFFFFFFFFF else bits }

/-- A thread with the state of a record that software may have rewritten (R365). -/
def Thread.ofRecord (th : Thread) (bs : List Byte) : Thread :=
  let h := flit bs 0
  let a := flit bs 1
  let b := flit bs 2
  let half := fun (k : Nat) => bitsOf (flit bs (3 + k / 2)) (128 * (k % 2) + 127) (128 * (k % 2))
  let tags := bitsOf h 176 161
  { th with
    pcc := capValue th.pcc.tag (BitVec.ofNat 128 (field (bitsOf a 255 176) 48 + bitsOf h 255 208)),
    stat := BitVec.ofNat 9 (bitsOf h 207 199), preds := BitVec.ofNat 8 (2 * bitsOf h 198 192 + 1),
    carry := BitVec.ofNat 16 (2 * bitsOf h 191 177), tid := BitVec.ofNat 32 (bitsOf h 160 129), vl := BitVec.ofNat 15 (bitsOf h 128 114),
    fmt := BitVec.ofNat 19 (bitsOf h 113 95), migt := BitVec.ofNat 8 (bitsOf h 94 87), seed := BitVec.ofNat 32 (bitsOf h 86 55),
    fflg := BitVec.ofNat 5 (bitsOf h 54 50), ecause := BitVec.ofNat 8 (bitsOf h 49 42), estat := BitVec.ofNat 9 (bitsOf h 41 33),
    short := bitsOf h 32 28, pinc := bitsOf h 27 17, pinx := bitsOf h 16 16 = 1, refault := bitsOf h 15 13,
    jc := capValue (bitsOf tags 15 15 = 1) (BitVec.ofNat 128 (bitsOf a 175 48)), epc := BitVec.ofNat 48 (bitsOf a 47 0),
    rhome := bitsOf b 95 77, rcnt := bitsOf b 76 69, mbxn := BitVec.ofNat 3 (bitsOf b 66 64), gval := BitVec.ofNat 64 (bitsOf b 63 0),
    retc := BitVec.ofNat 64 (half 0), eval := BitVec.ofNat 64 (half 0 / 2 ^ 64),
    regs := Vector.ofFn fun k =>
      if k.val = 0 then .zero else capValue (bitsOf tags (k.val - 1) (k.val - 1) = 1) (BitVec.ofNat 128 (half k.val)) }

-- names of sites
/-- The name bound to a site in its own zone, by its index (R12, R210). -/
def State.tileName (s : State) (t : Nat) : Ltn :=
  let z := siteZone t
  let usual := ltnOf 0 z (t % 256 / 64 * 40 + t % 64)
  if s.siteOf usual = t && t % 64 < 40 then usual
  else
    match (s.zone z).binds.find? fun b => b.2.v && bindingSite (siteModule t) b.2 = t with
    | some b => ltnOf 0 z b.1
    | none => usual

-- the heap
/-- Heap indices in use at a site. -/
def State.heapUsed (s : State) (t : Nat) : List Nat :=
  s.threads.filterMap fun th => match th.loc with | .heap u i _ _ => if u = t then some i else none | _ => none

/-- A context leaves the heap: its undo record is made where it was written before the current commit point (R334). -/
def State.fromHeap (s : State) (t : Nat) (th : Thread) : State :=
  match th.loc with
  | .heap _ i _ _ => s.removeEntry t th.asid th.lgen 1 (s.heapAddr t th.ltn i) th.hstk (s.bytes (s.heapKey t th.ltn i) 352)
  | _ => s

/-- The lowest free heap index of a site, if its heap of 16,384 contexts has one; two logical tiles of a site share the indices, by which trap
records name contexts (R364, R349; the lowest is the model's choice, log 38). -/
def State.heapFree (s : State) (t : Nat) : Option Nat :=
  let used := s.heapUsed t
  if 16384 ≤ used.length then none else (List.range (used.length + 1)).find? fun i => !used.contains i

/-- The replayable contexts of a site's heap, oldest first (R208). -/
def State.replayable (s : State) (t : Nat) : List Nat :=
  (s.tile t).heapq.filter fun id =>
    match s.thread? id with
    | some th => (match th.loc with | .heap u _ held trapHeld => u = t && !held && !trapHeld | _ => false)
    | none => false

/-- Write a thread into the heap of a site, through the slice (R163, R208, R363). -/
def State.toHeap (s : State) (t id : Nat) (held trapHeld : Bool) : Option State :=
  match s.thread? id, s.heapFree t with
  | some th, some i =>
    some (((s.writeVault (s.heapKey t th.ltn i) th.record).modThread id fun th =>
        { th with loc := .heap t i held trapHeld, park := none, races := 0, after := none, hstk := s.stkOf th.asid th.lgen }).modTile t
      fun x => { x with heapq := x.heapq ++ [id] })
  | _, _ => none

/-- Append a thread to the context queue of a site. -/
def State.toQueue (s : State) (t id : Nat) : State :=
  (s.modThread id fun th => { th with loc := .queue t, park := none, races := 0, after := none }).modTile t fun x => { x with ctxq := x.ctxq ++ [id] }

/-- A thread ends wherever it is. -/
def State.endThread (s : State) (id : Nat) : State := s.modThread id Thread.ends

/-- What became of a context offered to a tile. -/
inductive Placed where
  | written
  | discarded
  | full
  deriving DecidableEq, Repr

/-- Offer a context to a tile (R207-R209): queued, appended to the heap, held for a pre-empted gang, or discarded and counted in
PKTDROP (61). -/
def State.place (s : State) (t id : Nat) (name : Ltn) : Placed × State :=
  match s.thread? id with
  | none => (.discarded, s)
  | some th =>
    match s.residentAt t th.asid th.lgen name with
    | none => (.discarded, (s.bump t 61).endThread id)
    | some r =>
      let s' := ((s.received t th.asid th.lgen).wakeThieves t).modThread id fun th => { th with ltn := r.ltn, since := 0 }
      if r.preempted then
        match s'.toHeap t id true false with
        | some s => (.written, s)
        | none => (.full, s)
      else if (s.replayable t).isEmpty && (s.tile t).ctxq.length < 32 then (.written, s'.toQueue t id)
      else
        match s'.toHeap t id false false with
        | some s => (.written, s)
        | none => (.full, s)

-- departure (R196-R204)
/-- A context as a packet takes it: registers left behind are zero and untagged, H and MC are 0 (R200, R202, R203). -/
def Thread.packed (th : Thread) (keep : BitVec 16) : Thread :=
  { th with
    regs := Vector.ofFn fun k => if carried th.carry keep k.val then th.regs[k] else .zero,
    rhome := 0, rcnt := 0, loc := .fabric, park := none }

/-- A departing context (R196, R204): what its packet takes, the short-departure count updated. -/
def Thread.depart (th : Thread) (keep : BitVec 16) : Thread :=
  let short := if th.since < 4 then th.short + 1 else 0
  let pins := short = 16
  { th.packed keep with
    short := if pins then 0 else short,
    stat := if pins then statBit th.stat 3 true else th.stat, pinc := if pins then 1024 else th.pinc, pinx := if pins then false else th.pinx }

/-- MIGRATION_DEPARTURE (R196): a drained thread's context leaves its slot on VC0, unless its gang has been pre-empted there; an automatic pin
is counted in PINS (66). -/
def execMigrationDeparture (th : Nat) (s : State) : Out :=
  match s.thread? th with
  | none => .next s
  | some x =>
    match x.park, x.loc with
    | some (.migrate dst keep), .slot t _ _ =>
      if drained x.sb && !((s.tile t).resid? x.asid x.lgen).any (·.preempted) then
        let s := if x.since < 4 && x.short = 15 then s.bump t 66 else s
        let sent := x.depart keep
        .next ((s.modThread th fun _ => sent).sendLen t x.ltn dst x.asid x.lgen (sent.flits keep).length (.context th))
      else .next s
    | _, _ => .next s

/-- A VC0 packet at a tile whose heap is full stays in the fabric, and 0x0E is raised once (R209).  R209 gives no EVAL, ASID or LGEN for this report
and no end of the 'once': the model takes EVAL 0 and the gang of the packet held, and reports again only after a context has been written there
since (DESIGN CHOICE, log 38). -/
def State.heapOpen (s : State) (t : Nat) (p : Packet) (k : State → State) : State :=
  if (s.heapFree t).isSome then k s
  else if (s.tile t).heapFullTold then s
  else (s.report t 0x0E p.asid p.lgen 0).modTile t fun x => { x with heapFullTold := true }

/-- CONTEXT_ARRIVAL (R201, R207-R209): written, counted in MIGIN (59) and acknowledged, or discarded with STATUS 3. -/
def execContextArrival (pk : Nat) (s : State) : Out :=
  s.withArrival pk fun s p t => s.heapOpen t p fun s =>
    match p.body with
    | .context id =>
      match s.residentAt t p.asid p.lgen p.dst with
      | some { quenching := true, .. } => (((s.bump t 61).endThread id).ackPacket p t 3 0).dropPacket pk
      | _ =>
        match s.place t id p.dst with
        | (.written, s) => ((s.ackPacket p t 0 0).dropPacket pk |>.bump t 59).modTile t fun x => { x with heapFullTold := false }
        | (.discarded, s) => (s.ackPacket p t 3 0).dropPacket pk
        | (.full, s) => s
    | _ => s

-- the steward (R208)
/-- Move a queued context to the heap. -/
def State.queueToHeap (t : Nat) (s : State) (id : Nat) : State :=
  match s.toHeap t id false false with
  | some s => s.modTile t fun x => { x with ctxq := x.ctxq.filter (· ≠ id) }
  | none => s

/-- STEWARD_MOVE_TO_HEAP (R208 step 1): from 28 entries down to 16, the newest move, oldest of them first. -/
def execStewardMoveToHeap (t : Nat) (s : State) : Out :=
  let q := (s.tile t).ctxq
  .next (if 28 ≤ q.length && (s.replayable t).isEmpty then (q.drop 16).foldl (State.queueToHeap t) s else s)

/-- Replay the oldest replayable context to the queue's tail (R208 step 3), after the check of R207: one of a pre-empted gang stays in the heap,
held, and one of a gang that is not resident is discarded and counted in PKTDROP (61). -/
def State.replayOne (s : State) (t : Nat) : State :=
  match s.replayable t with
  | [] => s
  | id :: _ =>
    match s.thread? id with
    | none => s
    | some th =>
      let out := fun (s : State) => s.modTile t fun x => { x with heapq := x.heapq.filter (· ≠ id) }
      match s.residentAt t th.asid th.lgen th.ltn with
      | none => out ((s.bump t 61).endThread id)
      | some r =>
        if r.preempted then s.modThread id fun th => { th with loc := match th.loc with | .heap u i _ b => .heap u i true b | l => l }
        else out (((s.fromHeap t th).received t th.asid th.lgen).toQueue t id)

/-- Replay until the queue holds 24 or the heap has no replayable context. -/
def State.replay (t : Nat) : Nat → State → State
  | 0, s => s
  | n + 1, s => if (s.tile t).ctxq.length < 24 then State.replay t n (s.replayOne t) else s

/-- STEWARD_REPLAY (R208 step 3): when the queue is below 16. -/
def execStewardReplay (t : Nat) (s : State) : Out :=
  .next (if (s.tile t).ctxq.length < 16 then State.replay t 24 s else s)

-- held contexts (R363-R365)
/-- Whether a thread in a slot of the same tile took its trap before another and still waits to be held: records are queued in the order of the
traps (R364). -/
def State.trappedEarlier (s : State) (t : Nat) (x : Thread) : Bool :=
  s.threads.any fun y => y.id ≠ x.id && y.loc.inSlot && y.loc.site = t && (match y.park with | some (.trapHold _ _) => y.trapAt < x.trapAt | _ => false)

/-- TRAP_HOLD (R363): once the thread is drained, and every thread of the tile that trapped before it is held (R364), its context goes to the
heap, trap-held, and a record is queued; an SC atomic that it had announced and not performed is announced no longer (R258). -/
def execTrapHold (th : Nat) (s : State) : Out :=
  match s.thread? th with
  | none => .next s
  | some x =>
    match x.park, x.loc with
    | some (.trapHold cause value), .slot t c n =>
      if drained x.sb && !s.trappedEarlier t x then
        match (s.bellPerformed th).toHeap t th false true with
        | none => .next s
        | some s' =>
          let i := match s'.thread? th with | some y => (match y.loc with | .heap _ i _ _ => i | _ => 0) | none => 0
          .next (s'.queueTrap t { eval := value, epc := x.epc, asid := x.asid, lgen := x.lgen, cause := cause, held := some i,
                                  tid := x.tid, slot := n, core := c })
      else .next s
    | _, _ => .next s

/-- The trap-held context of a heap index, taken out of the heap with the state its record now holds (R365). -/
def State.release (s : State) (t heap : Nat) (k : State → Thread → State) : State :=
  match s.threads.find? fun th => match th.loc with | .heap u i _ true => u = t && i = heap | _ => false with
  | none => s
  | some th =>
    let rec' := s.bytes (s.heapKey t th.ltn heap) 352
    let s := ((s.fromHeap t th).modThread th.id fun th => { th.ofRecord rec' with loc := .fabric, park := none }).modTile t fun x => { x with heapq := x.heapq.filter (· ≠ th.id) }
    k s (th.ofRecord rec')

/-- TREL_RESUME (R365): to the tail of this tile's context queue. -/
def execTrelResume (t heap : Nat) (s : State) : Out :=
  .next (s.release t heap fun s th => (s.place t th.id th.ltn).2)

/-- TREL_DELIVER (R365, R187): sent on VC0 to another tile in a migration packet (R195), which no instruction of the thread makes: CARRY alone
says which registers cross, and SHORT stays as it is (DEDUCED, log 38). -/
def execTrelDeliver (t heap dst : Nat) (s : State) : Out :=
  .next (s.release t heap fun s th =>
    (s.modThread th.id fun th => th.packed 0).sendLen t th.ltn dst th.asid th.lgen (th.flits 0).length (.context th.id))

/-- Status after reset. -/
def MStat.zero : MStat := { sub := 0, rtag := 0, part := 0, rej := 0, flg := 0, psn := false, drop := false, can := false }

/-- Update the status of a gang on a core. -/
def State.modMStat (s : State) (t core key : Nat) (f : MStat → MStat) : State :=
  s.modCore t core fun c => { c with mstat := assocSet key (f (assocGet key .zero c.mstat)) c.mstat }

/-- The row a handler thread holds. -/
def Thread.heldRow (th : Thread) : Option HeldRow := match th.kind with | .handler h => some h | _ => none

/-- A row buffer is free again. -/
def State.dropBuffer (s : State) (t : Nat) (h : HeldRow) : State :=
  s.modCore t h.core fun c => { c with bufs := c.bufs.filter fun o => !(o.cmd = h.cmd && o.buf = h.buf && o.asid = h.asid && o.lgen = h.lgen) }

/-- TREL_DISCARD (R365): the entry is freed and the thread ceases; a handler's row buffer is reclaimed, its row dropped (R283, R304), and its
command completes at the array's next turn. -/
def execTrelDiscard (t heap : Nat) (s : State) : Out :=
  .next (s.release t heap fun s th =>
    match th.heldRow with
    | some h => ((s.endThread th.id).modMStat t h.core (gangKey h.asid h.lgen) fun m => { m with drop := true }).dropBuffer t h
    | none => s.endThread th.id)

/-- Records waiting for room enter the trap queue (R364). -/
def State.admitTraps (s : State) (t : Nat) : Nat → State
  | 0 => s
  | n + 1 =>
    let s := s.admitTraps t n
    match (s.tile t).trapWait with
    | r :: rest => if (s.tile t).trapq.length < 64 then (s.modTile t fun x => { x with trapWait := rest }).appendTrap t r else s
    | [] => s

/-- TRQ_RETIRE (R377): n records leave from the head. -/
def execTrqRetire (t n : Nat) (s : State) : Out :=
  .next (if (s.tile t).trapq.length < n then s
         else (s.modTile t fun x => { x with trapq := x.trapq.drop n, trapHead := (x.trapHead + n) % 64 }).admitTraps t 64)

end Sys2Proof.Machine
end

