-- ==== Sys2Proof/Machine/Control.lean ====
section
/-! DEFINITION. Control transfer, trap instructions and returns (spec/04_threads_registers.md R95-R98, R101, R102;
spec/16_traps_preemption.md R368, R369). -/
namespace Sys2Proof.Machine

/-- Address a signed count of 2-byte words away from the instruction (R27). -/
def State.target (s : State) (off : Word) : VAddr := s.pc + (off.setWidth 48 : VAddr) <<< 1

/-- The target capability of a PC-relative transfer (R95). -/
def State.codeAt (s : State) (a : VAddr) : Reg := s.thr.pcc.withCursor a

/-- The target capability of a register transfer (R95). -/
def State.regTarget (s : State) (a : RegNo) : Reg := if (s.reg a).tag then s.reg a else s.codeAt (s.reg a).cursor

/-- A checked transfer that first writes c15 := PCC at the next instruction (R97, R98). -/
def State.callTo (s : State) (t : Reg) (link : VAddr) : State :=
  s.checked (checkCap t 2 permX) fun _ => (s.setReg 15 (s.codeAt link)).transfer t

/-- `br` (R96). -/
def execBr (p : Pfx) (pp : PredNo) (n : Bool) (off : Word) (s : State) : Out :=
  guarded 0 p s fun s => if xor (s.pred pp) n then s.transfer (s.codeAt (s.target off)) else s.retire 0 p
/-- `jmp` (R97). -/
def execJmp (p : Pfx) (off : Word) (s : State) : Out := guarded 0 p s fun s => s.transfer (s.codeAt (s.target off))
/-- `call` (R97). -/
def execCall (p : Pfx) (off : Word) (s : State) : Out :=
  guarded 0 p s fun s => s.callTo (s.codeAt (s.target off)) (s.nextPc 0 p)
/-- `jr` (R98). -/
def execJr (p : Pfx) (a : RegNo) (s : State) : Out := guarded 0 p s fun s => s.transfer (s.regTarget a)
/-- `callr` (R98). -/
def execCallr (p : Pfx) (a : RegNo) (s : State) : Out := guarded 0 p s fun s => s.callTo (s.regTarget a) (s.nextPc 0 p)
/-- `ret` (R98). -/
def execRet (p : Pfx) (s : State) : Out := guarded 0 p s fun s => s.transfer (s.regTarget 15)
/-- `trap` (R101). -/
def execTrap (p : Pfx) (code : Word) (s : State) : Out := guarded 0 p s fun s => s.takeTrap 0x10 code
/-- `brk` (R368). -/
def execBrk (p : Pfx) (code : Word) (s : State) : Out := guarded 1 p s fun s => s.takeTrap 0x0F code
/-- `eret` (R369). -/
def execEret (p : Pfx) (s : State) : Out := guarded 1 p s fun s => s.returnFromTrap (.eret p)
/-- An unassigned base encoding (R45): 0x01 naming the base word at its position (R40). -/
def execUnassignedOpcode (page : BitVec 2) (base : Half) (pos : BitVec 3) (s : State) : Out :=
  .next (s.illegal (.unassignedOpcode page base pos))

end Sys2Proof.Machine
end

