-- ==== Sys2Proof/Machine/Special.lean ====
section
/-! DEFINITION. The special registers: `rds`, `wrs`, what their writes do, and `yield` (spec/04_threads_registers.md R81, R82, R99, R100
and the register tables R108, R111, R169, R192, R220, R250, R265, R282, R308, R311, R329, R359, R377, R397). -/
namespace Sys2Proof.Machine

/-- Whether a number names a special register (R81, R99). -/
def sregAssigned (n : Nat) : Bool := n ≤ 27 || (40 ≤ n && n ≤ 113)

/-- Registers a user-level thread may write (R81). -/
def sregUserWrite (n : Nat) : Bool := [0, 10, 11, 13, 15, 16, 20, 21, 22, 23, 25, 26].contains n

/-- Registers no level may write (R99). -/
def sregNoWrite (n : Nat) : Bool := [1, 2, 3, 4, 5, 6, 7, 8, 9, 17, 19, 53, 54, 57, 58, 65, 67, 73, 74, 78, 86, 87, 97].contains n

/-- 64-bit counters of a tile, kept by number: read gives the count, write sets it. -/
def sregTileCounter (n : Nat) : Bool :=
  [44, 45, 47, 48, 49, 50, 51, 52, 53, 55, 56, 59, 60, 61, 62, 63, 64, 66, 71, 75, 76, 77, 80, 88, 89, 90, 96].contains n

/-- 64-bit counters of a core (R111, R250). -/
def sregCoreCounter (n : Nat) : Bool := [46, 68, 69, 70].contains n

/-- The key of the issuing thread's gang. -/
def State.myKey (s : State) : Nat := gangKey s.thr.asid s.thr.lgen

/-- Domain identifier of a level for the issuing thread's gang on its tile (R81, R280). -/
def State.dom (s : State) (k : Nat) : Nat :=
  match (s.tile s.tileNo).residFor s.thr.asid s.thr.lgen s.thr.ltn with
  | some r => (assocGet k (0, 0) r.doms).2
  | none => 0

/-- Copy tags of the issuing thread's gang on its core (R245). -/
def State.myTags (s : State) : TagMap := assocGet s.myKey { tags := 0, ovf := 0 } ((s.tile s.tileNo).core s.coreNo).tags

/-- Update them. -/
def State.modTags (s : State) (t core key : Nat) (f : TagMap → TagMap) : State :=
  s.modCore t core fun c => { c with tags := assocSet key (f (assocGet key { tags := 0, ovf := 0 } c.tags)) c.tags }

/-- RTGEN (R220). -/
def State.rtgen (s : State) (t : Nat) : Nat :=
  let h := s.heldNow t
  bit (s.tile t).gen + 2 * bit (!h.isEmpty) + 65536 * h.length

/-- TRQ (R377). -/
def Tile.trq (t : Tile) : Nat := bit (!t.trapq.isEmpty) * 2 ^ 63 + t.trapq.length * 2 ^ 16 + t.trapHead

/-- Effective clock step of a zone: the largest of those that droop, power and temperature request (R394). -/
def Zone.step (z : Zone) : Nat := min 4 (max z.droop (max z.power z.thermal))

/-- Cycles of a zone's clock since its reset (R81), at (8 − STEP)/8 of full frequency (R394). -/
def State.cyc (s : State) (t : Nat) : Nat := let z := s.zone (siteZone t); z.cycBase + (s.time - z.cycAt) * (8 - z.step) / 8

/-- Records of a core's deque, hardware and spill (R250). -/
def Core.dqlen (c : Core) : Nat := c.deque.length + c.spill.length

/-- The bits of a route-table entry that have a meaning (R4, R215): the field table's [121:120], the quadrant table's [58:56] and what lies
above a table-site entry read zero; RTDHI has none of its own for the tables whose entries RTDLO holds (R216). -/
def routeMask (table : Nat) : Quad :=
  match table with
  | 0 => 0xFCFFFFFFFFFFFFFFFFFFFFFFFFFFFFFF
  | 1 => 0xF8FFFFFFFFFFFFFF
  | 2 => 0x1FFFF
  | _ => 0

/-- What RTDLO and RTDHI hold of the entry that RTSEL names (R216, R220).  R220 does not say what of the other bits reads back: the model masks the
value by the table that RTSEL names at the time of the read, to zero for table 3 (DESIGN CHOICE, log 54). -/
def Tile.routeData (x : Tile) : Quad := (x.count 64 ++ x.count 63) &&& routeMask (wbits (x.count 62) 8 7)

/-- What an integer special register of number n reads (R81 and the register tables).  CID numbers compute cores 0-7 only; of a thread on the
service core it reads core 0, the model's choice (log 37). -/
def State.sreg (s : State) (n : Nat) : Nat :=
  let th := s.thr
  let x := s.tile s.tileNo
  let c := x.core s.coreNo
  if n = 63 then ((x.routeData).setWidth 64).toNat
  else if n = 64 then (x.routeData >>> 64).toNat
  else if sregTileCounter n then (x.count n).toNat
  else if sregCoreCounter n then (c.count n).toNat
  else if 98 ≤ n then (assocGet (n - 98) 0 (s.module (siteModule s.tileNo)).peers).toNat
  else
    match n with
    | 0 => s.statNow.toNat
    | 1 => th.tid.toNat
    | 2 => s.coreNo % 8 + s.thr.loc.slotNo * 256
    | 3 => th.ltn
    | 4 => (match s.myGang with | some g => g.num.toNat | none => 0)
    | 5 => s.accessAsid
    | 6 => s.dom 0
    | 7 => s.dom 1
    | 8 => s.dom 2
    | 9 => s.dom 3
    | 10 => th.vl.toNat
    | 11 => th.fmt.toNat
    | 12 => s.myTags.tags.toNat
    | 13 => th.carry.toNat
    | 14 => th.mbxn.toNat
    | 16 => th.migt.toNat
    | 17 => s.cyc s.tileNo
    | 18 => th.retc.toNat
    | 19 => (match s.myGang with | some g => g.stk.toNat | none => 0)
    | 20 => th.ecause.toNat
    | 21 => th.eval.toNat
    | 22 => th.epc.toNat
    | 23 => th.estat.toNat
    | 25 => th.seed.toNat
    | 26 => th.fflg.toNat
    | 27 => th.gval.toNat
    | 40 => (x.owner 0).toNat
    | 41 => (x.owner 1).toNat
    | 42 => (x.owner 2).toNat
    | 43 => (x.owner 3).toNat
    | 57 => x.ctxq.length
    | 58 => (s.heapUsed s.tileNo).length
    | 65 => s.rtgen s.tileNo
    | 67 => c.dqlen
    | 72 => s.myTags.ovf.toNat
    | 73 => (s.copiesOut s.tileNo).length
    | 74 => s.bellWin
    | 78 => x.mat.weights.toNat
    | 79 => x.mat.mslot.toNat
    | 81 => (assocGet 0 0 x.ev.own).toNat
    | 82 => (assocGet 1 0 x.ev.own).toNat
    | 83 => (assocGet 2 0 x.ev.own).toNat
    | 84 => (assocGet 3 0 x.ev.own).toNat
    | 85 => x.ev.qb.toNat
    | 86 => x.ev.queue.length
    | 87 => x.undo.length
    | 91 => x.trq
    | 95 => x.cxbase.toNat
    | 97 => siteModule s.tileNo
    | _ => 0

/-- A capability special register: JC, TVEC, SVEC or SPCC (R99). -/
def State.capSreg (s : State) (n : Nat) : Option Reg :=
  match n with
  | 15 => some s.thr.jc
  | 24 => some s.tvec
  | 93 => some (s.tile s.tileNo).svec
  | 94 => some (s.tile s.tileNo).spcc
  | _ => none

/-- A miss record as TMQ reads it (R185). -/
def Miss.word (m : Miss) : Word := BitVec.ofNat 64 (2 ^ 63 + m.kind * 2 ^ 60 + m.asid * 2 ^ 48 + m.va)

/-- Whether an agent of a site still waits for what a miss names: a parked thread, or a copy (R179, R185). -/
def State.missAlive (s : State) (t : Nat) (m : Miss) : Bool :=
  (s.threads.any fun th =>
    th.loc.inSlot && th.loc.site = t && (match th.park with | some (.miss a v _) => sameMiss a v m | _ => false)) ||
  ((s.tile t).copies.any fun c => match c.miss with | some v => sameMiss c.asid v m | none => false)

/-- A miss record is taken from the queue: the agents that still wait present theirs again, the first finding the room (R179). -/
def State.freeMiss (s : State) (t : Nat) : State :=
  let waiting := (s.tile t).missWait.filter (s.missAlive t)
  s.modTile t fun x => { x with missq := x.missq.tail ++ waiting.take 1, missWait := waiting.drop 1 }

/-- TMQ_READ (R185): the oldest record is returned and removed, or zero. -/
def State.tmqRead (s : State) (d : RegNo) : State :=
  match (s.tile s.tileNo).missq with
  | [] => s.setX d 0
  | m :: _ => (s.freeMiss s.tileNo).setX d m.word

/-- The step TMQ_READ by itself. -/
def execTmqRead (d : RegNo) (s : State) : Out := .next (s.tmqRead d)

/-- The read part of `rds`. -/
def State.readSreg (s : State) (d : RegNo) (n : Nat) : State :=
  match s.capSreg n with
  | some r => s.setReg d r
  | none =>
    if n = 54 then s.tmqRead d
    else s.setX d (BitVec.ofNat 64 (s.sreg n))

/-- `rds` (R99): the number's checks come before the guard. -/
def execRds (p : Pfx) (d : RegNo) (n : BitVec 7) (s : State) : Out :=
  if !sregAssigned n.toNat then .next (s.illegal (.rds p d n))
  else if 32 ≤ n.toNat && s.thr.priv = 0 then .next (s.privileged (.rds p d n))
  else guarded 0 p s fun s => (s.readSreg d n.toNat).retire 0 p

-- what writes do
/-- The gang of an ASID resident at a site. -/
def Tile.residOf (t : Tile) (asid : Nat) : Option Resid := t.resid.find? fun r => r.asid = asid

/-- The writable fields of an owner record (R108). -/
def ownerMask : Word := 0x80000FFFFFFF0000

/-- Whether a write of an owner record hands the unit to a new owner, which scrubs it (R110, R311). -/
def newOwner (old v : Word) : Bool := qownV v && !(qownAsid old = qownAsid v && qownGen old = qownGen v)

/-- SCRB of an owner record. -/
def setScrub (w : Word) (v : Bool) : Word := if v then w ||| 0x4000000000000000 else w &&& 0xBFFFFFFFFFFFFFFF

/-- Quarters a gang owns by the owner records, ascending (R106). -/
def Tile.ownedBy (t : Tile) (asid lgen : Nat) : List Nat := (List.range 4).filter fun n => t.owns n asid lgen

/-- A gang that a residency entry makes known before its launch gives the rest (R19, R358). -/
def Gang.fresh (asid lgen q m : Nat) : Gang :=
  { asid := asid, lgen := lgen, num := 0, code := .zero, tvec := .zero, arg := .zero, entry := 0, q := q, rb := false, mir := false,
    mlo := m, mhi := m, seed := 0, tiles := [], steal := [], x0 := 0, y0 := 0, w := 1, h := 1, excused := [], stk := 0, committed := false,
    strokeOpen := false, lastPoison := none, order := none, commit := none, partialMir := false, bareMir := false, egress := [], stopped := false, saved := [], slots := [],
    hostBytes := [] }

/-- The logical tiles bound to a site that a gang holds without a residency entry there: the site's own first (R348, R349). -/
def State.residNames (s : State) (t asid lgen : Nat) : List Ltn :=
  let own := s.tileName t
  let names := match s.gang? asid lgen with
    | some g => (g.tiles.filter fun n => n = own) ++ g.tiles.filter fun n => n ≠ own && s.siteOf n = t
    | none => []
  (if names.isEmpty then [own] else names).filter fun n => !((s.tile t).resid.any fun r => r.asid = asid && r.lgen = lgen && r.ltn = n)

/-- A residency entry as an owner record makes it, for a logical tile and with its first quarter (R106, R376). -/
def State.newResid (s : State) (t asid lgen n : Nat) (name : Ltn) : Resid :=
  let used := (s.tile t).resid.map (·.idx)
  { asid := asid, lgen := lgen, ltn := name, idx := ((List.range 4).find? fun i => !used.contains i).getD 0,
    quarters := [n], forming := true, weight := max 1 (min 15 (Config.fillWeight t asid lgen)), slotFirst := 0, slotCount := 0,
    cxbase := none, preempted := s.tiles.any (fun y => (y.2.resid? asid lgen).any fun r => r.preempted), quenching := false, doms := [], recv := false, rounds := [], nrb := false }

/-- A core that was serving a residency index has no credit left for a gang that becomes resident there (R70). -/
def Core.newTurn (c : Core) (idx : Nat) : Core := if c.rrPtr = idx then { c with credit := 0 } else c

/-- A residency entry after a change of the owner records: it lasts while its gang owns a quarter of it; while system software is making the
gang resident a quarter taken back leaves it, and afterwards the set stays fixed (R106, log 23). -/
def Tile.keptResid (x : Tile) (r : Resid) : Option Resid :=
  let mine := r.quarters.filter fun q => x.owns q r.asid r.lgen
  if mine.isEmpty then none else some (if r.forming then { r with quarters := mine } else r)

/-- A quarter that an owner record gives to a gang: it joins the residency entry that is being made, while that has fewer quarters than the
gang's launch names, or makes a new entry for a logical tile that has none (R106, R348, R376; log 23). -/
def State.giveQuarter (s : State) (t n asid lgen : Nat) : State :=
  let q := match s.gang? asid lgen with | some g => g.q | none => 0
  let room := fun (r : Resid) => r.asid = asid && r.lgen = lgen && r.forming && (q = 0 || decide (r.quarters.length < q))
  match (s.tile t).resid.find? room with
  | some e => s.modTile t fun x =>
      { x with resid := x.resid.map fun r => if r = e then { r with quarters := (List.range 4).filter fun k => k = n || r.quarters.contains k } else r }
  | none =>
    match s.residNames t asid lgen with
    | name :: _ =>
      let r := s.newResid t asid lgen n name
      let s := s.modTile t fun x => { x with resid := x.resid ++ [r], cores := x.cores.map fun c => (c.1, c.2.newTurn r.idx) }
      if (s.gang? asid lgen).isSome then s else { s with gangs := s.gangs ++ [.fresh asid lgen 0 (siteModule t)] }
    | [] => s

/-- Whether anything is left of a gang: a residency entry, its state as `cxsv` saved it (R374), or a rollback or an end that the cox owes it
(R347, R348). -/
def State.keeps (s : State) (g : Gang) : Bool :=
  !g.saved.isEmpty || g.order.isSome || g.stopped || s.tiles.any fun x => (x.2.resid? g.asid g.lgen).isSome

/-- Residency entries follow the owner records (R106, R376).  With the last entry of a gang the engine context it had on the tile ends
(R310). -/
def State.followOwners (s : State) (t n : Nat) : State :=
  let x := s.tile t
  let keep := x.resid.filterMap x.keptResid
  let s := s.modTile t fun x =>
    { x with resid := keep,
             ev := { x.ev with ctxs := x.ev.ctxs.filter fun c => keep.any fun r => r.asid = c.asid && r.lgen = c.lgen } }
  let w := x.owner n
  let asid := qownAsid w
  let lgen := qownGen w
  let s :=
    if qownV w && !(keep.any fun r => r.asid = asid && r.lgen = lgen && r.quarters.contains n) then s.giveQuarter t n asid lgen
    else s
  { s with gangs := s.gangs.filter s.keeps }

/-- QOWN_WRITE (R108-R110): a scrub that has begun runs to its end, whatever is written meanwhile. -/
def State.qownWrite (s : State) (t n : Nat) (v : Word) : State :=
  let old := (s.tile t).owner n
  let w := v &&& ownerMask
  (s.modTile t fun x =>
    { x with qown := assocSet n (setScrub w (newOwner old w || qownScrub old)) x.qown }).followOwners t n

/-- The step QOWN_WRITE by itself. -/
def execQownWrite (t n : Nat) (v : Word) (s : State) : Out := .next (if n < 4 then s.qownWrite t n v else s)

/-- QUARTER_SCRUB_DONE (R110): the quarter is zero, clean and empty in all 8 slices, and SCRB clears. -/
def execQuarterScrubDone (t n : Nat) (s : State) : Out :=
  .next (if n < 4 && qownScrub ((s.tile t).owner n) then
           ((List.range 8).foldl (fun s k => s.clearRange (scratchKey t k (n * 768) 0) 24576) s).modTile t fun x =>
             { x with qown := assocSet n (setScrub (x.owner n) false) x.qown,
                      snaps := x.snaps.filter fun b => quarterOf b.base ≠ n }
         else s)

/-- EVOWN_WRITE (R311): a new owner starts a scrub, and the old owner's events of the bank are discarded. -/
def State.evownWrite (s : State) (t n : Nat) (v : Word) : State :=
  let old := (s.tile t).ev.owner n
  let w := v &&& ownerMask
  let scrub := newOwner old w
  s.modTile t fun x =>
    { x with ev := { x.ev with
        own := assocSet n (setScrub w (scrub || qownScrub old)) x.ev.own,
        queue := if scrub then x.ev.queue.filter fun q => !(q.1 = gangKey (qownAsid old) (qownGen old) && q.2.idx / 16384 = n)
                 else x.ev.queue } }

/-- The step EVOWN_WRITE by itself. -/
def execEvownWrite (t n : Nat) (v : Word) (s : State) : Out := .next (if n < 4 then s.evownWrite t n v else s)

/-- BANK_SCRUB_DONE (R311): state words, sums and dynamics records of the bank are zero, and SCRB clears. -/
def execBankScrubDone (t n : Nat) (s : State) : Out :=
  .next (if n < 4 && qownScrub ((s.tile t).ev.owner n) then
           s.modTile t fun x =>
             { x with ev := { x.ev with own := assocSet n (setScrub (x.ev.owner n) false) x.ev.own,
                                        acc := x.ev.acc.filter fun a => a.1 / 16384 ≠ n,
                                        dyn := x.ev.dyn.filter fun a => a.1 / 16 ≠ n } }
         else s)

/-- EVQB_WRITE (R329), if it is not refused. -/
def State.evqbWrite? (s : State) (t : Nat) (v : Word) : Option State :=
  let e := (s.tile t).ev
  if !e.queue.isEmpty || (List.range 4).any (fun n => qownV (e.owner n)) || decide (7168 < wbits v 12 0 + 256) then none
  else some (s.modTile t fun x => { x with ev := { x.ev with qb := v &&& 0x8000000000001FFF } })

/-- The step EVQB_WRITE by itself. -/
def execEvqbWrite (t : Nat) (v : Word) (s : State) : Out := .next ((s.evqbWrite? t v).getD s)

/-- MSLOT_WRITE (R308), if it is not refused. -/
def State.mslotWrite? (s : State) (t : Nat) (v : Word) : Option State :=
  let first := wbits v 13 8
  let count := wbits v 6 0
  match (s.tile t).residOf (wbits v 27 16) with
  | none => none
  | some r =>
    if 64 < first + count then none
    else some (s.modTile t fun x =>
      { (x.modResid r.asid r.lgen fun r => { r with slotFirst := first, slotCount := count }) with
        mat := { x.mat with mslot := v &&& 0x0FFF3F7F } })

/-- The step MSLOT_WRITE by itself. -/
def execMslotWrite (t : Nat) (v : Word) (s : State) : Out := .next ((s.mslotWrite? t v).getD s)

/-- CXBASE_WRITE (R377), if it is not refused. -/
def State.cxbaseWrite? (s : State) (t : Nat) (v : Word) : Option State :=
  match (s.tile t).residOf (wbits v 27 16) with
  | none => none
  | some r =>
    some (s.modTile t fun x =>
      { (x.modResid r.asid r.lgen fun r => { r with cxbase := some (wbits v 12 0) }) with cxbase := v &&& 0x0FFF1FFF })

/-- The step CXBASE_WRITE by itself. -/
def execCxbaseWrite (t : Nat) (v : Word) (s : State) : Out := .next ((s.cxbaseWrite? t v).getD s)

/-- Entries of a route table: field, quadrant, table sites (R215). -/
def tableSize (k : Nat) : Nat := if k = 0 then 81 else if k = 1 then 48 else if k = 2 then 81 else 0

/-- Write an entry of a bank, its reserved bits ignored (R4, R215). -/
def RouteBank.write (b : RouteBank) (table i : Nat) (v : Quad) : RouteBank :=
  match table with
  | 0 => { b with field := assocSet i (v &&& routeMask 0) b.field }
  | 1 => { b with quad := assocSet i (v &&& routeMask 1) b.quad }
  | _ => { b with site := assocSet i (v &&& routeMask 2) b.site }

/-- Write an entry into a bank of a site. -/
def State.putRoute (s : State) (t : Nat) (bank : Bool) (table i : Nat) (v : Quad) : State :=
  s.modTile t fun x => { x with banks := x.banks.map fun b => if b.1 = bank then (b.1, b.2.write table i v) else b }

/-- The cox writes a route-table entry over its management path, into either bank: `sel` as RTSEL names the entry (R215, R216). -/
def State.coxRoute (s : State) (t : Nat) (sel : Word) (v : Quad) : State :=
  if tableSize (wbits sel 8 7) ≤ wbits sel 6 0 then s else s.putRoute t (sel.getLsbD 9) (wbits sel 8 7) (wbits sel 6 0) v

/-- A bank of a tile. -/
def Tile.bank (t : Tile) (g : Bool) : RouteBank := match t.banks.find? fun b => b.1 = g with | some b => b.2 | none => .empty

/-- RTDHI_WRITE (R216): commits the entry RTSEL names, unless its bank is active or its index is beyond the table. -/
def State.rtdhiWrite? (s : State) (t : Nat) (v : Word) : Option State :=
  let x := s.tile t
  let sel := x.count 62
  let bank := sel.getLsbD 9
  let table := wbits sel 8 7
  let i := wbits sel 6 0
  if bank = x.gen || decide (tableSize table ≤ i) then none
  else
    some ((s.putRoute t bank table i (v ++ x.count 63)).setCount t 64 v)

/-- The step RTDHI_WRITE by itself. -/
def execRtdhiWrite (t : Nat) (v : Word) (s : State) : Out := .next ((s.rtdhiWrite? t v).getD s)

/-- TREL (R365, R378): resume, deliver or discard; ACT 3 and reserved bits are refused. -/
def State.trelWrite? (s : State) (t : Nat) (v : Word) : Option State :=
  let heap := wbits v 45 32
  if wbits v 61 46 ≠ 0 || wbits v 31 19 ≠ 0 then none else
  let done := fun (o : Out) => match o with | .next s => some s | _ => none
  match wbits v 63 62 with
  | 0 => done (execTrelResume t heap s)
  | 1 => done (execTrelDeliver t heap (wbits v 18 0) s)
  | 2 => done (execTrelDiscard t heap s)
  | _ => none

/-- TRQ (R377): retire records, unless n is above the count. -/
def State.trqWrite? (s : State) (t : Nat) (v : Word) : Option State :=
  let n := wbits v 6 0
  if (s.tile t).trapq.length < n then none
  else match execTrqRetire t n s with | .next s => some s | _ => none

/-- Fields of the thread state that `wrs` writes (R81, R82).  RETC takes the value written, and the `wrs` then counts itself as it retires:
the model's choice, as `rds` of RETC reads the count before itself (log 37). -/
def Thread.writeSreg (th : Thread) (n : Nat) (v : Word) : Thread :=
  match n with
  | 0 => { th with stat := (th.stat &&& 0x0F8) ||| (v.setWidth 9 &&& 0x107) }
  | 10 => { th with vl := BitVec.ofNat 15 (min 16384 (max 1 v.toNat)) }
  | 11 => { th with fmt := v.setWidth 19 }
  | 13 => { th with carry := v.setWidth 16 &&& 0xFFFE }
  | 14 => { th with mbxn := v.setWidth 3 }
  | 16 => { th with migt := v.setWidth 8 }
  | 18 => { th with retc := v }
  | 20 => { th with ecause := v.setWidth 8 }
  | 21 => { th with eval := v }
  | 22 => { th with epc := v.setWidth 48 }
  | 23 => { th with estat := (th.estat &&& 0x0F8) ||| (v.setWidth 9 &&& 0x107) }
  | 25 => { th with seed := v.setWidth 32 }
  | 26 => { th with fflg := v.setWidth 5 }
  | _ => { th with gval := v }

/-- The write part of `wrs` after its checks: none where the value is refused with 0x01.  TVEC of a system-software thread of no gang is one
register of the tile: the model's choice (log 37). -/
def State.writeSreg? (s : State) (n : Nat) (r : Reg) : Option State :=
  let t := s.tileNo
  let v : Word := r.bits.setWidth 64
  match n with
  | 12 => some (s.modTags t s.coreNo s.myKey fun m => { m with tags := v })
  | 15 => some (s.withThr fun th => { th with jc := r })
  | 24 =>
    some (match s.myGang with
          | some g => s.modGang g.asid g.lgen fun g => { g with tvec := r }
          | none => s.modTile t fun x => { x with tvec := r })
  | 40 => some (s.qownWrite t 0 v)
  | 41 => some (s.qownWrite t 1 v)
  | 42 => some (s.qownWrite t 2 v)
  | 43 => some (s.qownWrite t 3 v)
  | 62 => some (s.setCount t 62 (v &&& 0x3FF))
  | 64 => s.rtdhiWrite? t v
  | 72 => some (s.modTags t s.coreNo s.myKey fun m => { m with ovf := v })
  | 79 => s.mslotWrite? t v
  | 81 => some (s.evownWrite t 0 v)
  | 82 => some (s.evownWrite t 1 v)
  | 83 => some (s.evownWrite t 2 v)
  | 84 => some (s.evownWrite t 3 v)
  | 85 => s.evqbWrite? t v
  | 91 => s.trqWrite? t v
  | 92 => s.trelWrite? t v
  | 93 => some (s.modTile t fun x => { x with svec := r })
  | 94 => some (s.modTile t fun x => { x with spcc := r })
  | 95 => s.cxbaseWrite? t v
  | n =>
    if sregTileCounter n then some (s.setCount t n v)
    else if sregCoreCounter n then
      some (s.modCore t s.coreNo fun c => { c with ctr := assocSet n v c.ctr })
    else if 98 ≤ n then
      some (s.modModule (siteModule t) fun m => { m with peers := assocSet (n - 98) (v &&& 0xFFFFF) m.peers })
    else some (s.withThr fun th => th.writeSreg n v)

/-- `wrs` (R99): the register's checks come before the guard; a write folds 8 bytes into the fingerprint (R353). -/
def execWrs (p : Pfx) (d : RegNo) (n : BitVec 7) (s : State) : Out :=
  let i := Instr.wrs p d n
  let k := n.toNat
  if !sregAssigned k then .next (s.illegal i)
  else if s.thr.priv = 0 && !(k ≤ 27 && sregUserWrite k) then .next (s.privileged i)
  else if sregNoWrite k then .next (s.illegal i)
  else guarded 0 p s fun s =>
    match s.writeSreg? k (s.reg d) with
    | some s' => (s'.withThr fun th => th.fold (bytesOf 8 (s.x d).toNat)).retire 0 p
    | none => if k = 64 then s.takeTrap 0x01 ((s.tile s.tileNo).count 62) else s.illegal i

/-- `yield` (R100): a general slot's thread goes to the tail of the context queue while a context of any resident gang waits there; it does
so even where the queue holds its 32 entries already, the model's choice (log 37). -/
def execYield (p : Pfx) (s : State) : Out :=
  guarded 0 p s fun s => s.boundary fun s =>
    let t := s.tileNo
    let waits := (s.tile t).ctxq.any fun id =>
      match s.thread? id with
      | some th => ((s.tile t).resid? th.asid th.lgen).isSome
      | none => false
    let s := s.retire 0 p
    match s.thr.loc with
    | .slot _ c n => if waits && c < 8 && 2 ≤ n && s.thr.tandem.isNone then s.toQueue t s.thr.id else s
    | _ => s

end Sys2Proof.Machine
end

