-- ==== Sys2Proof/Machine/Translation.lean ====
section
/-! DEFINITION. TLB writes and invalidation, `ptsync`, name invalidation and the route switch (spec/08_translation.md R181-R193;
spec/09_contexts_fabric.md R219, R224-R226). -/
namespace Sys2Proof.Machine

-- descriptors (R182)
/-- The bits of a type that must be zero (R182). -/
def mustBeZero (d : Word) : Word :=
  match descType d with
  | 1 => if descRpl d then 0x23FFFFFFFFFFE000 else 0x23F80000FFFFE000
  | 2 => 0x23F800FF00000000
  | _ => 0x23FFFCC000000000

/-- Whether a descriptor is well formed for a page size, at a site (R182). -/
def State.descOk (s : State) (t : Nat) (d : Word) (size : Nat) : Bool :=
  let frame := wbits d 12 0
  let first := wbits d 31 0
  let hpa := wbits d 37 0
  d &&& mustBeZero d = 0 &&
  (match descType d with
   | 1 =>
     (match size with
      | 0 => decide (frame ≤ 7167)
      | 1 => decide (frame % 128 = 0) && decide (frame ≤ 7040)
      | _ => false)
   | 2 =>
     decide (first % (if size = 0 then 128 else if size = 1 then 16384 else 2 ^ 23) = 0) && !descRpl d &&
     decide (wbits d 46 40 ≤ 80) && s.inDomain (siteModule t) (wbits d 50 47)
   | 3 => decide (hpa % (if size = 0 then 1 else if size = 1 then 128 else 65536) = 0) && !descRpl d && !descMir d
   | _ => false)

/-- Whether two pages of keys overlap, for one ASID (R184, R189). -/
def pagesOverlap (size va : Nat) (k : Nat) : Bool :=
  let b := max (pageBits size) (pageBits (keySize k))
  va / 2 ^ b = keyVa k / 2 ^ b

/-- Remove entries from the tile TLB of a site and their copies from its micro-TLBs (R184). -/
def State.dropTlb (s : State) (t : Nat) (hit : Nat → Bool) : State :=
  s.modTile t fun x =>
    { x with tlb := x.tlb.filter fun e => !hit e.1,
             cores := x.cores.map fun c => (c.1, { c.2 with utlb := c.2.utlb.filter fun e => !hit e.1 }) }

/-- Ways of a tile-TLB set (R180, R184). -/
def tlbWays : Nat := 8

/-- Install an entry: an invalid way if there is one, else the least recently used, whose copies go (R184). -/
def State.installTlb (s : State) (t : Nat) (e : Nat × Word) : State :=
  let set := (s.tile t).tlb.filter fun x => tlbSet x.1 = tlbSet e.1
  let s := if set.length < tlbWays then s
           else match set.getLast? with | some v => s.dropTlb t fun k => k = v.1 | none => s
  s.modTile t fun x => { x with tlb := e :: x.tlb }

/-- The parked misses of a site that a page covers, with their addresses (R186). -/
def State.coveredMisses (s : State) (t asid size va : Nat) : List (Nat × Nat) :=
  s.threads.filterMap fun th =>
    match th.park with
    | some (.miss a v _) =>
      if th.loc.inSlot && th.loc.site = t && a = asid && v / 2 ^ pageBits size = va / 2 ^ pageBits size then some (th.id, v) else none
    | _ => none

/-- Answer one miss with a page fault (R187). -/
def State.faultMiss (s : State) (m : Nat × Nat) : State :=
  s.onThread m.1 fun s => (s.withThr fun th => { th with park := none }).pageFault (BitVec.ofNat 48 m.2)

/-- A copy of the tile that waits for the page learns that it has no mapping, or looks again (R185, R246). -/
def State.answerCopies (s : State) (t asid size va : Nat) (mapped : Bool) : State :=
  s.modTile t fun x =>
    { x with copies := x.copies.map fun c =>
        match c.miss with
        | some v => if c.asid = asid && v / 2 ^ pageBits size = va / 2 ^ pageBits size
                    then { c with miss := none, unmapped := if mapped then c.unmapped else some v } else c
        | none => c }

/-- `tlbw` (R186). -/
def execTlbw (p : Pfx) (a b : RegNo) (s : State) : Out :=
  sysOnly (.tlbw p a b) 3 p s fun s =>
    let t := s.tileNo
    let k := s.x a
    let d := s.x b
    let size := wbits k 63 62
    let asid := wbits k 59 48
    let va := wbits k 47 14 * 16384
    let ok := size ≠ 3 && decide (wbits k 47 40 ≠ 0xFF) && decide (va % 2 ^ pageBits size = 0) && decide (wbits k 61 60 = 0) &&
      (descType d = 0 || s.descOk t d size) && decide (wbits k 13 0 = wbits ((s.tile t).count 53) 13 0)
    let s' :=
      if !ok then s
      else if descType d = 0 then
        ((s.coveredMisses t asid size va).foldl State.faultMiss s).answerCopies t asid size va false
      else
        let s := s.dropTlb t fun e => keyAsid e = asid && pagesOverlap size va e
        let s := s.installTlb t (k.toNat / 16384, d)
        ((s.coveredMisses t asid size va).foldl (fun s m => s.modThread m.1 fun th => { th with park := none }) s).answerCopies
          t asid size va true
    (s'.setPred 7 ok).retire 3 p

-- requests across tiles
/-- Live sites of a zone: those its bound indices name, none in a lost zone (R189). -/
def State.zoneSites (s : State) (z : Nat) : List Nat :=
  if (s.zone z).lost then []
  else (((List.range 160).filter fun i => (s.binding (ltnOf 0 z i)).v).map fun i => s.siteOf (ltnOf 0 z i)).eraseDups

/-- The live tiles within a reach of a site: 0 the tile, 1 its field, 2 its module, 3 the domain (R189, R224). -/
def State.reach (s : State) (t r : Nat) : List Nat :=
  let m := siteModule t
  let ofModule := fun (m : Nat) => (List.range 81).flatMap fun z => s.zoneSites (m * 128 + z)
  match r with
  | 0 => [t]
  | 1 => s.zoneSites (siteZone t)
  | 2 => ofModule m
  | _ => ((List.range 16).filter fun k => s.inDomain m k).flatMap ofModule

/-- Park the issuing thread on a request of a fresh number. -/
def State.request (s : State) (p : Pfx) (mk : Nat → Req) : State :=
  let (id, s) := s.fresh
  ({ s with reqs := s.reqs ++ [mk id] } : State).parkOn (.request id (instrBytes 3 p))

/-- Number of a request. -/
def Req.id : Req → Nat
  | .tlbi id _ _ _ _ => id
  | .namei id _ _ _ _ => id
  | .preempt id _ _ => id
  | .quench id _ _ => id
  | .commit id _ _ => id
  | .rollback id _ _ _ => id

/-- A thread parked in `wfi` retires (R371). -/
def State.endWait (s : State) (id : Nat) : State :=
  match s.thread? id with
  | some { park := some (.wfi len), .. } => s.onThread id fun s => s.retireTo (s.pc + BitVec.ofNat 48 len)
  | _ => s

/-- A request is over: its thread's instruction retires, with p7 where one is given; system software that waits on the same core
wakes (R371). -/
def State.finishRequest (s : State) (id : Nat) (p7 : Option Bool) : State :=
  let s := { s with reqs := s.reqs.filter fun r => r.id ≠ id }
  match s.threads.find? fun th => match th.park with | some (.request r _) => r = id | _ => false with
  | some { id := th, park := some (.request _ len), loc := loc, .. } =>
    let s := s.onThread th fun s =>
      let s := match p7 with | some v => s.setPred 7 v | none => s
      s.retireTo (s.pc + BitVec.ofNat 48 len)
    match s.slotThread loc.site 8 1 with
    | some o => if loc.core = 8 then s.endWait o.id else s
    | none => s
  | _ => s

/-- Update a request. -/
def State.modReq (s : State) (id : Nat) (f : Req → Req) : State := { s with reqs := s.reqs.map fun r => if r.id = id then f r else r }

/-- `tlbi` (R189): a refused key raises 0x01 with the key.  The rule's table gives SIZE a meaning for SCOPE 0 only: with SCOPE 1 and 2 the model
refuses no SIZE and no VPN (DESIGN CHOICE, log 52). -/
def execTlbi (p : Pfx) (a : RegNo) (s : State) : Out :=
  sysOnly (.tlbi p a) 3 p s fun s =>
    let k := s.x a
    let scope := wbits k 61 60
    let size := wbits k 63 62
    let bad := wbits k 11 0 ≠ 0 || decide (scope = 3) ||
      (scope = 0 && (size = 3 || decide (wbits k 47 14 * 16384 % 2 ^ pageBits size ≠ 0)))
    if bad then s.takeTrap 0x01 k
    else s.request p fun id => .tlbi id s.thr.id k (s.reach s.tileNo (wbits k 13 12)) []

/-- Whether a `tlbi` key covers an entry (R189). -/
def tlbiHits (k : Word) (e : Nat) : Bool :=
  match wbits k 61 60 with
  | 0 => keyAsid e = wbits k 59 48 && pagesOverlap (wbits k 63 62) (wbits k 47 14 * 16384) e
  | 1 => keyAsid e = wbits k 59 48
  | _ => true

/-- What a tile holds at the arrival of a `tlbi` that it waits for: store-buffer entries, remote operations on their way, the decrement of an
ended thread's `tend` among them, proxy reads, copies (R189 step 3, R190). -/
def State.heldAccesses (s : State) (t : Nat) : List Nat :=
  (s.packets.filterMap fun p => match p.body with | .store _ _ _ _ _ => if s.siteOf p.src = t then some p.id else none | _ => none) ++
  ((s.threads.filter fun th => (th.loc.onTile || th.loc.drains) && th.loc.site = t).flatMap fun th =>
    (th.sb.filterMap fun x => match x with | .entry q _ _ _ _ _ _ _ => some q | .marker _ _ => none) ++
    (match th.park with | some (.proxy r _) => [r] | _ => [])) ++
  ((s.tile t).copies.filter fun c => !c.ended).map fun c => c.id

/-- Size code of a page of a number of bits. -/
def sizeCode (bits : Nat) : Nat := if bits = 14 then 0 else if bits = 21 then 1 else 2

/-- Whether a `tlbi` key covers a page of a fan-out region (R322). -/
def evPageHit (k : Word) (asid : Nat) (p : EvPage) : Bool := tlbiHits k (sizeCode p.bits * 2 ^ 48 + asid * 2 ^ 34 + p.va / 2 ^ 14)

/-- Translations of event-engine contexts that a `tlbi` makes stale (R322, R323). -/
def State.staleFanout (s : State) (t : Nat) (k : Word) : State :=
  s.modTile t fun x =>
    { x with ev := { x.ev with ctxs := x.ev.ctxs.map fun c =>
        { c with pages := c.pages.map fun p => if evPageHit k c.asid p then { p with stale := true } else p } } }

/-- Runs that a `tlbi` waits for (R322). -/
def State.runsHeld (s : State) (t : Nat) (k : Word) : List Nat :=
  let e := (s.tile t).ev
  (e.runs.filter fun r => e.ctxs.any fun c => c.asid = r.asid && c.lgen = r.lgen && c.ltn = r.ltn && c.pages.any (evPageHit k c.asid)).map (·.id)

/-- Synchronising instructions parked on a tile at words that a removed translation led to leave their lists and are made again, with
a translation of their own (R190). -/
def State.releaseSync (s : State) (t : Nat) (k : Word) : State :=
  let hit := fun (w : Waiter) =>
    w.proxy.isNone && !inWindow w.va && tlbiHits k w.page
  ((s.tile t).waiters.filter hit).foldl (fun s w => s.modThread w.th fun th => { th with park := none, races := 0 })
    (s.modTile t fun x => { x with waiters := x.waiters.filter fun w => !hit w })

/-- TLBI_REQUEST (R189 steps 1 and 2, R190): TLBEPOCH (53) advances and the matching entries go. -/
def execTlbiRequest (req t : Nat) (s : State) : Out :=
  match s.reqs.find? fun r => r.id = req with
  | some (.tlbi id th k todo waits) =>
    .next (if todo.contains t then
             (((((s.bump t 53).dropTlb t (tlbiHits k)).staleFanout t k).releaseSync t k).modReq id fun _ =>
               .tlbi id th k (todo.filter (· ≠ t)) (waits ++ [(t, s.heldAccesses t ++ s.runsHeld t k)]))
           else s)
  | _ => .next s

/-- TLBI_TILE_ACK (R189 step 4). -/
def execTlbiTileAck (req t : Nat) (s : State) : Out :=
  match s.reqs.find? fun r => r.id = req with
  | some (.tlbi id th k todo waits) =>
    .next (if (assocGet t [] waits).all s.settled then s.modReq id fun _ => .tlbi id th k todo (waits.filter fun w => w.1 ≠ t) else s)
  | _ => .next s

/-- TLBI_COMPLETE (R189): every tile in reach has acknowledged. -/
def execTlbiComplete (req : Nat) (s : State) : Out :=
  match s.reqs.find? fun r => r.id = req with
  | some (.tlbi id _ _ [] []) => .next (s.finishRequest id none)
  | _ => .next s

/-- `ptsync` (R191): until every earlier store and remote operation is acknowledged. -/
def execPtsync (p : Pfx) (s : State) : Out :=
  sysOnly (.ptsync p) 3 p s fun s => s.whenDrained fun s => s.retire 3 p

/-- `namei` (R224). -/
def execNamei (p : Pfx) (a : RegNo) (s : State) : Out :=
  sysOnly (.namei p a) 3 p s fun s =>
    let k := s.x a
    if wbits k 63 62 = 3 || decide (wbits k 59 19 ≠ 0) then s.takeTrap 0x01 k
    else s.request p fun id => .namei id s.thr.id k (s.reach s.tileNo (wbits k 61 60)) []

/-- Whether a `namei` key covers a name (R224). -/
def nameiHits (k : Word) (name : Ltn) : Bool :=
  match wbits k 63 62 with
  | 0 => name = wbits k 18 0
  | 1 => ltnField name = wbits k 18 8
  | _ => true

/-- VC0 and VC1 packets that a site has sent for names a test finds and that are unacknowledged (R224); one that still waits at the injection
port has not been sent. -/
def State.outbound (s : State) (t : Nat) (hit : Ltn → Bool) : List Nat :=
  s.packets.filterMap fun p =>
    if p.vc < 2 && s.siteOf p.src = t && hit p.dst then (match p.pos with | .source _ => none | _ => some p.id)
    else match p.body with
      | .ack k _ _ => if s.siteOf p.dst = t && hit p.src then some k else none
      | .response _ k _ _ _ _ _ => if s.siteOf p.dst = t && hit p.src then some k else none
      | _ => none

/-- NAMEI_REQUEST (R224 steps 1 and 2). -/
def execNameiRequest (req t : Nat) (s : State) : Out :=
  match s.reqs.find? fun r => r.id = req with
  | some (.namei id th k todo waits) =>
    .next (if todo.contains t then
             ((s.modTile t fun x => { x with ncache := x.ncache.filter fun e => !nameiHits k e.1 }).modReq id fun _ =>
               .namei id th k (todo.filter (· ≠ t)) (waits ++ [(t, s.outbound t (nameiHits k))]))
           else s)
  | _ => .next s

/-- NAMEI_TILE_ACK (R224 step 3). -/
def execNameiTileAck (req t : Nat) (s : State) : Out :=
  match s.reqs.find? fun r => r.id = req with
  | some (.namei id th k todo waits) =>
    .next (if (assocGet t [] waits).all s.settled then s.modReq id fun _ => .namei id th k todo (waits.filter fun w => w.1 ≠ t) else s)
  | _ => .next s

/-- NAMEI_COMPLETE (R224). -/
def execNameiComplete (req : Nat) (s : State) : Out :=
  match s.reqs.find? fun r => r.id = req with
  | some (.namei id _ _ [] []) => .next (s.finishRequest id none)
  | _ => .next s

/-- Destination fields of the packets that a site has sent and that are unacknowledged, with those packets (R219). -/
def State.sentFields (s : State) (t : Nat) : List (Nat × List Nat) :=
  ((s.packets.flatMap fun p => [nameField p.dst, nameField p.src]).eraseDups).filterMap fun f =>
    let ids := s.outbound t (fun n => ltnField n = f)
    if ids.isEmpty then none else some (f, ids)

/-- Whether a thread has switched the routes of its tile and waits for the end of the switch. -/
def State.switching (s : State) (t : Nat) : Option Nat :=
  match (s.tile t).switcher with
  | some id => if s.threads.any fun th => th.id = id && th.loc.inSlot then some id else none
  | none => none

/-- `rtsw` (R225, R219): the thread that has switched retires once no field is held; a second one waits for it. -/
def execRtsw (p : Pfx) (a : RegNo) (s : State) : Out :=
  sysOnly (.rtsw p a) 3 p s fun s =>
    let t := s.tileNo
    let g := (s.x a).getLsbD 0
    if wbits (s.x a) 63 1 ≠ 0 then s.takeTrap 0x01 (s.x a)
    else if !(s.heldNow t).isEmpty then s.parkOn .routeSwitch
    else
      match s.switching t with
      | some id => if id = s.thr.id then (s.modTile t fun x => { x with switcher := none }).retire 3 p else s.parkOn .routeSwitch
      | none =>
        if (s.tile t).gen = g then s.retire 3 p
        else
          let s := s.modTile t fun x => { x with gen := g, heldFields := s.sentFields t }
          if (s.heldNow t).isEmpty then s.retire 3 p
          else (s.modTile t fun x => { x with switcher := some s.thr.id }).parkOn .routeSwitch

end Sys2Proof.Machine
end

