-- ==== Sys2Proof/Machine/Fabric.lean ====
section
/-! DEFINITION. The fabric: composing turn lists, routers, relays, forwarding and name walks (spec/09_contexts_fabric.md R211-R219, R226;
spec/17_host_peers_boot.md R389). -/
namespace Sys2Proof.Machine

/-- Router of a site within its quadrant, and the tile port it hangs on (R213). -/
def siteRouter (t : Nat) : Nat := let k := t % 64; if k < 40 then k / 4 else if k = 40 then 0 else 5
def sitePort (t : Nat) : Nat := let k := t % 64; if k < 40 then k % 4 else 4

/-- Quadrant of a site. -/
def siteQuad (t : Nat) : Nat := t % 256 / 64

/-- Site on tile port k of a router, if the port has one (R213). -/
def portSite (field quad r k : Nat) : Option Nat :=
  let base := field * 256 + quad * 64
  if k < 4 then some (base + 4 * r + k)
  else if k = 4 && r = 0 then some (base + 40)
  else if k = 4 && r = 5 then some (base + 41)
  else none

/-- n turns from the low nibbles of a value (R214). -/
def turnsOf (n v : Nat) : List (BitVec 4) := (List.range n).map fun i => BitVec.ofNat 4 (v / 16 ^ i)

/-- Entry of a table, zero where none has been written. -/
def RouteBank.entry (b : RouteBank) (table i : Nat) : Quad :=
  match table with
  | 0 => assocGet i 0 b.field
  | 1 => assocGet i 0 b.quad
  | _ => assocGet i 0 b.site

/-- The name by which a site sends a packet: the port tile's for another module (R389), else the destination's. -/
def State.nextName (s : State) (t : Nat) (p : Packet) : Option Ltn :=
  if nameModule p.dst ≠ siteModule t then
    let w := assocGet (nameModule p.dst) 0 (s.module (siteModule t)).peers
    if w.getLsbD 19 then some (wbits w 18 0) else none
  else some p.dst

/-- The table-site entry of a zone in the active bank of a site (R215). -/
def State.tableEntryAt (s : State) (t zone : Nat) : Nat := (((s.tile t).bank (s.tile t).gen).entry 2 zone).toNat

/-- Whether a packet needs no look-up of its name: the answer to a walk, which goes back to the site that asked, and a request to a host
bridge, which no LTN names (R417; log 57). -/
def Packet.byBinding (p : Packet) : Bool :=
  match p.body with
  | .walkReply _ _ _ => true
  | .hostLoad _ _ _ _ _ => true
  | _ => false

/-- The name under which a site looks a packet's name up: its source's, or, for a packet that it relays, its own, if it has one (R211,
R217). -/
def State.seeker (s : State) (t : Nat) (p : Packet) : Option Ltn :=
  if p.pos = .relayed t then (if s.siteOf (s.tileName t) = t then some (s.tileName t) else none) else some p.src

/-- The site a packet is bound for, as its composer knows it: the table tile for a walk; for a relayed packet the one that a forward record
names; else the name cache's site of the name it sends by; the answer to a walk and host requests follow the binding, and so does what a relay
without a name of its own sends on (R211, R212, R215, R389; log 57). -/
def State.bound (s : State) (t : Nat) (p : Packet) : Option Nat :=
  match p.body with
  | .walk n =>
    let e := s.tableEntryAt t (ltnZone n)
    if bitsOf e 8 8 = 1 then some ((siteModule t * 128 + bitsOf e 16 10) * 256 + bitsOf e 7 6 * 64 + bitsOf e 5 0) else none
  | _ =>
    match if p.pos = .relayed t then s.forwardOf t p else none with
    | some u => some u
    | none =>
      (s.nextName t p).bind fun n =>
        if p.byBinding || (s.seeker t p).isNone then some (s.siteOf n) else ((s.tile t).ncache.find? fun e => e.1 = n).map (·.2)

/-- A packet whose name the cache of its site does not hold waits for a walk, one for each name at a time (R211); the walk of a relayed packet
is the relay's own (R217). -/
def State.seekName (s : State) (t : Nat) (p : Packet) : State :=
  match s.nextName t p, s.seeker t p with
  | some n, some own =>
    if p.byBinding || (match p.body with | .walk _ => true | _ => false) || ((s.tile t).ncache.any fun e => e.1 = n) || (s.packets.any fun q =>
      match q.body with | .walk k => k = n && q.src = own | .walkReply k _ _ => k = n && q.dst = own | _ => false)
    then s else s.walkName t own n
  | _, _ => s

/-- The turn list and destination port that a site's active tables give (R215). -/
def State.compose (s : State) (t : Nat) (p : Packet) : Option (List (BitVec 4) × Nat) :=
  let b := (s.tile t).bank (s.tile t).gen
  match s.bound t p with
  | none => none
  | some g =>
    if siteZone g = siteZone t then
      let k := if g % 64 < 40 then siteRouter g else if g % 64 = 40 then 10 else 11
      let e := (b.entry 1 (siteQuad g * 12 + k)).toNat
      if bitsOf e 63 63 = 1 then some (turnsOf (bitsOf e 62 59) (bitsOf e 55 0) ++ [0], sitePort g) else none
    else
      let e := (b.entry 0 (siteZone g % 128)).toNat
      if bitsOf e 127 127 = 1 then some (turnsOf (bitsOf e 126 122) (bitsOf e 119 0), 0) else none

/-- Packets of a site on VC0 and VC1 that it has injected and that are unacknowledged (R194). -/
def State.outstanding (s : State) (t : Nat) : Nat :=
  (s.packets.filter fun p =>
    (p.vc < 2 && s.siteOf p.src = t && (match p.pos with | .source _ => false | _ => true)) ||
    (match p.body with | .ack _ _ _ => s.siteOf p.dst = t | .response _ _ _ _ _ _ _ => s.siteOf p.dst = t | _ => false)).length

/-- Whether a packet at its source must wait: an earlier one of its order, a packet to relay on its channel, which goes ahead, a held field, a
held name, or no record (R194, R217-R219, R224). -/
def State.injectWaits (s : State) (t : Nat) (p : Packet) : Bool :=
  let ahead := match s.packets.find? fun q => q.vc = p.vc && q.src = p.src && q.dst = p.dst && (match q.pos with | .source _ => true | _ => false) with
    | some q => q.id ≠ p.id
    | none => false
  ahead || (s.packets.any fun q => q.pos = .relayed t && q.vc = p.vc && (s.compose t q).isSome) ||
  (p.vc < 2 &&
    ((s.heldNow t).contains (nameField p.dst) ||
     (s.reqs.any fun r => match r with
       | .namei _ _ k _ waits => nameiHits k p.dst && waits.any fun w => w.1 = t && !w.2.contains p.id
       | _ => false) ||
     decide (1024 ≤ s.outstanding t)))

/-- The router of the quadrant to which the long link of quadrant q for quadrant o is attached (R213). -/
def longRouter (q o : Nat) : Nat := 7 + ((List.range 4).filter fun k => k ≠ q && k < o).length

/-- The quadrant a long link leads to. -/
def longPartner (q r : Nat) : Nat := ((List.range 4).filter fun k => k ≠ q).getD (r - 7) 0

/-- The other nine routers of a quadrant in ascending number (R213). -/
def otherRouter (r j : Nat) : Nat := if j < r then j else j + 1

/-- Number of a router port, as stitch links name it. -/
def portKey (field quad r k : Nat) : Nat := ((field * 4 + quad) * 10 + r) * 16 + k

/-- The far end of a stitch port, as the configuration image records it (R213). -/
def State.stitchEnd (s : State) (field key : Nat) : Option Nat :=
  ((s.module (field / 128)).stitch.find? fun e => e.1 = key).map (·.2)

/-- A packet discarded by a router: counted in PKTDROP (61) at the router's first tile, and reported to the cox by the router's number
(R214).  Its source counts one on VC0 or VC1 as outbound from then on (R218); another is gone. -/
def State.routerDiscard (s : State) (field quad r : Nat) (p : Packet) : State :=
  let t := field * 256 + quad * 64 + 4 * r
  let s := (s.bump t 61).modModule (field / 128) fun m => { m with misroutes := m.misroutes ++ [(field % 128 * 4 + quad) * 10 + r] }
  if p.vc < 2 then s.modPacket p.id fun q => { q with pos := .discarded } else s.losePackets fun q => q.id = p.id

/-- The relay buffer of an interface holds 16 flits of each virtual channel (R194). -/
def State.relayFits (s : State) (t : Nat) (p : Packet) : Bool :=
  decide (((s.packets.filter fun q => q.pos = .relayed t && q.vc = p.vc).map fun q => q.len + 1).sum + p.len + 1 ≤ 16)

/-- Hand a packet to the relay buffer of the router's port-0 interface, which holds it back while it is full (R194, R217). -/
def State.relayTo (s : State) (t : Nat) (p : Packet) (rest : List (BitVec 4)) : State :=
  if s.relayFits t p then s.modPacket p.id fun q => { q with turns := rest, pos := .relayed t } else s

/-- A stitch link, by the number of the port it is entered by. -/
def State.link (s : State) (key : Nat) : Link := assocGet key .reset s.links

/-- Update it. -/
def State.modLink (s : State) (key : Nat) (f : Link → Link) : State := { s with links := assocSet key (f (s.link key)) s.links }

/-- Every gang of some that has no order rolls back (R221, R345). -/
def State.rollbackFor (s : State) (gs : List Nat) : State :=
  { s with
    gangs := s.gangs.map fun g =>
      if gs.contains (gangKey g.asid g.lgen) && g.order.isNone then { g with order := some .rollback } else g }

/-- A packet goes on to a place; into a lost zone it is lost, and its gang rolls back (R212, R226). -/
def State.enterZone (s : State) (zone : Nat) (p : Packet) (f : Packet → Packet) : State :=
  if (s.zone zone).lost then (s.losePackets fun q => q.id = p.id).rollbackFor [gangKey p.asid p.lgen]
  else s.modPacket p.id f

/-- A packet leaves a router by a stitch port: over a retired link it is relayed instead, a link that retrains, or
that has failed and is not retired yet, holds it, and a port without a link discards it (R214, R221); the link into a lost zone is clamped
(R212). -/
def State.stitch (s : State) (field quad r k : Nat) (p : Packet) (rest : List (BitVec 4)) : State :=
  let key := portKey field quad r k
  let link := s.link key
  if link.retired then s.relayTo (field * 256 + quad * 64 + 4 * r) p p.turns
  else if link.retraining || link.failed then s
  else
    match s.stitchEnd field key with
    | some far =>
      (s.modLink key fun l => { l with crossed := l.crossed ++ [(p.origin, gangKey p.asid p.lgen)] }).enterZone (far / 640) p
        fun q => { q with turns := rest, pos := .router (far / 640) (far / 160 % 4) (far / 16 % 10) }
    | none => s.routerDiscard field quad r p

/-- A router takes the first turn of a packet (R214). -/
def State.takeTurn (s : State) (field quad r : Nat) (p : Packet) : State :=
  let code := (p.turns.head?.getD 0).toNat
  let rest := p.turns.tail
  let go := fun (pos : Pos) => s.modPacket p.id fun q => { q with turns := rest, pos := pos }
  if code = 0 then
    match portSite field quad r p.dport with
    | some t => go (.arrived t)
    | none => s.routerDiscard field quad r p
  else if code = 1 then s.relayTo (field * 256 + quad * 64 + 4 * r) p rest
  else if code = 2 || code = 3 || (code = 4 && (r = 0 || r = 5)) then s.routerDiscard field quad r p
  else if 5 ≤ code && code ≤ 13 then go (.router field quad (otherRouter r (code - 5)))
  else if code = 14 && 7 ≤ r then
    let o := longPartner quad r
    go (.router field o (longRouter o quad))
  else s.stitch field quad r code p rest

/-- The way between a tile and a host bridge of its module, which the spec does not lay out: one leg (log 57).  A packet of a bridge for another
module goes to the port tile that PEER names.  `none` where no bridge is an end here; `some none` where there is no way yet. -/
def State.bridgeLeg (s : State) (t : Nat) (p : Packet) : Option (Option Nat) :=
  match bridgePort p.dst, bridgePort p.src with
  | some port, _ => if port / 4 = siteModule t then some (some (bridgeSite port)) else none
  | none, some port =>
    if t = bridgeSite port then some ((s.nextName t p).map s.siteOf) else none
  | none, none => none

/-- A packet leaves a tile, or a bridge, by the leg between them. -/
def State.takeLeg (s : State) (p : Packet) : Option Nat → State
  | some u => s.enterZone (siteZone u) p fun q => { q with pos := .arrived u }
  | none => s

/-- ROUTER_TURN (R214, R215): a waiting packet is injected under its site's active tables, or a router takes its next turn. -/
def execRouterTurn (pk : Nat) (s : State) : Out :=
  match s.packet? pk with
  | none => .next s
  | some p =>
    match p.pos with
    | .source t =>
      .next (if s.injectWaits t p then s
             else match s.bridgeLeg t p with
               | some leg => s.takeLeg p leg
               | none =>
                 match s.compose t p with
                 | some (turns, dport) =>
                   s.modPacket pk fun q => { q with turns := turns, dport := dport, gen := (s.tile t).gen,
                                                    pos := .router (siteZone t) (siteQuad t) (siteRouter t) }
                 | none => s.seekName t p)
    | .router field quad r => .next (s.takeTurn field quad r p)
    | _ => .next s

/-- RELAY (R217): a new turn list from the relaying interface's own active tables, with their generation (R198). -/
def execRelay (pk : Nat) (s : State) : Out :=
  match s.packet? pk with
  | none => .next s
  | some p =>
    match p.pos with
    | .relayed t =>
      .next (match s.bridgeLeg t p with
             | some leg => s.takeLeg p leg
             | none =>
               match s.compose t p with
               | some (turns, dport) =>
                 s.modPacket pk fun q => { q with turns := turns, dport := dport, gen := (s.tile t).gen,
                                                  pos := .router (siteZone t) (siteQuad t) (siteRouter t) }
               | none => s.seekName t p)
    | _ => .next s

/-- Events that cannot be sent are counted in DROP of the engine's context (R318). -/
def State.dropEvents (s : State) (t : Nat) (p : Packet) : State :=
  match p.body with
  | .events es => s.modTile t fun x =>
      { x with ev := { x.ev with ctxs := x.ev.ctxs.map fun c =>
        if c.asid = p.asid && c.lgen = p.lgen && c.ltn = p.src then { c with drop := c.drop + es.length, sDrop := true } else c } }
  | _ => s

/-- A packet that its tile cannot take: discarded and counted in PKTDROP (61); a context in it ends (R211, R212).  It is acknowledged with
STATUS 3 also where R212 says only that it is discarded and counted (DEDUCED, log 57). -/
def State.refusePacket (s : State) (t : Nat) (p : Packet) : State :=
  let s := s.bump t 61
  (if p.vc < 2 then s.ackPacket p t 3 0 else s).losePackets fun q => q.id = p.id

/-- A packet whose name a walk has found unbound (R211): its tile refuses it, but events are counted in DROP only (R318). -/
def State.unboundPacket (s : State) (t : Nat) (p : Packet) : State :=
  match p.body with
  | .events _ => (s.dropEvents t p).losePackets fun q => q.id = p.id
  | _ => s.refusePacket t p

/-- Roshus ports of a module that face another, by their place in its image. -/
def State.roshusTo (s : State) (m peer : Nat) : List Nat :=
  ((s.module m).roshus.zipIdx.filter fun x => x.1.peer = peer).map (·.2)

/-- The far end of the k-th Roshus port of a module: the module that it faces, and the port there, the links between two modules being paired in
the order of their images (R388; log 48). -/
def State.farPort (s : State) (m k : Nat) : Option (Nat × Nat) :=
  ((s.module m).roshus[k]?).bind fun r => ((s.roshusTo r.peer m)[(s.roshusTo m r.peer).idxOf k]?).map fun j => (r.peer, j)

/-- A packet for another module at a tile of its route (R388, R389): it crosses the Roshus Link of the tile to the port tile that the link faces,
which sends it on; over a retired link it is relayed under what PEER now says, as at a retired port (R221); a tile without a link discards it. -/
def State.crossRoshus (s : State) (t : Nat) (p : Packet) : State :=
  let m := siteModule t
  match (s.module m).roshus.zipIdx.find? fun x => s.siteOf x.1.tile = t with
  | none => s.refusePacket t p
  | some (r, k) =>
    if r.retired then s.modPacket p.id fun q => { q with pos := .relayed t }
    else
      match s.farPort m k with
      | none => s
      | some (n, j) =>
        match (s.module n).roshus[j]? with
        | none => s
        | some far =>
          let u := s.siteOf far.tile
          if !(r.trained && far.trained) then s
          else
            (s.modModule m fun x => { x with roshus := listUpd x.roshus k fun r => { r with crossed := r.crossed ++ [(p.origin, gangKey p.asid p.lgen)] } }).enterZone
              (siteZone u) p fun q => { q with pos := .relayed u }

/-- FORWARD_PACKET (R212, R389): a packet at a site that keeps a forward record of its name follows the record, its third time it is
discarded; at a site that does not host its name it crosses the Roshus Link toward another module, waits where a forward record sends
it while the binding is on its way, or is discarded. -/
def execForwardPacket (pk : Nat) (s : State) : Out :=
  match s.packet? pk with
  | none => .next s
  | some p =>
    match p.pos with
    | .arrived t =>
      let walk := match p.body with | .walk _ => true | _ => false
      if walk then .next s
      else if (s.forwardOf t p).isSome then
        .next (if p.fwdc < 2 then s.modPacket pk fun q => { q with fwdc := q.fwdc + 1, pos := .relayed t } else s.refusePacket t p)
      else if s.siteOf p.dst = t || s.forwardOf (s.siteOf p.dst) p = some t then .next s
      else if nameModule p.dst ≠ siteModule t then .next (s.crossRoshus t p)
      else .next (s.refusePacket t p)
    | _ => .next s

-- name tables (R210, R215, R349)
/-- The zone record of a name table, as a number of 512 bits (R210): in a lost zone RETIRED is set for an index as it is retired (R348), else when
the zone has reshelved (R162). -/
def Zone.record (z : Zone) : Nat :=
  ((if z.lost then z.retiring.foldl Keys.put z.retired else z.retired).map fun i => 2 ^ (352 + i)).sum + field (z.stripeP % 2 ^ 19) 301 + field (z.stripeA % 2 ^ 13) 288 + field z.epoch.toNat 272 +
  field (z.live % 256) 264

/-- A binding entry of a name table, as a number of 128 bits (R210). -/
def Binding.entry (b : Binding) : Nat := Machine.field (bit b.v) 127 + Machine.field (b.field % 128) 8 + Machine.field (b.quad % 4) 6 + b.site % 64

/-- The bytes of a zone's name table: its record, and the 160 entries at offset 0x40 (R210). -/
def State.nameTable (s : State) (key : Nat) : List Byte :=
  bytesOf 64 (s.zone key).record ++ (List.range 160).flatMap fun i => bytesOf 16 (s.binding (ltnOf 0 key i)).entry

/-- The site that holds a zone's name table, and whether it lies in that site's recovery reserve: its index 0 is hosted outside the zone
(R210, R349). -/
def State.tablePlace (s : State) (key : Nat) : Nat × Bool :=
  let t := s.siteOf (ltnOf 0 key 0)
  (t, siteZone t ≠ key)

/-- Where a name table begins in a tile's vault: in the system reserve, or at offset 0 of the recovery reserve (R157, R210, R349). -/
def State.tableBase (s : State) (t : Nat) (alt : Bool) : Nat :=
  if alt then s.recoveryBase t else 0x07000000

/-- The binding entry that a walk reads at a place: that of the zone's table where it is this place, else what the vault holds there
(R211, R215). -/
def State.walkedEntry (s : State) (t : Nat) (alt : Bool) (name : Ltn) : Nat :=
  if s.tablePlace (ltnField name) = (t, alt) then (s.binding name).entry
  else s.nat (vaultKey t (s.tableBase t alt + 64 + 16 * ltnIndex name)) 16

/-- NAME_WALK_REQUEST (R211): the site that the source's table-site entry names answers with the binding entry it reads (R215). -/
def execNameWalkRequest (pk : Nat) (s : State) : Out :=
  match s.packet? pk with
  | none => .next s
  | some p =>
    match p.pos, p.body with
    | .arrived t, .walk n =>
      let e := s.walkedEntry t (bitsOf (s.tableEntryAt (s.siteOf p.src) (ltnZone n)) 9 9 = 1) n
      let site := (siteModule t * 128 + bitsOf e 14 8) * 256 + bitsOf e 7 6 * 64 + bitsOf e 5 0
      .next ((s.send t p.dst p.src p.asid p.lgen (.walkReply n (bitsOf e 127 127 = 1) site)).dropPacket pk)
    | _, _ => .next s

/-- NAME_WALK_RESPONSE (R211): a bound name enters the cache of 64 entries; an unbound one faults the threads that need it, and packets of the
site's own, or that it relays, that wait for it are refused. -/
def execNameWalkResponse (pk : Nat) (s : State) : Out :=
  match s.packet? pk with
  | none => .next s
  | some p =>
    match p.pos, p.body with
    | .arrived t, .walkReply n bound site =>
      let s := s.dropPacket pk
      let waiting := s.threads.filterMap fun th => if th.park = some (.name n) && th.loc.site = t then some th.id else none
      if bound then
        let s := s.modTile t fun x => { x with ncache := ((n, site) :: x.ncache.filter fun e => e.1 ≠ n).take 64 }
        .next (waiting.foldl (fun s id => s.modThread id fun th => { th with park := none }) s)
      else
        let s := waiting.foldl (fun s id => s.onThread id fun s => s.takeTrap 0x09 (BitVec.ofNat 64 n)) s
        let walks := fun (q : Packet) => match q.body with | .walk _ => true | _ => q.byBinding
        .next ((s.packets.filter fun q => (q.pos = .source t || q.pos = .relayed t) && s.nextName t q = some n && !walks q).foldl
          (fun s q => s.unboundPacket t q) s)
    | _, _ => .next s

end Sys2Proof.Machine
end

