-- ==== Sys2Proof/Machine/Hash.lean ====
section
/-! DEFINITION. SHA-256 (FIPS 180-4), which the measurement registers are extended with, and the verification of an RSASSA-PSS signature
with it (RFC 8017), by which an image is accepted (spec/17_host_peers_boot.md R390, R391). -/
namespace Sys2Proof.Machine

/-- The number that bytes give, the first the most significant, and n bytes of a number. -/
def beNat (bs : List Byte) : Nat := bs.foldl (fun n b => n * 256 + b.toNat) 0
def beBytes (n v : Nat) : List Byte := (List.range n).map fun i => BitVec.ofNat 8 (v / 256 ^ (n - 1 - i))

/-- The 64 round constants of SHA-256. -/
def shaConst : List Nat :=
  [0x428a2f98, 0x71374491, 0xb5c0fbcf, 0xe9b5dba5, 0x3956c25b, 0x59f111f1, 0x923f82a4, 0xab1c5ed5] ++
  [0xd807aa98, 0x12835b01, 0x243185be, 0x550c7dc3, 0x72be5d74, 0x80deb1fe, 0x9bdc06a7, 0xc19bf174] ++
  [0xe49b69c1, 0xefbe4786, 0x0fc19dc6, 0x240ca1cc, 0x2de92c6f, 0x4a7484aa, 0x5cb0a9dc, 0x76f988da] ++
  [0x983e5152, 0xa831c66d, 0xb00327c8, 0xbf597fc7, 0xc6e00bf3, 0xd5a79147, 0x06ca6351, 0x14292967] ++
  [0x27b70a85, 0x2e1b2138, 0x4d2c6dfc, 0x53380d13, 0x650a7354, 0x766a0abb, 0x81c2c92e, 0x92722c85] ++
  [0xa2bfe8a1, 0xa81a664b, 0xc24b8b70, 0xc76c51a3, 0xd192e819, 0xd6990624, 0xf40e3585, 0x106aa070] ++
  [0x19a4c116, 0x1e376c08, 0x2748774c, 0x34b0bcb5, 0x391c0cb3, 0x4ed8aa4a, 0x5b9cca4f, 0x682e6ff3] ++
  [0x748f82ee, 0x78a5636f, 0x84c87814, 0x8cc70208, 0x90befffa, 0xa4506ceb, 0xbef9a3f7, 0xc67178f2]

/-- The initial hash value. -/
def shaInit : List (BitVec 32) :=
  [0x6a09e667, 0xbb67ae85, 0x3c6ef372, 0xa54ff53a, 0x510e527f, 0x9b05688c, 0x1f83d9ab, 0x5be0cd19]

/-- Word i of a list of words. -/
def shaWord (ws : List (BitVec 32)) (i : Nat) : BitVec 32 := ws.getD i 0

/-- The message schedule: 48 further words, each from the sixteen before it. -/
def shaSchedule : Nat → List (BitVec 32) → List (BitVec 32)
  | 0, ws => ws
  | n + 1, ws =>
    let ws := shaSchedule n ws
    let k := ws.length
    let a := shaWord ws (k - 15)
    let b := shaWord ws (k - 2)
    let s0 := a.rotateRight 7 ^^^ a.rotateRight 18 ^^^ (a >>> 3)
    let s1 := b.rotateRight 17 ^^^ b.rotateRight 19 ^^^ (b >>> 10)
    ws ++ [shaWord ws (k - 16) + s0 + shaWord ws (k - 7) + s1]

/-- One round on the eight working variables. -/
def shaRound (v : List (BitVec 32)) (kw : BitVec 32) : List (BitVec 32) :=
  match v with
  | [a, b, c, d, e, f, g, h] =>
    let s1 := e.rotateRight 6 ^^^ e.rotateRight 11 ^^^ e.rotateRight 25
    let ch := (e &&& f) ^^^ (~~~e &&& g)
    let t1 := h + s1 + ch + kw
    let s0 := a.rotateRight 2 ^^^ a.rotateRight 13 ^^^ a.rotateRight 22
    let maj := (a &&& b) ^^^ (a &&& c) ^^^ (b &&& c)
    [t1 + s0 + maj, a, b, c, d + t1, e, f, g]
  | _ => v

/-- One block of sixteen words. -/
def shaBlock (h : List (BitVec 32)) (block : List (BitVec 32)) : List (BitVec 32) :=
  let kws := List.zipWith (fun k w => BitVec.ofNat 32 k + w) shaConst (shaSchedule 48 block)
  List.zipWith (· + ·) h (kws.foldl shaRound h)

/-- The sixteen words of a 512-bit block, the first the most significant. -/
def shaWords (b : Nat) : List (BitVec 32) := (List.range 16).map fun i => BitVec.ofNat 32 (b / 2 ^ (32 * (15 - i)))

/-- SHA-256 of a message of 512 bits: the message and the block of its padding. -/
def sha256 (m : BitVec 512) : BitVec 256 :=
  let h := shaBlock (shaBlock shaInit (shaWords m.toNat)) (shaWords (2 ^ 511 + 512))
  BitVec.ofNat 256 (h.foldl (fun n w => n * 2 ^ 32 + w.toNat) 0)

/-- The blocks of sixteen words of a padded message. -/
def shaBlocks : Nat → List Byte → List (List (BitVec 32))
  | 0, _ => []
  | n + 1, bs => shaWords (beNat (bs.take 64)) :: shaBlocks n (bs.drop 64)

/-- A message with its padding: a one bit, zeros, and its length in bits. -/
def shaPadded (bs : List Byte) : List Byte :=
  bs ++ [0x80] ++ List.replicate ((119 - bs.length % 64) % 64) 0 ++ beBytes 8 (8 * bs.length)

/-- SHA-256 of a message of bytes. -/
def sha256Bytes (bs : List Byte) : BitVec 256 :=
  let p := shaPadded bs
  BitVec.ofNat 256 (((shaBlocks (p.length / 64) p).foldl shaBlock shaInit).foldl (fun n w => n * 2 ^ 32 + w.toNat) 0)

-- RSASSA-PSS (R390)
/-- The value of b to the power e modulo n, `bits` being a bound on the bits of e. -/
def powMod (n : Nat) : Nat → Nat → Nat → Nat
  | 0, _, _ => 1 % n
  | bits + 1, b, e =>
    let r := powMod n bits (b * b % n) (e / 2)
    if e % 2 = 1 then r * b % n else r

/-- MGF1 with SHA-256: n bytes from a seed. -/
def mgf1 (seed : List Byte) (n : Nat) : List Byte :=
  ((List.range ((n + 31) / 32)).flatMap fun k => beBytes 32 (sha256Bytes (seed ++ beBytes 4 k)).toNat).take n

/-- EMSA-PSS verification of an encoded message of 384 bytes (3,071 bits) with a salt of 32 bytes. -/
def pssMatches (message em : List Byte) : Bool :=
  let masked := em.take 351
  let h := (em.drop 351).take 32
  let db := List.zipWith (· ^^^ ·) masked (mgf1 h 351)
  let db := (db.headD 0 &&& 0x7F) :: db.drop 1
  let salt := db.drop 319
  em.getLast? = some 0xBC && (masked.headD 0).toNat < 0x80 && db.take 319 = List.replicate 318 0 ++ [1] &&
  h = beBytes 32 (sha256Bytes (List.replicate 8 0 ++ beBytes 32 (sha256Bytes message).toNat ++ salt)).toNat

/-- Whether an RSA-3072 signature of a message verifies under the public key with modulus n and exponent e (RSASSA-PSS, SHA-256). -/
def rsaVerifies (n e : Nat) (message signature : List Byte) : Bool :=
  signature.length = 384 && beNat signature < n && decide (2 ^ 3071 ≤ n) && decide (n < 2 ^ 3072) &&
  pssMatches message (beBytes 384 (powMod n 3072 (beNat signature) e))

end Sys2Proof.Machine
end

