-- ==== Sys2Proof/Machine/Tasks.lean ====
section
/-! DEFINITION. Filling slots, task records, deques, stealing and `spawn`
(spec/04_threads_registers.md R69-R75; spec/10_tasks_messages_copies.md R228-R238, R252); the owner's pop goes before a steal, and two
steals never share a cycle (R233; log 5). -/
namespace Sys2Proof.Machine

-- slots (R69, R70, R353)
/-- Whether a gang runs on its tile: resident, not pre-empted, not quenching. -/
def Resid.running (r : Resid) : Bool := !r.preempted && !r.quenching

/-- The running residency entries of a site in ascending index. -/
def Tile.runners (t : Tile) : List Resid :=
  (List.range 4).filterMap fun i => t.resid.find? fun r => r.idx = i && r.running

/-- Whether a slot holds no thread and no follower of a pair. -/
def State.slotEmpty (s : State) (t core n : Nat) : Bool :=
  !s.threads.any fun th =>
    match th.loc with
    | .slot u c k =>
      u = t && ((c = core && k = n) || (match th.tandem with | some x => c + 1 = core && x.slot = n | none => false))
    | _ => false

/-- The free general slots of a core that no steal has reserved, ascending (R69, R231). -/
def State.freeSlots (s : State) (t core : Nat) : List Nat :=
  let st := ((s.tile t).core core).steal
  ((List.range 14).map (· + 2)).filter fun n => s.slotEmpty t core n && !(st.waiting.isSome && st.slot = n)

/-- The other core of a pair. -/
def pairCore (core : Nat) : Nat := if core % 2 = 0 then core + 1 else core - 1

/-- Whether a parked `tdm` on the other core of the pair is owed the next free slot of this core (R356). -/
def State.slotOwed (s : State) (t core : Nat) : Bool :=
  s.threads.any fun th => th.park = some .pairSlot && th.loc.inSlot && th.loc.site = t && th.loc.core = pairCore core

/-- A tandem state whose new interval opens on a thread's state (R354); store-buffer entries numbered from `mark` on belong to it. -/
def Tandem.fresh (check : Arch) (mark slot : Nat) : Tandem :=
  { check := check, count := 0, leadFp := 0xFFFFFFFF, followFp := 0xFFFFFFFF, missed := false, vector := false, mark := mark, slot := slot }

/-- A wait for a register fill, if the free value says so (R73; log 20). -/
def State.operandWait (s : State) : Option Park := if Config.operandMiss s.free then some .operand else none

/-- Place a waiting thread in a slot (R70); a coupled thread opens a new interval with its follower in a slot of the next core
(R201, R355). -/
def State.seat (s : State) (t core n : Nat) (follower : Nat) (id : Nat) : State :=
  let s' := s.modThread id fun th =>
    { th with loc := .slot t core n, park := s.operandWait, since := 0, races := 0,
              tandem := th.tandem.map fun _ => .fresh th.toArch s.nextId follower }
  { s' with free := s.free + 1 }

/-- A new thread of a gang in a slot, in the start state of R75 for tasks and handlers; its TID has the tile's task count before it advances:
the model's choice, so the first task's is 0x80000000 (log 58). -/
def State.startThread (s : State) (t core n : Nat) (g : Gang) (r : Resid) (kind : Kind) (entry : VAddr) (c1 c2 c3 : Reg)
    (fmt : BitVec 19) : State :=
  let tid : BitVec 32 := BitVec.ofNat 32 (0x80000000 + (s.tile t).tasks % 2 ^ 31)
  let seed := g.seed ^^^ tid
  let (id, s) := s.fresh
  let th : Thread :=
    { Thread.idle with
      pcc := g.code.withCursor entry, regs := (((Vector.replicate 16 Reg.zero).set 1 c1).set 2 c2).set 3 c3, tid := tid,
      seed := if seed = 0 then 1 else seed, fmt := fmt, id := id, kind := kind, asid := g.asid, lgen := g.lgen,
      loc := .slot t core n, ltn := r.ltn, park := s.operandWait }
  State.modTile { s with others := s.others ++ [th], free := s.free + 1 } t fun x => { x with tasks := x.tasks + 1 }

/-- A task starts from its record (R228). -/
def State.startTask (s : State) (t core n : Nat) (rec' : TaskRec) : State :=
  match s.gang? rec'.asid rec'.lgen, (s.tile t).resid? rec'.asid rec'.lgen with
  | some g, some r => s.startThread t core n g r .gang rec'.pc rec'.arg1 rec'.arg2 rec'.jc 0
  | _, _ => s

-- deques (R229, R230)
/-- Whether a record belongs to a gang. -/
def TaskRec.inGang (r : TaskRec) (asid lgen : Nat) : Bool := r.asid = asid && r.lgen = lgen

/-- Whether a record is still pending (R229). -/
def State.isPending (s : State) (r : TaskRec) : Bool := r.pending.any fun q => !s.settled q

/-- What becomes of a push: the record is placed, the spill must make room first, or there is no room (R230). -/
inductive Push where
  | done (s : State)
  | spill
  | full

/-- Push a record as the newest of a core's deque; it ends the core's back-off (R229-R231). -/
def State.push (s : State) (t core : Nat) (r : TaskRec) : Push :=
  let c := (s.tile t).core core
  if c.deque.length < 64 then
    .done (s.modCore t core fun c => { c with deque := c.deque ++ [r], steal := { c.steal with backoff := none } })
  else if c.spill.length < 4096 then .spill
  else .full

/-- The last element with a property, and the list without it. -/
def takeNewest (f : TaskRec → Bool) (l : List TaskRec) : Option (TaskRec × List TaskRec) :=
  match l.reverse.find? f with
  | some r => some (r, (l.reverse.eraseP f).reverse)
  | none => none

/-- The first element with a property, and the list without it. -/
def takeOldest (f : TaskRec → Bool) (l : List TaskRec) : Option (TaskRec × List TaskRec) :=
  match l.find? f with
  | some r => some (r, l.eraseP f)
  | none => none

/-- The oldest 32 records of a full hardware deque, or as many as fit, move to the spill and are counted in SPILLCNT (70) (R230). -/
def State.spillDeque (s : State) (t core : Nat) : State :=
  let c := (s.tile t).core core
  let n := min 32 (4096 - c.spill.length)
  if c.deque.length < 64 then s
  else (s.modCore t core fun c =>
    { c with deque := c.deque.drop n, spill := c.spill ++ (c.deque.take n).map fun r => { r with stk := s.stkOf r.asid r.lgen } }).bumpCore t core 70 n

/-- A task record as memory holds it, as a number of 512 bits (R228). -/
def TaskRec.bits (r : TaskRec) : Nat :=
  field r.jc.bits.toNat 384 + field r.arg2.bits.toNat 256 + field r.arg1.bits.toNat 128 + field r.pc.toNat 80 + field (r.asid % 4096) 68 +
  field (r.lgen % 65536) 52 + field (bit r.jc.tag) 51 + field (bit r.arg2.tag) 50 + field (bit r.arg1.tag) 49 + field (bit r.hook) 48

/-- The logical tile of a gang on a site: that of its residency entry (R349). -/
def State.entryName (s : State) (t asid lgen : Nat) : Ltn :=
  match (s.tile t).resid? asid lgen with | some r => r.ltn | none => s.tileName t

/-- Records that leave a core's spill: those written there before the current commit point get their undo records (R334). -/
def State.unspill (s : State) (t core : Nat) (rs : List (TaskRec × Nat)) : State :=
  rs.foldl (fun s (r, i) =>
    s.removeEntry t r.asid r.lgen 2 (s.spillAddr t (s.entryName t r.asid r.lgen) core i) r.stk (bytesOf 64 r.bits)) s

/-- Whether a pop of a core for a gang finds no record in hardware (R230): a slot is free, the gang is the one to be served, and no context of
it waits. -/
def State.popFails (s : State) (t core g : Nat) (next : Option Resid) (queued : Resid → Bool) : Bool :=
  !(s.freeSlots t core).isEmpty && next.any fun r => gangKey r.asid r.lgen = g && !queued r

/-- Up to 32 of the newest spill records return to hardware in their order (R230); R230 does not say what happens where the hardware deque has
fewer places free: the model moves as many as fit, and none where it is full (DESIGN CHOICE, log 53). -/
def State.refillDeque (s : State) (t core : Nat) : State :=
  let c := (s.tile t).core core
  let n := min (min 32 c.spill.length) (64 - c.deque.length)
  let keep := c.spill.length - n
  (s.unspill t core (c.spill.zipIdx.drop keep)).modCore t core fun c => { c with spill := c.spill.take keep, deque := (c.spill.drop keep).map (fun r => { r with stk := 0 }) ++ c.deque }

-- slot filling (R70)
/-- The first context of a gang in a site's queue that a core can seat: a coupled one needs a pair (R201). -/
def State.queuedFor (s : State) (t core : Nat) (r : Resid) : Option Thread :=
  (s.tile t).ctxq.findSome? fun id =>
    match s.thread? id with
    | some th =>
      if th.inGang r.asid r.lgen &&
         (th.tandem.isNone || (core % 2 = 0 && !(s.freeSlots t (core + 1)).isEmpty))
      then some th else none
    | none => none

/-- Whether a core has work of a gang waiting. -/
def State.workFor (s : State) (t core : Nat) (r : Resid) : Bool :=
  let c := (s.tile t).core core
  (s.queuedFor t core r).isSome || c.deque.any (fun x => x.inGang r.asid r.lgen) || c.spill.any fun x => x.inGang r.asid r.lgen

/-- The residency indices after a pointer, ascending and wrapping, the pointer's own last. -/
def indicesAfter (p : Nat) : List Nat := (List.range 4).map fun k => (p + 1 + k) % 4

/-- The gang a core serves next and the credit it keeps (R70). -/
def State.chooseGang (s : State) (t core : Nat) : Option (Resid × Nat) :=
  let c := (s.tile t).core core
  let rs := (s.tile t).runners.filter fun r => s.workFor t core r
  match rs.find? fun r => r.idx = c.rrPtr && 0 < c.credit with
  | some r => some (r, c.credit - 1)
  | none => ((indicesAfter c.rrPtr).findSome? fun i => rs.find? fun r => r.idx = i).map fun r => (r, r.weight - 1)

/-- DEQUE_REFILL (R230): where a pop for the gang finds no record of it in hardware and the spill holds one. -/
def execDequeRefill (t core g : Nat) (s : State) : Out :=
  let c := (s.tile t).core core
  let mine := fun (r : TaskRec) => decide (gangKey r.asid r.lgen = g)
  .next (if c.deque.any mine || !c.spill.any mine || !s.popFails t core g ((s.chooseGang t core).map (·.1)) (fun r => (s.queuedFor t core r).isSome)
         then s else s.refillDeque t core)

/-- Whether a core would take a context from the queue next: a slot is free, and the gang it is to serve has one there (R70). -/
def State.takesContext (s : State) (t core : Nat) : Bool :=
  !s.slotOwed t core && !(s.freeSlots t core).isEmpty && ((s.chooseGang t core).any fun r => (s.queuedFor t core r.1).isSome)

/-- Whether the queue hands its next context to a core: round robin over the cores that would take one, after the core served last (R70). -/
def State.fedNext (s : State) (t core : Nat) : Bool :=
  ((List.range 8).map fun k => ((s.tile t).feed + 1 + k) % 8).find? (s.takesContext t) = some core

/-- Fill a slot for a gang from the queue, in the core's turn, else from the bottom of the deque; a pending record or one in the spill is waited for. -/
def State.fillFor (s : State) (t core n : Nat) (r : Resid) : Option State :=
  match s.queuedFor t core r with
  | some th =>
    if s.fedNext t core then
      some ((s.modTile t fun x => { x with ctxq := x.ctxq.filter (· ≠ th.id), feed := core }).seat t core n ((s.freeSlots t (core + 1)).headD 0) th.id)
    else none
  | none =>
    match takeNewest (fun x => x.inGang r.asid r.lgen) ((s.tile t).core core).deque with
    | some (x, rest) =>
      if s.isPending x then none else some ((s.modCore t core fun c => { c with deque := rest }).startTask t core n x)
    | none => none

/-- SLOT_FILL (R70): a free general slot of a core, of several the lowest: R69 lets any take the thread (DESIGN CHOICE, log 53). -/
def execSlotFill (t core : Nat) (s : State) : Out :=
  .next (if 8 ≤ core || s.slotOwed t core then s
         else
           match s.freeSlots t core, s.chooseGang t core with
           | n :: _, some (r, credit) =>
             match s.fillFor t core n r with
             | some s => s.modCore t core fun c => { c with rrPtr := r.idx, credit := credit }
             | none => s
           | _, _ => s)

/-- A register that a thread's next instruction reads is not in the operand cache: its slot is not ready until it is filled (R73). -/
def State.missOperand (s : State) (th : Nat) : State :=
  s.modThread th fun x => if x.loc.inSlot && x.park.isNone then { x with park := some .operand } else x

/-- OPERAND_CACHE_FILL (R73): the registers a waiting thread reads are there. -/
def execOperandCacheFill (th : Nat) (s : State) : Out :=
  .next (s.modThread th fun x => if x.park = some .operand then { x with park := none } else x)

-- stealing (R231-R234)
/-- Grid coordinates of a logical tile (R384). -/
def gridX (name : Ltn) : Nat := ltnZone name % 9 * 16 + ltnIndex name % 16
def gridY (name : Ltn) : Nat := ltnZone name / 9 * 10 + ltnIndex name / 16

/-- The logical tile of a module at grid coordinates (R384). -/
def gridTile (m x y : Nat) : Ltn := ltnOf m (y / 10 * 9 + x / 16) (y % 10 * 16 + x % 16)

/-- The steal circle of a tile of a gang, without excused tiles and itself (R386). -/
def Gang.circle (g : Gang) (own : Ltn) : List Ltn :=
  (g.steal.map fun (dx, dy) =>
    gridTile (ltnModule own) (((gridX own : Int) - g.x0 + dx).emod g.w + g.x0).toNat (((gridY own : Int) - g.y0 + dy).emod g.h + g.y0).toNat).filter
      fun x => x ≠ own && !g.excused.contains x

/-- Whether a core's deque holds a record that a pop could take. -/
def State.poppable (s : State) (t core : Nat) : Bool :=
  let c := (s.tile t).core core
  (s.tile t).runners.any fun r =>
    match takeNewest (fun x => x.inGang r.asid r.lgen) (c.spill ++ c.deque) with
    | some (x, _) => !s.isPending x
    | none => false

/-- The core of the tile asked after another, passing over the thief's own (R231). -/
def nextCoreAsked (own last : Nat) : Nat := let c := (last + 1) % 8; if c = own then (c + 1) % 8 else c

/-- The next request of a round (R231): the steal state and the victim, a core of the tile or a tile of the circle. -/
def nextVictim (core : Nat) (g : Gang) (r : Resid) (x : Steal) : Steal × Option (Ltn × Option Nat) :=
  let circle := g.circle r.ltn
  if x.asked < 7 then
    let c := nextCoreAsked core x.coreAt
    ({ x with coreAt := c }, some (r.ltn, some c))
  else if x.asked < 7 + circle.length then
    let e := (x.tileAt + 1) % circle.length
    ({ x with tileAt := e }, some (circle.getD e 0, none))
  else (x, none)

/-- The gang of a core's round, the one under way if it runs, else the next running resident gang (R231); one that is not launched yet has no
threads and does not run. -/
def State.roundGang (s : State) (t : Nat) (x : Steal) : Option (Resid × Steal) :=
  let rs := (s.tile t).runners.filter fun r => (s.gang? r.asid r.lgen).any fun g => !g.tiles.isEmpty
  match rs.find? fun r => x.gang = some (gangKey r.asid r.lgen) with
  | some r => some (r, x)
  | none =>
    ((indicesAfter x.gangPos).findSome? fun i => rs.find? fun r => r.idx = i).map fun r =>
      (r, { x with gang := some (gangKey r.asid r.lgen), gangPos := r.idx, asked := 0 })

/-- A steal message enters the steal network: at once there where thief and victim share a tile, else along the active route tables (R232). -/
def State.sendSteal (s : State) (m : StealMsg) : State :=
  let s : State := { s with steals := s.steals ++ [m] }
  if m.thief = m.victim then s
  else
    let own := if m.refusal then m.victim else m.thief
    let dst := if m.refusal then m.thief else m.victim
    s.send (s.siteOf own) own dst m.asid m.lgen (.steal m.id)

/-- STEAL_START (R231): a core with a free slot, no queued context of a running gang and nothing to pop sends one request. -/
def execStealStart (t core : Nat) (s : State) : Out :=
  let x := ((s.tile t).core core).steal
  let queued := (s.tile t).ctxq.any fun id =>
    match s.thread? id with | some th => (s.tile t).runners.any fun r => th.inGang r.asid r.lgen | none => false
  .next (if 8 ≤ core || x.waiting.isSome || x.backoff.isSome || queued || s.poppable t core then s
         else
           match s.freeSlots t core, s.roundGang t x with
           | n :: _, some (r, x) =>
             match s.gang? r.asid r.lgen with
             | none => s
             | some g =>
               match nextVictim core g r x with
               | (x, some (victim, vc)) =>
                 let (id, s) := s.fresh
                 let m : StealMsg := { id := id, refusal := false, thief := r.ltn, thiefCore := core, victim := victim, victimCore := vc,
                                       asid := r.asid, lgen := r.lgen }
                 (s.sendSteal m).modCore t core fun c =>
                   { c with steal := { x with waiting := some id, sentAt := s.time, slot := n } }
               | (x, none) => s.modCore t core fun c => { c with steal := { x with gang := none, backoff := some s.time } }
           | _, _ => s)

/-- A request of a core counts as refused (R231, R232): the next victim is asked next, or the round ends in a back-off. -/
def State.refused (s : State) (t core : Nat) : State :=
  let x := ((s.tile t).core core).steal
  let circle :=
    match (s.tile t).resid.find? fun r => x.gang = some (gangKey r.asid r.lgen) with
    | some r => (match s.gang? r.asid r.lgen with | some g => (g.circle r.ltn).length | none => 0)
    | none => 0
  let finished := decide (7 + circle ≤ x.asked + 1)
  s.modCore t core fun c =>
    { c with steal := { x with waiting := none, asked := x.asked + 1, gang := if finished then none else x.gang,
                               backoff := if finished then some s.time else x.backoff } }

/-- Take the oldest record of a gang from a core, from the spill if the spill holds one (R229). -/
def Core.stealFrom (c : Core) (asid lgen : Nat) : Option (TaskRec × Core) :=
  match takeOldest (fun x => x.inGang asid lgen) c.spill with
  | some (r, rest) => some (r, { c with spill := rest })
  | none =>
    match takeOldest (fun x => x.inGang asid lgen) c.deque with
    | some (r, rest) => some (r, { c with deque := rest })
    | none => none

/-- The first core of a victim that holds a record of the gang which runs there. -/
def State.victimCore (s : State) (m : StealMsg) : Option (Nat × Nat × TaskRec × Core) :=
  let v := s.siteOf m.victim
  if !((s.tile v).runners.any fun r => r.asid = m.asid && r.lgen = m.lgen) then none
  else
    (match m.victimCore with | some c => [c] | none => List.range 8).findSome? fun c =>
      (((s.tile v).core c).stealFrom m.asid m.lgen).map fun (r, rest) => (v, c, r, rest)

/-- Whether a core fills a slot from its deque with a record of a gang now: the owner's pop, which goes before every steal (R70, R233). -/
def State.popDue (s : State) (t core asid lgen : Nat) : Bool :=
  !s.slotOwed t core && !(s.freeSlots t core).isEmpty &&
  ((s.chooseGang t core).any fun r =>
    r.1.asid = asid && r.1.lgen = lgen && (s.queuedFor t core r.1).isNone &&
    (takeNewest (fun x => x.inGang asid lgen) ((s.tile t).core core).deque).any fun x => !s.isPending x.1)

/-- A request that has reached a pending record and waits for it (R229), or a core whose own pop for the gang goes first (R233). -/
def State.stealWaits (s : State) (m : StealMsg) : Bool :=
  !m.refusal &&
  (match s.victimCore m with
   | some (v, c, r, _) => s.isPending r || s.popDue v c m.asid m.lgen
   | none => false)

/-- Source and destination of a steal message. -/
def StealMsg.path (m : StealMsg) : Ltn × Ltn := if m.refusal then (m.victim, m.thief) else (m.thief, m.victim)

/-- Whether a packet carries a steal message. -/
def Packet.carries (id : Nat) (p : Packet) : Bool := match p.body with | .steal k => k = id | _ => false

/-- Whether a steal message has come to its tile, and no earlier one between the same two tiles is still on its way (R232). -/
def State.stealInOrder (s : State) (m : StealMsg) : Bool :=
  let ahead := s.steals.takeWhile fun x => x.id ≠ m.id
  m.thief = m.victim ||
  (!(ahead.any fun x => x.path = m.path && !s.stealWaits x) &&
   s.packets.all fun p => !p.carries m.id || p.pos = .arrived (s.siteOf m.path.2))

/-- A steal message leaves the network. -/
def State.dropSteal (s : State) (m : StealMsg) : State :=
  { s with steals := s.steals.filter (fun x => x.id ≠ m.id), packets := s.packets.filter fun p => !p.carries m.id }

/-- Whether a record that comes to a core for a request is due for the reserved slot: the request still waits and the gang runs (R234). -/
def State.slotDue (s : State) (t core req asid lgen : Nat) : Bool :=
  decide (((s.tile t).core core).steal.waiting = some req) && (s.tile t).runners.any fun e => e.asid = asid && e.lgen = lgen

/-- A record that reaches its thief (R232, R234): it starts in the reserved slot, or is pushed where the request no longer waits or the
gang is pre-empted; it sets RECV (R270), and one from another tile ends the back-offs (R231).  None where the deque has no room: R230 and R234 name
no cause for that push, and the model leaves the packet in the fabric, or the request at its victim, until there is room (DESIGN CHOICE,
log 53). -/
def State.obtain (s : State) (t core req : Nat) (r : TaskRec) (arrived : Bool) : Option State :=
  let x := ((s.tile t).core core).steal
  let waiting := decide (x.waiting = some req)
  let got := fun (s : State) =>
    let s := s.bumpCore t core 68 1
    let s := s.received t r.asid r.lgen
    (if arrived then s.wakeThieves t else s).modCore t core fun c =>
      if waiting then { c with steal := { c.steal with waiting := none, gang := none, asked := 0 } } else c
  if s.slotDue t core req r.asid r.lgen then some (got (s.startTask t core x.slot r))
  else match s.push t core r with | .done s => some (got s) | _ => none

/-- STEAL_REQUEST (R229, R231-R234): the victim serves a thief, sends the record over VC0, or refuses. -/
def execStealRequest (msg : Nat) (s : State) : Out :=
  match s.steals.find? fun m => m.id = msg with
  | none => .next s
  | some m =>
    .next (if m.refusal || !s.stealInOrder m || s.stealWaits m then s
           else
             match s.victimCore m with
             | none =>
               (s.dropSteal m).sendSteal { m with refusal := true }
             | some (v, c, r, rest) =>
               let held := ((s.tile v).core c).spill.zipIdx.filter fun e => e.1 = r
               let s' := (((s.dropSteal m).unspill v c (held.take 1)).modCore v c fun _ => rest).bumpCore v c 69 1
               let r := { r with stk := 0 }
               if m.thief = m.victim then (s'.obtain v m.thiefCore m.id r false).getD s
               else s'.send v m.victim m.thief m.asid m.lgen (.task r m.thiefCore m.id))

/-- Whether a push on a core has met a full hardware deque (R230): a thread's `spawn`, a hook record held by the event engine, or a record that
has come for the core and is not due for a reserved slot. -/
def State.pushWaits (s : State) (t core : Nat) : Bool :=
  (s.threads.any fun th => th.park = some .deque && th.loc.inSlot && th.loc.site = t && th.loc.core = core) ||
  ((s.tile t).ev.hook.any fun h => h.1 = core) ||
  (s.packets.any fun p => s.arrivedAt p = some t &&
    (match p.body with
     | .task r c req =>
       c = core && !s.slotDue t core req r.asid r.lgen && (s.residentAt t p.asid p.lgen p.dst).any fun e => !e.quenching
     | _ => false)) ||
  s.steals.any fun m => !m.refusal && m.thief = m.victim && m.thiefCore = core && s.siteOf m.thief = t &&
    !s.slotDue t core m.id m.asid m.lgen && !s.stealWaits m && (s.victimCore m).isSome

/-- DEQUE_SPILL (R230): once a push has met 64 records in hardware. -/
def execDequeSpill (t core : Nat) (s : State) : Out := .next (if s.pushWaits t core then s.spillDeque t core else s)

/-- STEAL_REFUSAL (R231, R232). -/
def execStealRefusal (msg : Nat) (s : State) : Out :=
  match s.steals.find? fun m => m.id = msg with
  | none => .next s
  | some m =>
    .next (if !m.refusal || !s.stealInOrder m then s
           else
             let t := s.siteOf m.thief
             let s := s.dropSteal m
             if ((s.tile t).core m.thiefCore).steal.waiting = some m.id then s.refused t m.thiefCore else s)

/-- STEAL_TIMEOUT (R232): 8,192 cycles without an answer count as a refusal. -/
def execStealTimeout (t core : Nat) (s : State) : Out :=
  let x := ((s.tile t).core core).steal
  .next (if x.waiting.isSome && decide (8192 ≤ s.time - x.sentAt) then s.refused t core else s)

/-- STEAL_BACKOFF_END (R231): 256 cycles after a round in which every victim refused. -/
def execStealBackoffEnd (t core : Nat) (s : State) : Out :=
  .next (match ((s.tile t).core core).steal.backoff with
         | some b => if 256 ≤ s.time - b then s.modCore t core fun c => { c with steal := { c.steal with backoff := none } } else s
         | none => s)

/-- TASK_RECORD_ARRIVAL (R234). -/
def execTaskRecordArrival (pk : Nat) (s : State) : Out :=
  s.withArrival pk fun s p t => s.heapOpen t p fun s =>
    match p.body with
    | .task r core req =>
      match s.residentAt t p.asid p.lgen p.dst with
      | none => ((s.bump t 61).ackPacket p t 3 0).dropPacket pk
      | some e =>
        if e.quenching then ((s.bump t 61).ackPacket p t 3 0).dropPacket pk
        else
          match s.obtain t core req r true with
          | some s => (s.ackPacket p t 0 0).dropPacket pk
          | none => s
    | _ => s

-- spawn (R235)
/-- Numbers of a thread's outstanding stores and remote operations, which a record of it awaits (R229). -/
def Thread.outstanding (th : Thread) : List Nat :=
  th.sb.filterMap fun x => match x with | .entry q _ _ _ _ _ _ _ => some q | .marker _ _ => none

/-- `spawn` (R235). -/
def execSpawn (p : Pfx) (a b : RegNo) (off : Word) (s : State) : Out :=
  guarded 1 p s fun s => s.boundary fun s =>
    s.checked (checkCap (s.codeAt (s.target off)) 2 permX) fun pc =>
      let r : TaskRec := { pc := pc, arg1 := s.reg a, arg2 := s.reg b, jc := s.thr.jc, asid := s.thr.asid, lgen := s.thr.lgen,
                           hook := false, pending := s.thr.outstanding }
      match s.push s.tileNo s.coreNo r with
      | .done s => s.retire 1 p
      | .spill => s.parkOn .deque
      | .full => s.takeTrap 0x13 4160

end Sys2Proof.Machine
end

