-- ==== Sys2Proof/Machine/Messages.lean ====
section
/-! DEFINITION. Mailboxes, copy tags and copies (spec/10_tasks_messages_copies.md R239-R252). -/
namespace Sys2Proof.Machine

-- mailboxes (R239-R242)
/-- Mailbox m of a core. -/
def Core.box (c : Core) (m : Nat) : List Msg := assocGet m [] c.mbx

/-- Update a mailbox of a core. -/
def State.modBox (s : State) (t core m : Nat) (f : List Msg → List Msg) : State :=
  s.modCore t core fun c => { c with mbx := assocSet m (f (c.box m)) c.mbx }

/-- `msend` (R241): c15 as the first register is refused before the guard (R39, R42). -/
def execMsend (p : Pfx) (d a : RegNo) (s : State) : Out :=
  if d = 15 then .next (s.illegal (.msend p d a))
  else if !s.guardHolds p then .next (s.retire 1 p)
  else
    let v := s.x a
    let name := wbits v 18 0
    if wbits v 63 25 ≠ 0 then .next (s.takeTrap 0x01 v)
    else
      s.withName name fun s t =>
        if !s.gangTile name then .next (s.takeTrap 0x09 (BitVec.ofNat 64 name))
        else
          let data : BitVec 256 := (s.reg (d + 1)).bits ++ (s.reg d).bits
          .next (s.enter (.msg name (wbits v 21 19) (wbits v 24 22) data) 0 (.tile t 0 name) .plain .system fun s _ => s.retire 1 p)

/-- The lowest mailbox of a mask that holds a message of a gang (R242). -/
def Core.ready (c : Core) (mask : Nat) (asid lgen : Nat) : Option Nat :=
  (List.range 8).find? fun m => mask.testBit m && (c.box m).any fun x => x.asid = asid && x.lgen = lgen

/-- Whether a thread of the gang that parked earlier in `recv` on this core is to be served first (R242). -/
def State.recvWaits (s : State) : Bool :=
  let c := (s.tile s.tileNo).core s.coreNo
  (c.recvq.takeWhile fun id => id ≠ s.thr.id).any fun id =>
    match s.thread? id with
    | some th =>
      th.inGang s.thr.asid s.thr.lgen && decide (th.loc.site = s.tileNo) && decide (th.loc.core = s.coreNo) && th.loc.inSlot &&
      (match th.park with | some (.recv mask) => (c.ready mask.toNat th.asid th.lgen).isSome | _ => false)
    | none => false

/-- `recv` (R242). -/
def execRecv (p : Pfx) (d a : RegNo) (s : State) : Out :=
  if d = 15 then .next (s.illegal (.recv p d a))
  else
    guarded 1 p s fun s => s.boundary fun s =>
      let mask : BitVec 8 := (s.x a).setWidth 8
      let c := (s.tile s.tileNo).core s.coreNo
      let mine := fun (x : Msg) => x.asid = s.thr.asid && x.lgen = s.thr.lgen
      if mask = 0 then s.retire 1 p
      else
        match (if s.recvWaits then none else c.ready mask.toNat s.thr.asid s.thr.lgen) with
        | none =>
          (s.modCore s.tileNo s.coreNo fun c => { c with recvq := if c.recvq.contains s.thr.id then c.recvq else c.recvq ++ [s.thr.id] }).parkOn
            (.recv mask)
        | some m =>
          match (c.box m).find? mine with
          | none => s
          | some x =>
            let s := (s.modBox s.tileNo s.coreNo m fun b => b.eraseP mine).modCore s.tileNo s.coreNo fun c =>
              { c with recvq := c.recvq.filter fun id => id ≠ s.thr.id }
            let s := (s.setReg d { tag := false, bits := x.data.setWidth 128 }).setReg (d + 1) { tag := false, bits := (x.data >>> 128).setWidth 128 }
            (s.setMbxn m).retire 1 p

/-- Key of a mailbox within its tile. -/
def boxKey (core m : Nat) : Nat := core * 8 + m

/-- Write a message to the overflow, counted in MBXOVF (71); none where it holds 16,384 (R239). -/
def State.overflow (s : State) (t key : Nat) (m : Msg) : Option State :=
  if 16384 ≤ (s.tile t).mbxOvf.length then none
  else some ((s.modTile t fun x => { x with mbxOvf := x.mbxOvf ++ [(key, { m with stk := s.stkOf m.asid m.lgen })] }).bump t 71)

/-- Cause 0x12, raised once while the overflow stays full (R227, R239). -/
def State.tellFull (s : State) (t : Nat) (p : Packet) : State :=
  if (s.tile t).mbxTold then s else (s.report t 0x12 p.asid p.lgen 0).modTile t fun x => { x with mbxTold := true }

/-- MAILBOX_MESSAGE_ARRIVAL (R239): written to its mailbox or the overflow, discarded where its gang is not resident, or refused
with STATUS 2; a refused message and those behind it from the same source keep their order.  A full mailbox without messages in the
overflow waits for the steward while the overflow has room, and is refused where it has none (R227). -/
def execMailboxMessageArrival (pk : Nat) (s : State) : Out :=
  s.withArrival pk fun s p t =>
    match p.body with
    | .msg _ seq core mbx m =>
      let x := s.tile t
      let key := boxKey core mbx
      let drop := ((s.bump t 61).ackPacket p t 3 0).dropPacket pk
      match x.residFor p.asid p.lgen p.dst with
      | none => drop
      | some r =>
        if r.quenching then drop
        else
          let first := x.refused.find? fun q => q.1 = p.src && q.2.1 = key
          let refuse := fun (s : State) =>
            let s := s.modTile t fun x =>
              { x with refused := if x.refused.any fun q => q.2.2 = seq then x.refused else x.refused ++ [(p.src, key, seq)] }
            (s.ackPacket p t 2 0).dropPacket pk
          let accept := fun (s : State) =>
            ((s.modTile t fun x => { x with refused := x.refused.filter fun q => q.2.2 ≠ seq }).ackPacket p t 0 0).dropPacket pk
          if first.any fun q => q.2.2 ≠ seq then refuse s
          else if x.mbxOvf.any fun o => o.1 = key then
            match s.overflow t key m with
            | some s => accept s
            | none => refuse (s.tellFull t p)
          else if ((x.core core).box mbx).length < 16 then accept (s.modBox t core mbx fun b => b ++ [m])
          else if x.mbxOvf.length < 16384 then s
          else refuse (s.tellFull t p)
    | _ => s

/-- Messages of a mailbox enter the overflow ahead of the later ones of it that are there already, so that replay keeps their order (R240). -/
def spillInto (key : Nat) (ms : List Msg) (l : List (Nat × Msg)) : List (Nat × Msg) :=
  l.takeWhile (fun o => o.1 ≠ key) ++ ms.map (fun m => (key, m)) ++ l.dropWhile fun o => o.1 ≠ key

/-- MAILBOX_SPILL (R239 step 1): from 14 messages down to 8, the newest move, oldest of them first, as the overflow has room, counted in
MBXOVF (71). -/
def execMailboxSpill (t core m : Nat) (s : State) : Out :=
  let b := ((s.tile t).core core).box m
  let n := min (b.length - 8) (16384 - (s.tile t).mbxOvf.length)
  let moved := (b.drop (b.length - n)).map fun y => { y with stk := s.stkOf y.asid y.lgen }
  .next (if 8 ≤ core || 8 ≤ m || b.length < 14 then s
         else moved.foldl (fun s _ => s.bump t 71)
           ((s.modBox t core m fun b => b.take (b.length - n)).modTile t fun x => { x with mbxOvf := spillInto (boxKey core m) moved x.mbxOvf }))

/-- The undo record of a message that leaves the overflow (R332, R334). -/
def State.leaveOverflow (t : Nat) (s : State) (o : Nat × Msg) : State :=
  s.removeEntry t o.2.asid o.2.lgen 3 (s.overflowAddr t (s.entryName t o.2.asid o.2.lgen) ((s.tile t).mbxOvf.idxOf o)) o.2.stk (bytesOf 32 o.2.data.toNat)

/-- MAILBOX_REPLAY (R239 step 3): below 8 messages, the oldest in the overflow return until 12 or none remain. -/
def execMailboxReplay (t core m : Nat) (s : State) : Out :=
  let b := ((s.tile t).core core).box m
  let key := boxKey core m
  let back := ((s.tile t).mbxOvf.filter fun o => o.1 = key).take (12 - b.length)
  .next (if 8 ≤ core || 8 ≤ m || 8 ≤ b.length then s
         else ((back.foldl (State.leaveOverflow t) s).modBox t core m fun b => b ++ back.map fun o => { o.2 with stk := 0 }).modTile t fun x =>
           { x with mbxOvf := (back.foldl (fun l _ => l.eraseP fun o => o.1 = key) x.mbxOvf), mbxTold := x.mbxTold && back.isEmpty })

/-- Send a refused message again. -/
def State.resendOne (s : State) (t id seq : Nat) : State :=
  match s.thread? id with
  | none => s
  | some th =>
    match th.sb.find? fun x => x.seq = seq with
    | some (.entry _ op va (.tile _ pa name) _ _ _ _) =>
      let pk := s.nextId
      (s.send t th.ltn name th.asid th.lgen (op.packet th seq pa va)).modThread id fun th => { th with sb := markSent seq pk th.sb }
    | _ => s

/-- Insert into a list by rising entry number. -/
def insertSeq (e : Nat × Nat × Nat) : List (Nat × Nat × Nat) → List (Nat × Nat × Nat)
  | [] => [e]
  | x :: r => if e.2.1 < x.2.1 then e :: x :: r else x :: insertSeq e r

/-- MESSAGE_RESEND (R239): the messages refused at least 64 cycles ago, in their original order. -/
def execMessageResend (t : Nat) (s : State) : Out :=
  let due := ((s.tile t).resend.filter fun e => 64 ≤ s.time - e.2.2).foldr insertSeq []
  .next (due.foldl (fun s e => s.resendOne t e.1 e.2.1)
    (s.modTile t fun x => { x with resend := x.resend.filter fun e => s.time - e.2.2 < 64 }))

-- copy tags (R245, R248)
/-- Set a copy tag of a gang on a core; a tag set twice sets its TAGOVF bit, and without a residency entry it is discarded (R245). -/
def State.setCopyTag (s : State) (t core key n : Nat) : State :=
  if ((s.tile t).resid.any fun r => gangKey r.asid r.lgen = key) then
    s.modTags t core key fun m =>
      let b : Word := 1 <<< n
      { tags := m.tags ||| b, ovf := if m.tags &&& b = 0 then m.ovf else m.ovf ||| b }
  else s

/-- The lowest set index of TAGS AND M, or all ones (R248). -/
def firstTag (x : Word) : Word := match lowestSet x with | some i => BitVec.ofNat 64 i | none => BitVec.allOnes 64

/-- `waitany` (R248). -/
def execWaitany (p : Pfx) (d a : RegNo) (s : State) : Out :=
  guarded 1 p s fun s =>
    let m := s.x a
    if m ≠ 0 && s.myTags.tags &&& m = 0 then s.parkOn (.tagsAny m) else (s.setX d (firstTag (s.myTags.tags &&& m))).retire 1 p

/-- `waitall` (R248). -/
def execWaitall (p : Pfx) (a : RegNo) (s : State) : Out :=
  guarded 1 p s fun s => if s.myTags.tags &&& s.x a = s.x a then s.retire 1 p else s.parkOn (.tagsAll (s.x a))

/-- `ffr` (R248). -/
def execFfr (p : Pfx) (d a : RegNo) (s : State) : Out :=
  guarded 1 p s fun s => (s.setX d (firstTag (s.myTags.tags &&& s.x a))).retire 1 p

/-- `tclr` (R248). -/
def execTclr (p : Pfx) (a : RegNo) (s : State) : Out :=
  guarded 1 p s fun s => (s.modTags s.tileNo s.coreNo s.myKey fun m => { m with tags := m.tags &&& ~~~(s.x a) }).retire 1 p

-- copies (R243, R244)
/-- Fields of a destination descriptor (R243). -/
def copyFull (d : Word) : Bool := d.getLsbD 63
def copyStag (d : Word) : Nat := wbits d 62 57
def copyDtag (d : Word) : Nat := wbits d 56 51
def copyDcore (d : Word) : Nat := wbits d 50 48
def copyOff (d : Word) : Nat := wbits d 38 19
def copyLtn (d : Word) : Nat := wbits d 18 0

/-- The checks of `send` before its name, in the order written (R244); `q` is the gang's number of quarters. -/
def sendCheck (a : Reg) (n : Nat) (d : Word) (q : Nat) : Except TrapVal Unit :=
  let cur := a.cursor
  let at' : Word := cur.setWidth 64
  if !a.tag then .error (0x03, 0)
  else if !a.can (permR ||| permENG) then .error (0x05, at')
  else if n = 0 || 786432 < n || cur.toNat < a.base || a.limit < cur.toNat + n then .error (0x04, at')
  else if cur.toNat % 32 ≠ 0 || n % 32 ≠ 0 then .error (0x06, at')
  else if inWindow cur && windowBytes q < winOffset cur + n then .error (0x04, at')
  else if wbits d 47 39 ≠ 0 then .error (0x01, d)
  else if copyOff d % 32 ≠ 0 then .error (0x06, d)
  else if windowBytes q < copyOff d + n then .error (0x04, d)
  else .ok ()

/-- Queue a copy on the tile's engine (R244). -/
def State.queueCopy (s : State) (a : Reg) (n : Nat) (d : Word) : State :=
  let t := s.tileNo
  let (id, s) := s.fresh
  let c : Copy := { id := id, asid := s.thr.asid, lgen := s.thr.lgen, ltn := s.thr.ltn, core := s.coreNo, cap := a, n := n, desc := d, done := 0,
                    ended := false, miss := none, unmapped := none, pks := [] }
  s.modTile t fun x => { x with copies := s.copiesOut t ++ [c] }

/-- `send` (R244). -/
def execSend (p : Pfx) (d a b : RegNo) (s : State) : Out :=
  if !s.guardHolds p then .next (s.retire 1 p)
  else if s.thr.intervalOpen then .next (s.parkOn .follower)
  else
    match sendCheck (s.reg a) (s.x b).toNat (s.x d) s.quarters.length with
    | .error (c, v) => .next (s.takeTrap c v)
    | .ok _ =>
      let name := copyLtn (s.x d)
      s.withName name fun s _ =>
        .next (if !s.gangTile name then s.takeTrap 0x09 (BitVec.ofNat 64 name)
               else if 0 < unsent s.thr.sb then s.parkOn .sbEmpty
               else if 16 ≤ (s.copiesOut s.tileNo).length then s.parkOn .copySlot
               else (s.queueCopy (s.reg a) (s.x b).toNat (s.x d)).retire 1 p)

-- the copy engine (R246, R247)
/-- Whether a copy can send its next packet now, as far as its translation goes. -/
def Copy.active (c : Copy) : Bool := !c.ended && c.done < c.n && c.miss.isNone

/-- Update a copy. -/
def State.modCopy (s : State) (t id : Nat) (f : Copy → Copy) : State :=
  s.modTile t fun x => { x with copies := x.copies.map fun c => if c.id = id then f c else c }

/-- A copy whose source cannot be read ends with cause 0x14, EVAL the address of the first 32 bytes that cannot be read (R246; log 37). -/
def State.copyFault (s : State) (t : Nat) (c : Copy) (va : Nat) : State :=
  (s.modCopy t c.id fun c => { c with ended := true }).report t 0x14 c.asid c.lgen (BitVec.ofNat 64 va)

/-- Home of a source flit under an entry, if it is this logical tile's (R246). -/
def State.flitHome (s : State) (t : Nat) (own : Ltn) (e : Nat × Word) (va : VAddr) : Option Nat :=
  let d := e.2
  let o := pageOffset e va
  match descType d with
  | 1 => if descRpl d || wbits d 50 32 = own then some (vaultKey t (wbits d 12 0 * 16384 + o)) else none
  | 2 =>
    let m := wbits d 50 47
    let zn := wbits d 46 40
    let z := s.zone (m * 128 + zn)
    let x := wbits d 31 0 + o / 128
    if z.stripeP ≤ x / 16384 then none
    else if ltnOf m zn (z.liveIndices.getD (homeIndex z.live x) 0) ≠ own then none
    else
      let v := s.shelfLine (m * 128 + zn) t x + o % 128
      if 2 ^ 27 ≤ v then none else some (vaultKey t v)
  | _ => none

/-- The source flits of the next packet: up to 8, within one 16 KiB page and within the copy. -/
def Copy.flits (c : Copy) : Nat :=
  let va := c.cap.cursor.toNat + c.done
  min (min 8 ((c.n - c.done) / 32)) ((16384 - va % 16384) / 32)

/-- Send the next packet of a copy from the keys of its source flits; the last read sets STAG, and the copy goes behind the others. -/
def State.sendFlits (s : State) (t : Nat) (own : Ltn) (c : Copy) (keys : List Nat) : State :=
  match keys.findSome? fun pa => s.readWaits c.id pa 32 with
  | some w => s.startWait c.id w
  | none =>
    let s := keys.foldl (fun s pa => s.throughSlice c.id pa 32) s
    let n := 32 * keys.length
    let last := decide (c.done + n = c.n)
    let tagged := c.cap.can permLC
    let pk := s.nextId
    let body : Payload :=
      .copy c.id (copyOff c.desc + c.done) (keys.flatMap fun pa => s.bytes pa 32)
        (keys.flatMap fun pa => [s.tagAt pa, s.tagAt (pa + 16)]) (keys.map fun pa => s.psnAt pa) tagged (copyFull c.desc) last
        (copyDcore c.desc) (copyDtag c.desc)
    let s := s.send t own (copyLtn c.desc) c.asid c.lgen body
    let s := s.modTile t fun x =>
      { x with copies := (x.copies.filter fun k => k.id ≠ c.id) ++ [{ c with done := c.done + n, pks := c.pks ++ [pk] }] }
    if last then s.setCopyTag t c.core (gangKey c.asid c.lgen) (copyStag c.desc) else s

/-- COPY_PACKET_SEND (R246, R247): the first copy in turn translates its source and sends one packet. -/
def execCopyPacketSend (t : Nat) (s : State) : Out :=
  .next (match (s.tile t).copies.find? Copy.active with
         | none => s
         | some c =>
           let va : VAddr := c.cap.cursor + BitVec.ofNat 48 c.done
           match (s.tile t).residFor c.asid c.lgen c.ltn with
           | none => s.modCopy t c.id fun c => { c with ended := true }
           | some r =>
             let vas := (List.range c.flits).map fun i => va + BitVec.ofNat 48 (32 * i)
             if inWindow va then s.sendFlits t r.ltn c (vas.map fun a => windowKey t r.quarters (winOffset a))
             else if c.unmapped = some va.toNat then s.copyFault t c va.toNat
             else
               match s.lookup t 8 c.asid va.toNat with
               | (none, s) =>
                 ((s.bump t 55).modTile t fun x => x.recordMiss { kind := 5, asid := c.asid, va := va.toNat }).modCopy t c.id fun c =>
                   { c with miss := some va.toNat }
               | (some e, s) =>
                 match vas.find? fun a => (s.flitHome t r.ltn e a).isNone with
                 | some a => s.copyFault t c a.toNat
                 | none => s.sendFlits t r.ltn c (vas.filterMap fun a => s.flitHome t r.ltn e a))

/-- Write one flit of a copy with its tags, poison and full bits (R109, R246, R247); flits count from 0. -/
def State.writeFlit (s : State) (p : Packet) (pa : Nat) (bs : List Byte) (tags : List Bool) (psn tagged full : Bool) : State :=
  let s := s.change p.asid p.lgen pa 32 fun s =>
    let s := s.poke pa bs
    let s := if tagged then (s.setTag pa (tags.getD 0 false)).setTag (pa + 16) (tags.getD 1 false) else s
    let s := s.setPoison pa psn
    if full then (List.range 4).foldl (fun s i => s.setFull (pa + 8 * i) true) s else s
  if full then (List.range 4).foldl (fun s i => s.wake (pa + 8 * i)) s else s

/-- COPY_PACKET_ARRIVAL (R247): each flit is written, LAST sets DTAG, and the packet is acknowledged. -/
def execCopyPacketArrival (pk : Nat) (s : State) : Out :=
  s.withArrival pk fun s p t =>
    match p.body with
    | .copy _ off data tags psn tagged full last core tag =>
      match s.residentAt t p.asid p.lgen p.dst with
      | none => ((s.bump t 61).ackPacket p t 3 0).dropPacket pk
      | some r =>
        if r.quenching then ((s.bump t 61).ackPacket p t 3 0).dropPacket pk
        else
          let keys := (List.range (data.length / 32)).map fun i => windowKey t r.quarters (off + 32 * i)
          match keys.findSome? fun pa => s.writeWaits pk p.asid p.lgen pa 32 with
          | some w => s.startWait pk w
          | none =>
            let s := keys.foldl (fun s pa => s.throughSlice pk pa 32) s
            let s := (List.range keys.length).foldl (fun s i =>
              s.writeFlit p (keys.getD i 0) ((data.drop (32 * i)).take 32) ((tags.drop (2 * i)).take 2) (psn.getD i false) tagged full) s
            let s := if last then s.setCopyTag t core (gangKey p.asid p.lgen) tag else s
            (s.ackPacket p t 0 0).dropPacket pk
    | _ => s

end Sys2Proof.Machine
end

