-- ==== Sys2Proof/Machine/Gong.lean ====
section
/-! DEFINITION. The bell network and the gong: segment slots, sweeps, rounds and releases (spec/11_ordering.md R258;
spec/12_gong_strokes.md R266-R282). -/
namespace Sys2Proof.Machine

-- the bell network (R258)
/-- BELL_WINDOW_CLOSE (R258): the window count of the domain advances. -/
def execBellWindowClose (s : State) : Out := .next { s with bellWin := s.bellWin + 1 }

/-- Whether the load-store domain holds more than one module (R389). -/
def State.manyModules (s : State) : Bool := s.modules.any fun m => m.2.peers.any fun p => p.2.getLsbD 19 && p.1 ≠ m.1

/-- BELL_DELIVERY (R258): the announcements of window w, and of those before it, are at every tile: 96 cycles, 3 windows, after its
close in a domain of one module, 4,200 cycles in a larger one. -/
def execBellDelivery (w : Nat) (s : State) : Out :=
  .next (if w + (if s.manyModules then 132 else 4) ≤ s.bellWin then { s with bellDone := max s.bellDone (w + 1) } else s)

-- segment records (R267)
/-- Fields of a segment record. -/
def segV (w : Word) : Bool := w.getLsbD 63
def segAsid (w : Word) : Nat := wbits w 59 48
def segGen (w : Word) : Nat := wbits w 47 32
def segKind (w : Word) : Nat := wbits w 31 30
def segLink (w : Word) : Nat := wbits w 29 24
def segDom (w : Word) : Nat := wbits w 23 0

/-- Node numbers: a field by its zone key, a module's root, and the level-3 combination at the root of the lowest module. -/
def rootNode (m : Nat) : Nat := m * 128 + 127
def topNode (m : Nat) : Nat := m * 128 + 126

/-- Key of a slot of a node. -/
def gongKey (node slot : Nat) : Nat := node * 64 + slot

/-- A slot that holds nothing. -/
def GongSlot.empty : GongSlot :=
  { record := 0, prevArr := false, prevMix := false, sweep := [], last := [], commit := false, value := 0 }

/-- A slot of a node. -/
def State.gongSlot (s : State) (key : Nat) : GongSlot := assocGet key .empty s.gong

/-- Update a slot. -/
def State.modGong (s : State) (key : Nat) (f : GongSlot → GongSlot) : State :=
  { s with gong := assocSet key (f (s.gongSlot key)) s.gong }

/-- The record that governs a slot: the level-3 combination uses the root's. -/
def State.segment (s : State) (node slot : Nat) : Word :=
  (s.gongSlot (gongKey (if node % 128 = 126 then node + 1 else node) slot)).record

/-- Whether a gang spans several modules (R273). -/
def Gang.spans (g : Gang) : Bool := g.mlo ≠ g.mhi

/-- The level at which a `garr` of a gang takes part: level 3 is level 2 for a gang on one module (R278). -/
def State.effLevel (s : State) (asid lgen k : Nat) : Nat :=
  match s.gang? asid lgen with
  | some g => if k = 3 && !g.spans then 2 else k
  | none => if k = 3 then 2 else k

/-- The level of the rounds that a slot of a node completes, if it completes any (R267, R268). -/
def State.roundLevel (s : State) (node slot : Nat) : Option Nat :=
  let w := s.segment node slot
  if !segV w then none
  else
    match segKind w, node % 128 with
    | 0, n => if n ≤ 80 then some 0 else none
    | 1, 127 => some 1
    | 2, 127 => some 2
    | 2, 126 => if (match s.gang? (segAsid w) (segGen w) with | some g => g.spans | none => false) && segLink w / 4 = node / 128 then some 3 else none
    | _, _ => none

/-- Whether a tile with a residency entry is a member of the rounds of a slot (R268). -/
def State.isMember (s : State) (node slot k t : Nat) (r : Resid) : Bool :=
  let w := s.segment node slot
  r.asid = segAsid w && r.lgen = segGen w &&
  (match r.doms.find? fun d => d.1 = k with
   | none => false
   | some (_, fs, _) =>
     if k = 0 then siteZone t = node && fs = slot
     else
       let f := s.segment (siteZone t) fs
       let root := s.segment (rootNode (siteModule t)) (segLink f)
       segV f && segAsid f = r.asid && segGen f = r.lgen && decide (segKind f = min k 2) &&
       (if k = 3 then segV root && segAsid root = r.asid && segGen root = r.lgen && decide (segKind root = 2) && decide (segLink root / 4 = node / 128)
        else decide (siteModule t = node / 128) && decide (segLink f = slot)))

/-- Member sites of a slot. -/
def State.members (s : State) (node slot k : Nat) : List Nat :=
  (s.tiles.filter fun x => x.2.resid.any fun r => s.isMember node slot k x.1 r).map (·.1)

-- arrival (R269, R270)
/-- Gang threads on a site that count for the rounds of some of its logical tiles: all but handlers (R269). -/
def State.roundThreads (s : State) (t asid lgen : Nat) (rs : List Resid) : List Thread :=
  s.threads.filter fun th => th.inGang asid lgen && th.loc.onTile && th.loc.site = t && !th.isHandler &&
    ((s.tile t).residFor asid lgen th.ltn).any rs.contains

/-- The level, operation and value with which a thread is parked in `garr`. -/
def Thread.garr (th : Thread) : Option (Nat × GOp × Word) :=
  match th.park with
  | some (.garr k op v _ _) => some (k, op, v)
  | _ => none

/-- Whether a VC0 or VC1 packet that a gang sent from a logical tile is unacknowledged (R269). -/
def State.gangOutbound (s : State) (asid lgen : Nat) (name : Ltn) : Bool :=
  s.packets.any fun p =>
    p.asid = asid && p.lgen = lgen &&
    ((p.vc < 2 && p.src = name) || (match p.body with | .ack _ _ _ => p.dst = name | .response _ _ _ _ _ _ _ => p.dst = name | _ => false))

/-- Whether the engines of a site are idle for a gang (R269 condition 4). -/
def State.enginesIdle (s : State) (t asid lgen : Nat) : Bool :=
  let x := s.tile t
  !(s.copiesOut t).any (fun c => c.asid = asid && c.lgen = lgen) &&
  !x.mat.queue.any (fun c => c.asid = asid && c.lgen = lgen) &&
  !x.cores.any (fun c => c.2.bufs.any fun h => h.asid = asid && h.lgen = lgen) &&
  !x.ev.runs.any fun r => r.asid = asid && r.lgen = lgen

/-- Conditions 2-4 of R269; entries that a handler thread left behind must leave first (R306). -/
def State.tileQuiesced (s : State) (t : Nat) (r : Resid) : Bool :=
  !(s.threads.any fun th => th.inGang r.asid r.lgen && th.loc.drains && th.loc.site = t) &&
  !(s.tile t).cores.any (fun c => (c.2.deque ++ c.2.spill).any fun x => x.inGang r.asid r.lgen) &&
  !s.gangOutbound r.asid r.lgen r.ltn && s.enginesIdle t r.asid r.lgen

/-- Identity of an operation and its combination of two values (R274). -/
def gopIdentity : GOp → Word
  | .add => 0
  | .min => 0x7FFFFFFFFFFFFFFF
  | .minu => 0xFFFFFFFFFFFFFFFF
  | .max => 0x8000000000000000
  | .maxu => 0
  | .and => 0xFFFFFFFFFFFFFFFF
  | .or => 0
  | .xor => 0

/-- Combination of two contributions (R274). -/
def gopCombine (op : GOp) (a b : Word) : Word :=
  match op with
  | .add => a + b
  | .min => if a.slt b then a else b
  | .minu => if a < b then a else b
  | .max => if a.slt b then b else a
  | .maxu => if a < b then b else a
  | .and => a &&& b
  | .or => a ||| b
  | .xor => a ^^^ b

/-- Combination of a list of contributions. -/
def gopCombineAll (op : GOp) (vs : List Word) : Word := vs.foldl (gopCombine op) (gopIdentity op)

/-- Whether a round of a gang at a level has completed and its tile still waits for the release. -/
def State.releaseDue (s : State) (t g k : Nat) : Bool := s.releases.any fun r => r.t = t && r.g = g && r.level = k

/-- What a member tile drives when it is sampled (R268-R270); where a site hosts two logical tiles of the gang (R348, R349), what both of those
that are members drive together. -/
def State.sample (s : State) (key k t asid lgen : Nat) (rs : List Resid) : Sample :=
  let ths := s.roundThreads t asid lgen rs
  let at' := fun (th : Thread) => match th.garr with | some (j, _, _) => decide (s.effLevel asid lgen j = k) | none => false
  let here := ths.filter at'
  let ready := (rs.all fun r => r.running && s.tileQuiesced t r) && !s.releaseDue t (gangKey asid lgen) k && !(s.gongSlot key).commit
  let ops := (here.filterMap fun th => th.garr.map fun x => x.2.1).eraseDups
  { t := t, arrived := ready && ths.all at', quiet := rs.all fun r => !r.recv, started := !here.isEmpty, ops := ops, level := k,
    value := match ops with | [op] => some (gopCombineAll op (here.filterMap fun th => th.garr.map fun x => x.2.2)) | _ => none,
    other := ready && (ths.all fun th => th.garr.isSome) && !ths.all at' }

-- gong faults (R276)
/-- Number of an operation (R274). -/
def gopCode : GOp → Nat
  | .add => 0
  | .min => 1
  | .minu => 2
  | .max => 3
  | .maxu => 4
  | .and => 5
  | .or => 6
  | .xor => 7

/-- EVAL of cause 0x15 (R276): DOMID is the slot's for a tile that is a member of one at the level. -/
def State.gongEval (s : State) (th : Thread) (sub : Nat) (op : GOp) (level : Nat) : Word :=
  let t := th.loc.site
  let dom :=
    match (s.tile t).residFor th.asid th.lgen th.ltn with
    | none => 0
    | some r =>
      match r.doms.find? fun d => d.1 = s.effLevel th.asid th.lgen level with
      | some (_, fs, _) => segDom (s.segment (siteZone t) fs)
      | none => 0
  BitVec.ofNat 64 (th.asid % 4096 * 2 ^ 36 + dom * 2 ^ 12 + sub * 2 ^ 5 + gopCode op * 4 + level)

/-- A thread parked in `garr` leaves its round and takes 0x15, counted in GFLT (77) (R276). -/
def State.gongTrap (sub : Nat) (s : State) (id : Nat) : State :=
  match s.thread? id with
  | none => s
  | some th =>
    match th.garr with
    | some (k, op, _) =>
      (s.bump th.loc.site 77).onThread id fun s => s.takeTrap 0x15 (s.gongEval th sub op k)
    | none => s

/-- Threads of a gang parked in `garr` on some sites, at one level or at any. -/
def State.parkedAt (s : State) (ts : List Nat) (asid lgen : Nat) (k : Option Nat) : List Nat :=
  (s.threads.filter fun th =>
    th.inGang asid lgen && th.loc.inSlot && ts.contains th.loc.site &&
    (match th.garr, k with
     | some (j, _, _), some k => s.effLevel asid lgen j = k
     | some _, none => true
     | none, _ => false)).map (·.id)

-- completion (R272, R273, R275)
/-- The release of a round to its member tiles, for the threads that are in the round there (R275). -/
def State.releaseRound (s : State) (ts : List Nat) (g k : Nat) (v : Word) : State :=
  { s with releases := s.releases ++ ts.map fun t =>
      { t := t, g := g, level := k, value := v, ths := s.parkedAt [t] (g / 65536) (g % 65536) (some k) } }

/-- Whether a round at a level of a gang commits (R273). -/
def State.commits (s : State) (asid lgen k : Nat) : Bool :=
  match s.gang? asid lgen with
  | some g => if g.spans then k = 3 else k = 2
  | none => false

/-- Whether a fault that came first keeps a gang from its next commit (R23). -/
def State.barred (s : State) (asid lgen : Nat) : Bool :=
  match s.gang? asid lgen with
  | some g => g.order.isSome || g.stopped
  | none => false

/-- The sites of a gang, and those where lines of its stroke or undo records of it stand (log 44). -/
def State.strokeSites (s : State) (asid lgen : Nat) : List Nat :=
  (s.tiles.filter fun x =>
    (x.2.resid? asid lgen).isSome || (x.2.undo.any fun u => u.asid = asid && u.lgen = lgen) ||
    x.2.slice.any fun z => z.lines.any fun l => l.round = some (gangKey asid lgen)).map (·.1)

/-- The end of a sweep: the round completes, faults, or goes on (R272, R276); sub-code 5 needs a thread parked at the slot's own level, since
it is the slot's round that it ends (log 43).  After a fault that calls for a rollback, or ends the gang, no commit phase begins (R23). -/
def State.endSweep (s : State) (node slot k : Nat) (asid lgen : Nat) : State :=
  let key := gongKey node slot
  let g := s.gongSlot key
  let xs := g.sweep
  let ts := xs.map (·.t)
  let arr := xs.all fun x => x.arrived
  let mix := (xs.all fun x => x.arrived || x.other) && (xs.any fun x => x.other) && xs.any fun x => x.started
  let ops := (xs.flatMap fun x => x.ops).eraseDups
  let next := fun (s : State) (arr mix : Bool) => s.modGong key fun g => { g with prevArr := arr, prevMix := mix, sweep := [], last := xs }
  if g.prevMix && mix then
    next ((s.parkedAt ts asid lgen none).foldl (State.gongTrap 5) s) false false
  else if g.prevArr && arr && (xs.all fun x => x.quiet) && xs.any (fun x => x.started) then
    match ops with
    | [op] =>
      if s.commits asid lgen k && s.barred asid lgen then next s arr mix
      else
      let v := gopCombineAll op (xs.filterMap fun x => x.value)
      let s := next s false false
      if s.commits asid lgen k then
        (s.modGong key fun g => { g with commit := true, value := v }).modGang asid lgen fun x =>
          { x with commit := some { todo := ts ++ (s.strokeSites asid lgen).filter (fun t => !ts.contains t), req := none, slot := key } }
      else s.releaseRound ts (gangKey asid lgen) k v
    | _ => next ((s.parkedAt ts asid lgen (some k)).foldl (State.gongTrap 3) s) false false
  else next s arr mix

/-- The logical tiles of a site that are members of the rounds of a slot. -/
def State.membersAt (s : State) (node slot k t : Nat) : List Resid := (s.tile t).resid.filter fun r => s.isMember node slot k t r

/-- GONG_SWEEP (R271, R272): a member tile that this sweep has not sampled is sampled, its RECV cleared; once every tile that is a member now
has been sampled the sweep ends. -/
def execGongSweep (node slot t : Nat) (s : State) : Out :=
  .next (match s.roundLevel node slot with
         | none => s
         | some k =>
           let w := s.segment node slot
           let key := gongKey node slot
           let rs := s.membersAt node slot k t
           let s := if rs.isEmpty || (s.gongSlot key).sweep.any (fun x => x.t = t) then s
                    else (s.modGong key fun g => { g with sweep := g.sweep ++ [s.sample key k t (segAsid w) (segGen w) rs] }).modTile t fun y =>
                      y.modResid (segAsid w) (segGen w) fun r => { r with recv := false }
           let seen := (s.gongSlot key).sweep.map (·.t)
           if !seen.isEmpty && (s.members node slot k).all seen.contains then s.endSweep node slot k (segAsid w) (segGen w) else s)

/-- Add one to the rounds a tile has seen at a level (R281). -/
def Resid.countRound (r : Resid) (k : Nat) : Resid := { r with rounds := assocSet k (assocGet k 0 r.rounds + 1) r.rounds }

/-- A thread parked in `garr` receives the result and retires (R275). -/
def State.finishGarr (v : Word) (s : State) (id : Nat) : State :=
  match s.thread? id with
  | some { park := some (.garr _ _ _ d len), .. } =>
    s.onThread id fun s => ((s.setX d v).setGval v).retireTo (s.pc + BitVec.ofNat 48 len)
  | _ => s

/-- ROUND_RELEASE (R275, R277): every thread of the round on the tile receives the result, and no thread that has come to its next one there;
a release to a pre-empted gang is owed until it is restored.  The release of a committing round opens the next stroke (R263). -/
def execRoundRelease (t g level : Nat) (s : State) : Out :=
  let asid := g / 65536
  let lgen := g % 65536
  .next (match s.releases.find? (fun r => r.t = t && r.g = g && r.level = level), (s.tile t).resid? asid lgen with
         | some rel, some r =>
           if r.preempted then s
           else
             let s := ({ s with releases := s.releases.erase rel } : State).bump t 76
             let s := s.modTile t fun x => x.modResid asid lgen fun r => r.countRound level
             let s := if s.commits asid lgen level then s.modGang asid lgen fun y => { y with strokeOpen := true } else s
             ((s.parkedAt [t] asid lgen (some level)).filter rel.ths.contains).foldl (State.finishGarr rel.value) s
         | some rel, none => { s with releases := s.releases.erase rel }
         | none, _ => s)

/-- Whether a thread's round has completed and its release is still due on its tile: it is in no round any more. -/
def State.released (s : State) (t g k : Nat) (id : Nat) : Bool := s.releases.any fun r => r.t = t && r.g = g && r.level = k && r.ths.contains id

/-- `garr` (R278). -/
def execGarr (p : Pfx) (d a : RegNo) (op : GOp) (level : BitVec 2) (s : State) : Out :=
  guarded 3 p s fun s =>
    let th := s.thr
    let k := s.effLevel th.asid th.lgen level.toNat
    let t := s.tileNo
    let trap := fun (s : State) (sub : Nat) => s.boundary fun s => (s.bump t 77).takeTrap 0x15 (s.gongEval th sub op level.toNat)
    if th.kind ≠ .gang || s.myGang.isNone then trap s 4
    else
      match (s.tile t).residFor th.asid th.lgen th.ltn with
      | none => trap s 1
      | some r =>
        if !(r.doms.any fun x => x.1 = k) then trap s 1
        else
          s.boundary fun s => s.whenDrained fun s =>
            let s := s.parkOn (.garr level.toNat op (s.x a) d (instrBytes 3 p))
            let mates := s.threads.filter fun o => o.inGang th.asid th.lgen && o.loc.inSlot && o.loc.site = t
            let old := s.released t (gangKey th.asid th.lgen) k
            let here := (mates.filter fun o => !old o.id).filterMap Thread.garr
            if (mates.filterMap Thread.garr).any fun x => s.effLevel th.asid th.lgen x.1 ≠ k then
              (s.parkedAt [t] th.asid th.lgen none).foldl (State.gongTrap 2) s
            else if here.any fun x => x.2.1 ≠ op then
              ((s.parkedAt [t] th.asid th.lgen (some k)).filter fun id => !old id).foldl (State.gongTrap 3) s
            else s

/-- Whether a round of a slot is under way: a thread has started it, or its commit or release is due. -/
def State.roundBusy (s : State) (node slot : Nat) : Bool :=
  match s.roundLevel node slot with
  | none => false
  | some k =>
    let w := s.segment node slot
    let ts := s.members node slot k
    (s.gongSlot (gongKey node slot)).commit || !(s.parkedAt ts (segAsid w) (segGen w) (some k)).isEmpty ||
    ts.any fun t => s.releaseDue t (gangKey (segAsid w) (segGen w)) k


/-- The node and slot that complete the rounds of a level for a gang on a site. -/
def State.completer (s : State) (t : Nat) (r : Resid) (k : Nat) : Option (Nat × Nat) :=
  match r.doms.find? fun d => d.1 = k with
  | none => none
  | some (_, fs, _) =>
    let f := s.segment (siteZone t) fs
    if k = 0 then some (siteZone t, fs)
    else if k = 3 then
      let m := segLink (s.segment (rootNode (siteModule t)) (segLink f)) / 4
      ((List.range 64).find? fun i =>
        let w := s.segment (rootNode m) i
        segV w && segAsid w = r.asid && segGen w = r.lgen && segKind w = 2).map fun i => (topNode m, i)
    else some (rootNode (siteModule t), segLink f)

/-- Whether a tile's membership at a level leads through a slot of a node: the field slot it has joined, the root slot to which that reports, or
the lowest module's root slot, which completes the rounds of level 3 (R267, R268). -/
def State.through (s : State) (node slot k t : Nat) (r : Resid) : Bool :=
  match r.doms.find? fun d => d.1 = k with
  | none => false
  | some (_, fs, _) =>
    (siteZone t = node && fs = slot) ||
    (k ≠ 0 && rootNode (siteModule t) = node && segLink (s.segment (siteZone t) fs) = slot) ||
    (k = 3 && (match s.completer t r k with | some (n, i) => rootNode (n / 128) = node && i = slot | none => false))

/-- Whether the gang of a slot's record has a round in progress through the slot (R279): at a level of its kind, a thread parked, a release or
a commit due. -/
def State.slotBusy (s : State) (node slot : Nat) : Bool :=
  let w := s.segment node slot
  let asid := segAsid w
  let lgen := segGen w
  let committing := match s.gang? asid lgen with | some g => g.commit.any fun c => c.req.isNone | none => false
  segV w && [0, 1, 2, 3].any fun k =>
    segKind w = min k 2 && s.tiles.any fun x => x.2.resid.any fun r =>
      r.asid = asid && r.lgen = lgen && s.through node slot k x.1 r &&
      (!(s.parkedAt [x.1] asid lgen (some k)).isEmpty || s.releaseDue x.1 (gangKey asid lgen) k || (committing && s.commits asid lgen k))

/-- `gset` (R279): a bad selector or record raises 0x01; the request waits for the node to confirm. -/
def execGset (p : Pfx) (a b : RegNo) (s : State) : Out :=
  sysOnly (.gset p a b) 3 p s fun s =>
    let sel := s.x a
    let w := s.x b
    let root := sel.getLsbD 7
    let slot := wbits sel 5 0
    if wbits sel 63 8 ≠ 0 || sel.getLsbD 6 || (!root && decide (15 < slot)) then s.takeTrap 0x01 sel
    else if segKind w = 3 || wbits w 62 60 ≠ 0 then s.takeTrap 0x01 w
    else
      let node := if root then rootNode (siteModule s.tileNo) else siteZone s.tileNo
      let id := s.nextId
      (s.send s.tileNo s.thr.ltn s.thr.ltn 0 0 (.gset s.thr.id (gongKey node slot) w)).parkOn (.request id (instrBytes 3 p))

/-- GSET_NODE_CONFIRM (R279): the record is written and the slot's round state cleared, unless another gang has a round in progress
there. -/
def execGsetNodeConfirm (pk : Nat) (s : State) : Out :=
  s.withArrival pk fun s p _ =>
    match p.body with
    | .gset _ key w =>
      let old := (s.gongSlot key).record
      let node := key / 64
      let slot := key % 64
      let refused := !(segAsid old = segAsid w && segGen old = segGen w) && s.slotBusy node slot
      let s := s.dropPacket pk
      if refused then s.finishRequest pk (some false)
      else
        let s := s.modGong key fun _ => { GongSlot.empty with record := w }
        let s := if node % 128 = 127 then s.modGong (gongKey (node - 1) slot) fun _ => .empty else s
        s.finishRequest pk (some true)
    | _ => s

/-- `dset` (R280).  What it takes for a round in progress on the tile is the model's choice (DESIGN CHOICE, log 34): a thread of the gang parked in
`garr` there, a commit phase or a release due there; a round that was started elsewhere and has none of these here does not count. -/
def execDset (p : Pfx) (a b : RegNo) (s : State) : Out :=
  sysOnly (.dset p a b) 3 p s fun s =>
    let x := s.x a
    let y := s.x b
    let t := s.tileNo
    if wbits x 63 14 ≠ 0 then s.takeTrap 0x01 x
    else if wbits y 63 36 ≠ 0 || wbits y 31 24 ≠ 0 then s.takeTrap 0x01 y
    else
      match (s.tile t).residOf (wbits x 11 0) with
      | none => (s.setPred 7 false).retire 3 p
      | some r =>
        let key := gangKey r.asid r.lgen
        let busy := !(s.parkedAt [t] r.asid r.lgen none).isEmpty || (s.tile t).phase.any (fun f => f.g = key) ||
          s.releases.any fun q => q.t = t && q.g = key
        if busy then (s.setPred 7 false).retire 3 p
        else
          let s := s.modTile t fun z => z.modResid r.asid r.lgen fun r =>
            { r with doms := assocSet (wbits x 13 12) (wbits y 35 32, wbits y 23 0) r.doms }
          (s.setPred 7 true).retire 3 p

/-- The word that `gstat` reads (R281): a tile is a member at a level once `dset` has joined it there (R268). -/
def State.gstat (s : State) (level : Nat) : Nat :=
  let th := s.thr
  let t := s.tileNo
  match (s.tile t).residFor th.asid th.lgen th.ltn with
  | none => 0
  | some r =>
    let k := s.effLevel th.asid th.lgen level
    let rounds := assocGet k 0 r.rounds % 2 ^ 32 * 2 ^ 32
    if !r.doms.any fun d => d.1 = k then rounds
    else
      let c := s.completer t r k
      let g := match c with | some (node, slot) => s.gongSlot (gongKey node slot) | none => .empty
      let mates := match c with | some (node, slot) => s.members node slot k | none => []
      let parked := s.parkedAt [t] r.asid r.lgen (some k)
      let busy := !parked.isEmpty || (match c with | some (node, slot) => s.roundBusy node slot | none => false)
      let arr := match g.last.find? fun x => x.t = t with | some x => x.arrived | none => false
      let op :=
        if busy then
          match (t :: mates).findSome? fun u => (s.parkedAt [u] r.asid r.lgen (some k)).findSome? fun id => (s.thread? id).bind Thread.garr with
          | some (_, op, _) => gopCode op
          | none => 0
        else 0
      rounds + bit busy * 2 ^ 31 + bit arr * 2 ^ 30 + bit g.commit * 2 ^ 29 + op * 2 ^ 26 + min 255 parked.length * 2 ^ 16 + 2 ^ 15

/-- `gstat` (R281). -/
def execGstat (p : Pfx) (d a : RegNo) (s : State) : Out :=
  guarded 3 p s fun s => (s.setX d (BitVec.ofNat 64 (s.gstat (wbits (s.x a) 1 0)))).retire 3 p

end Sys2Proof.Machine
end

