-- ==== Sys2Proof/Machine/Functions.lean ====
section
/-! DEFINITION. The functions of R67 and R68: the square root, correctly rounded, and the seven functions whose result is any value
within the bound, selected by an uninterpreted choice (spec/03_numbers.md R67, R68; log 6). -/
namespace Sys2Proof.Machine

/-- The seven functions with a bound of ulps (R67). -/
inductive Fn where
  | rcp | rsq | exp | log | tanh | sin | cos
  deriving DecidableEq, Repr

/-- Number of a function, which selects its choice. -/
def Fn.no : Fn → Nat
  | .rcp => 0 | .rsq => 1 | .exp => 2 | .log => 3 | .tanh => 4 | .sin => 5 | .cos => 6

/-- FP32 bound in ulps (R67). -/
def Fn.ulps : Fn → Nat
  | .exp | .log | .tanh => 2
  | _ => 1

/-- Greatest number whose square is at most n, found bit by bit. -/
def isqrt (n : Nat) : Nat :=
  (List.range (Nat.log2 n / 2 + 1)).reverse.foldl (fun r i => if (r + 2 ^ i) * (r + 2 ^ i) ≤ n then r + 2 ^ i else r) 0

-- Fixed-point approximations: an integer v at scale p stands for v / 2^p.
/-- Sum of z^(2n+1) / (2n+1), with alternating signs for the arc tangent; `z2` is z squared. -/
def atanSum (alt : Bool) (p : Nat) (z2 : Nat) : Nat → Nat → Nat → Int
  | 0, _, _ => 0
  | fuel + 1, n, t =>
    let term : Int := (t / (2 * n + 1) : Nat)
    (if alt && n % 2 = 1 then -term else term) + atanSum alt p z2 fuel (n + 1) (t * z2 / 2 ^ p)

/-- Inverse hyperbolic tangent of z at scale p. -/
def atanhFix (p z : Nat) : Int := atanSum false p (z * z / 2 ^ p) (p / 3 + 2) 0 z

/-- Arc tangent of 1/k at scale p. -/
def atanInv (p k : Nat) : Int := atanSum true p (2 ^ p / (k * k)) (p / 4 + 2) 0 (2 ^ p / k)

/-- π at scale p. -/
def piFix (p : Nat) : Int := 16 * atanInv p 5 - 4 * atanInv p 239

/-- ln 2 at scale p. -/
def ln2Fix (p : Nat) : Int := 2 * atanhFix p (2 ^ p / 3)

/-- Sum of r^n / n! over every `stride`-th n from the term t of number n, with alternating signs if asked. -/
def powerSum (alt : Bool) (stride p : Nat) (r : Int) : Nat → Nat → Int → Int
  | 0, _, _ => 0
  | fuel + 1, n, t =>
    let next := (List.range stride).foldl (fun t i => t * r / (2 ^ p : Int) / ((n + i + 1 : Nat) : Int)) t
    t + powerSum alt stride p r fuel (n + stride) (if alt then -next else next)

/-- The working scale. -/
def wp : Nat := 480

/-- A finite value at scale p, when it fits exactly. -/
def toFix (p : Nat) (neg : Bool) (m : Nat) (e : Int) : Int :=
  let s : Int := e + p
  let v : Int := if 0 ≤ s then (m * 2 ^ s.toNat : Nat) else (m / 2 ^ (-s).toNat : Nat)
  if neg then -v else v

/-- e^x for x at the working scale: the value and a bound on its error, both at the working scale. -/
def expFix (x : Int) : Int × Int :=
  let one : Int := 2 ^ wp
  if 300 * one ≤ x then (one * 2 ^ 400, 2 ^ 400)
  else if x ≤ -300 * one then (0, 2 ^ 80)
  else
    let l := ln2Fix wp
    let k := x / l
    let v := powerSum false 1 wp (x - k * l) 130 0 one
    if 0 ≤ k then (v * 2 ^ k.toNat, 2 ^ (40 + k.toNat)) else (v / 2 ^ (-k).toNat, 2 ^ 40)

/-- sin (or cos) of a finite value. -/
def sinFix (isCos neg : Bool) (m : Nat) (e : Int) : Int :=
  let q := wp + 200
  let x := toFix q neg m e
  let half := piFix q / 2
  let k := x / half
  let r := (x - k * half) / 2 ^ 200
  let one : Int := 2 ^ wp
  let sin := powerSum true 2 wp r 70 1 r
  let cos := powerSum true 2 wp r 70 0 one
  match (k + (if isCos then 1 else 0)) % 4 with
  | 0 => sin
  | 1 => cos
  | 2 => -sin
  | _ => -cos

/-- The exact value of a function at a finite argument that has no special result: a value and an error bound at the working
scale. -/
def Fn.approx (fn : Fn) (neg : Bool) (m : Nat) (e : Int) : Int × Int :=
  let sg := fun (v : Int) => if neg then -v else v
  match fn with
  | .rcp => (sg ((2 ^ ((wp : Int) - e).toNat / m : Nat) : Int), 2)
  | .rsq => ((isqrt (2 ^ (2 * (wp : Int) - e).toNat / m) : Int), 2)
  | .exp => expFix (toFix wp neg m e)
  | .log =>
    let t := Nat.log2 m
    let y := m * 2 ^ wp / 2 ^ t
    let z := (y - 2 ^ wp) * 2 ^ wp / (y + 2 ^ wp)
    (((t : Int) + e) * ln2Fix wp + 2 * atanhFix wp z, 2 ^ 40)
  | .tanh =>
    let (v, _) := expFix (2 * toFix wp false m e)
    let one : Int := 2 ^ wp
    (sg ((v - one) * one / (v + one)), 2 ^ 60)
  | .sin => (sinFix false neg m e, 2 ^ 40)
  | .cos => (sinFix true neg m e, 2 ^ 40)

/-- Magnitude code of a non-negative value at the working scale, rounded down, and whether it is inexact; codes stop at the
infinity's. -/
def FFmt.truncMag (f : FFmt) (v : Nat) : Nat × Bool :=
  let inf := (2 ^ f.ebits - 1) * 2 ^ f.mbits
  if v = 0 then (0, false)
  else
    let emin : Int := 1 - f.bias
    let top : Int := (Nat.log2 v : Int) - wp
    let u : Int := max top emin - f.mbits
    let sh := (u + wp).toNat
    let q := v / 2 ^ sh
    let mag := if q < 2 ^ f.mbits then q else (u + f.mbits + f.bias).toNat * 2 ^ f.mbits + (q - 2 ^ f.mbits)
    if inf ≤ mag then (inf, false) else (mag, v % 2 ^ sh ≠ 0)

/-- The codes of a format in order of value: a magnitude code, negative below zero. -/
def FFmt.floorCode (f : FFmt) (v : Int) : Int :=
  let (m, x) := f.truncMag v.natAbs
  if 0 ≤ v then m else if x then -(m : Int) - 1 else -(m : Int)
def FFmt.ceilCode (f : FFmt) (v : Int) : Int := -f.floorCode (-v)

/-- Code of the nearest value, ties to even (R59). -/
def FFmt.nearCode (f : FFmt) (v : Int) : Int :=
  let enc := (f.round .rne false false v.natAbs (-(wp : Int))).1
  if v < 0 then -(enc : Int) else enc

/-- One ulp of FP32 at a value, at the working scale (R67). -/
def ulp32 (v : Int) : Int :=
  let top : Int := (Nat.log2 v.natAbs : Int) - wp
  2 ^ (max top (-126) - 23 + wp).toNat

/-- The least and greatest code a function may deliver in a format (R67). -/
def Fn.range (fn : Fn) (f : FFmt) (v err : Int) : Int × Int :=
  let b := fn.ulps * ulp32 v + err
  if f = .f32 then (f.ceilCode (v - b), f.floorCode (v + b)) else (f.nearCode (v - b), f.nearCode (v + b))

/-- Whether the delivered code is the exact value of `vrcp` or `vrsq`, the only functions with exact results here. -/
def Fn.isExact (fn : Fn) (f : FFmt) (neg : Bool) (m : Nat) (e : Int) (enc : Nat) : Bool :=
  match f.decode enc with
  | .fin n k g =>
    (match fn with
     | .rcp => n = neg && decide (k ≠ 0) && toFix 600 false (m * k) (e + g) = 2 ^ 600 && decide (-600 ≤ e + g)
     | .rsq => !n && decide (k ≠ 0) && toFix 600 false (m * k * k) (e + 2 * g) = 2 ^ 600 && decide (-600 ≤ e + 2 * g)
     | _ => false)
  | _ => false

/-- A result with the flags of R62 and R68. -/
def Fn.flagged (fn : Fn) (f : FFmt) (neg : Bool) (m : Nat) (e : Int) (enc : Nat) : Nat × BitVec 5 :=
  let mag := enc % 2 ^ (f.ebits + f.mbits)
  if f.maxMag < mag then (enc, flagOF ||| flagNX)
  else if fn.isExact f neg m e enc then (enc, 0)
  else (enc, flagNX ||| (if mag < 2 ^ f.mbits then flagUF else 0))

/-- A result within the bound, chosen by the free value (R67). -/
def Fn.general (fn : Fn) (f : FFmt) (fmtNo arg : Nat) (neg : Bool) (m : Nat) (e : Int) : Nat × BitVec 5 :=
  let (v, err) := fn.approx neg m e
  let pow2 := m = 2 ^ Nat.log2 m
  let code : Int :=
    if fn = .rcp && pow2 then f.nearCode v
    else
      let (lo, hi) := fn.range f v err
      lo + (Config.fnChoice fn.no fmtNo arg % ((hi - lo).toNat + 1) : Nat)
  fn.flagged f neg m e (f.signed (if code = 0 then v < 0 else code < 0) code.natAbs)

/-- A function at an argument: the special results of R68, or a value within the bound. -/
def Fn.apply (fn : Fn) (f : FFmt) (fmtNo arg : Nat) : Nat × BitVec 5 :=
  let one := f.signed false (f.bias * 2 ^ f.mbits)
  match f.decode arg with
  | .nan sig => (f.nan, if sig then flagNV else 0)
  | .inf neg =>
    (match fn with
     | .rcp => (f.signed neg 0, 0)
     | .rsq => if neg then (f.nan, flagNV) else (f.signed false 0, 0)
     | .exp => if neg then (f.signed false 0, 0) else (f.infinity false, 0)
     | .log => if neg then (f.nan, flagNV) else (f.infinity false, 0)
     | .tanh => (f.signed neg (f.bias * 2 ^ f.mbits), 0)
     | _ => (f.nan, flagNV))
  | .fin neg m e =>
    if m = 0 then
      (match fn with
       | .rcp | .rsq => (f.infinity neg, flagDZ)
       | .exp | .cos => (one, 0)
       | .log => (f.infinity true, flagDZ)
       | _ => (f.signed neg 0, 0))
    else if neg && (fn = .rsq || fn = .log) then (f.nan, flagNV)
    else if arg = one && (fn = .rcp || fn = .rsq) then (one, 0)
    else if arg = one && fn = .log then (f.signed false 0, 0)
    else fn.general f fmtNo arg neg m e

/-- The square root, correctly rounded in the given mode (R67, R68). -/
def sqrtOf (f : FFmt) (mode : RMode) (x : FVal) : Nat × BitVec 5 :=
  match x with
  | .nan sig => (f.nan, if sig then flagNV else 0)
  | .inf neg => if neg then (f.nan, flagNV) else (f.infinity false, 0)
  | .fin neg m e =>
    if m = 0 then (f.signed neg 0, 0)
    else if neg then (f.nan, flagNV)
    else
      let odd := e % 2 ≠ 0
      let n := (if odd then 2 * m else m) * 2 ^ 160
      let g : Int := (if odd then e - 1 else e) / 2 - 80
      let r := isqrt n
      f.round mode false false (2 * r + (if r * r = n then 0 else 1)) (g - 1)

end Sys2Proof.Machine
end

