-- ==== Sys2Proof/Machine/Streams.lean ====
section
/-! DEFINITION. Vector streams: the unit, the checks, overlap and poison, reading and writing elements, post-increment and stall
counts (spec/06_vector.md R128-R140). -/
namespace Sys2Proof.Machine

/-- A stream operand: its register, byte length, alignment, element size, whether it is read, written and advanced (R129, R132). -/
structure VArg where
  reg   : RegNo
  n     : Nat
  align : Nat
  e     : Nat
  rd    : Bool
  wr    : Bool
  adv   : Bool
  deriving DecidableEq, Repr

/-- The rounding state of an instruction: STAT's mode, SEED and the flags so far (R59, R60, R62). -/
structure Rnd where
  rm   : Nat
  sr   : Bool
  seed : BitVec 32
  fl   : BitVec 5
  deriving DecidableEq, Repr

/-- The mode of the next rounding, SEED stepped once under stochastic rounding (R60). -/
def Rnd.next (r : Rnd) : RMode × Rnd :=
  if r.sr then let sd := stepSeed r.seed; (.stoch sd.toNat, { r with seed := sd }) else (RMode.ofCode r.rm, r)

/-- Flags raised. -/
def Rnd.flag (r : Rnd) (f : BitVec 5) : Rnd := { r with fl := r.fl ||| f }

/-- A result with its flags. -/
def Rnd.out (r : Rnd) (x : Nat × BitVec 5) : Nat × Rnd := (x.1, r.flag x.2)

/-- Ranges of the window, each an offset and a number of bytes, that one unit of an instruction (R134) reads, and the writes it makes. -/
structure VLink where
  src : List (Nat × Nat)
  dst : List (Nat × Nat)

/-- A page-2 instruction that has passed the checks of R133: its streams with their window offsets, the first poisoned byte that it will read,
what its writes wait for, whether it runs in serial mode, the bank words that the checks have read, its units, the cycles that it stalls, the
streams in the order in which they advance, and its execution. -/
structure VWork where
  streams : List (VArg × Nat)
  poison  : Option Nat
  wait    : Option Park
  serial  : Bool
  early   : List Nat
  links   : List VLink
  stalls  : Nat
  adv     : List VArg
  body    : State → Rnd → State × Rnd

/-- The element format of an instruction (R130). -/
def elemFmt (f : Option Fmt) : Fmt := f.getD .f32

/-- Bytes of an element; FP4B is laid out by blocks (R129). -/
def fmtBytes (f : Fmt) : Nat := fmtBits f / 8

/-- Byte length of a stream of VL elements (R129). -/
def streamBytes (f : Fmt) (vl : Nat) : Nat := if f = .f4b then 17 * vl / 32 else vl * fmtBytes f

/-- Cursor alignment (R129). -/
def streamAlign (f : Fmt) : Nat := if f = .f4b then 16 else fmtBytes f

/-- A stream operand of a format. -/
def State.arg (s : State) (reg : RegNo) (f : Fmt) (rd wr adv : Bool) : VArg :=
  { reg := reg, n := streamBytes f s.thr.vl.toNat, align := streamAlign f, e := fmtBytes f, rd := rd, wr := wr, adv := adv }

/-- Scratchpad key of a window offset for the issuing thread (R107). -/
def State.winKey (s : State) (o : Nat) : Nat := windowKey s.tileNo s.quarters o

/-- An element of e bytes at a window offset. -/
def State.vget (s : State) (o e : Nat) : Nat := s.nat (s.winKey o) e

/-- Bytes at a window offset, which may pass from one quarter or slice to the next. -/
def State.vbytes (s : State) (o n : Nat) : List Byte := (List.range n).map fun i => Memory.get s.mem (s.winKey (o + i))

/-- Write an element at a window offset (R136). -/
def State.vput (s : State) (o e v : Nat) : State := s.put s.thr.asid s.thr.lgen (s.winKey o) (bytesOf e v) false

/-- Write an element, or the bytes of an FP4B block, which lie in one bank word, at a window offset: one write (R109, R129). -/
def State.vputBytes (s : State) (o : Nat) (bs : List Byte) : State := s.put s.thr.asid s.thr.lgen (s.winKey o) bs false

/-- First offset of each bank word a range touches. -/
def wordStarts (o n : Nat) : List Nat :=
  (unitsOf 32 o n).map fun u => max o (u * 32)

/-- Step 5 of R133 for one stream: its window offset. -/
def State.checkStream (s : State) (a : VArg) : Except TrapVal Nat :=
  let r := s.reg a.reg
  let v := r.cursor
  let perm := (if a.rd then permR else 0) ||| (if a.wr then permW else 0)
  if !r.tag then .error (0x03, 0)
  else if !r.can perm then .error (0x05, v.setWidth 64)
  else if v.toNat < r.base || r.limit < v.toNat + a.n || 2 ^ 48 < v.toNat + a.n then .error (0x04, v.setWidth 64)
  else if v.toNat % a.align ≠ 0 then .error (0x06, v.setWidth 64)
  else if !inWindow v || windowBytes s.quarters.length < winOffset v + a.n then .error (0x04, v.setWidth 64)
  else .ok (winOffset v)

/-- Step 5 of R133 for streams in turn. -/
def State.checkStreams (s : State) : List VArg → Except TrapVal (List Nat)
  | [] => .ok []
  | a :: r =>
    match s.checkStream a with
    | .error e => .error e
    | .ok o =>
      match s.checkStreams r with
      | .error e => .error e
      | .ok os => .ok (o :: os)

/-- The address of a window offset. -/
def winAddr (o : Nat) : Word := BitVec.ofNat 64 (0xFF0000000000 + o)

/-- First poisoned byte of a range, by ascending address (R135). -/
def State.poisonIn (s : State) (o n : Nat) : Option Nat := (wordStarts o n).find? fun w => s.psnAt (s.winKey w)

/-- Step 7 of R133 for the read streams. -/
def State.poisonOf (s : State) (rs : List (VArg × Nat)) : Option Nat :=
  (rs.filter fun x => x.1.rd).findSome? fun x => s.poisonIn x.2 x.1.n

/-- What a write of a range waits for: a scrub or a snapshot (R110, R335). -/
def State.vwaits (s : State) (o n : Nat) : Option Park :=
  (wordStarts o n).findSome? fun w => s.writeWaits s.thr.id s.thr.asid s.thr.lgen (s.winKey w) 1

/-- Two streams overlap (R134). -/
def argsOverlap (x y : VArg × Nat) : Bool :=
  (x.1.wr || y.1.wr) && !(x.2 = y.2 && x.1.n = y.1.n) && decide (x.2 < y.2 + y.1.n) && decide (y.2 < x.2 + x.1.n)

/-- Whether any pair of streams overlaps. -/
def anyOverlap : List (VArg × Nat) → Bool
  | [] => false
  | x :: r => r.any (argsOverlap x) || anyOverlap r

/-- Slice and bank of the k-th bank word of a stream, if it touches so many (R105, R140). -/
def State.bankOf (s : State) (x : VArg × Nat) (k : Nat) : Option (Nat × Nat) :=
  (wordStarts x.2 x.1.n)[k]?.map fun w => let u := scratchOff (s.winKey w); (u / 98304, u % 98304 / 32 % 3)

/-- Stall cycles of the read streams (R140): in each step, one fewer than the streams that need a bank.  DESIGN CHOICE (log 39): the spec does
not say which bank words meet in a step where the streams' word counts differ or the rate sets the steps: here the k-th of each; it gives
the table reads of `vgth` no place in the steps: none conflicts here. -/
def State.stallsOf (s : State) (rs : List (VArg × Nat)) : Nat :=
  let rd := rs.filter fun x => x.1.rd
  let steps := rd.foldl (fun m x => max m (wordStarts x.2 x.1.n).length) 0
  if rd.length < 2 then 0
  else ((List.range steps).map fun k => let bs := rd.filterMap fun x => s.bankOf x k; bs.length - bs.eraseDups.length).sum

/-- The poison of bank words of the window is set or cleared, where the thread's gang owns them (R109, R135, R136). -/
def State.markWords (s : State) (ws : List Nat) (v : Bool) : State :=
  ws.foldl (fun s u =>
    let key := s.winKey (32 * u)
    if (s.tile s.tileNo).owns (quarterOf key) s.thr.asid s.thr.lgen then s.setPoison key v else s) s

/-- Post-increment (R138): each register once, written streams first. -/
def State.advance (s : State) (args : List VArg) : State :=
  let adv := args.filter fun a => a.adv
  let order := (adv.filter fun a => a.wr) ++ adv.filter fun a => !a.wr
  (order.foldl (fun (acc : List RegNo × State) a =>
    if acc.1.contains a.reg then acc else (a.reg :: acc.1, acc.2.setReg a.reg ((acc.2.reg a.reg).at (BitVec.ofNat 64 a.n)))) ([], s)).2

-- the unit (R128)
/-- The threads that hold or wait for the unit of a core, those that have left its slots taken out. -/
def State.unitQueue (s : State) (t c : Nat) : List Nat :=
  ((s.tile t).core c).vecq.filter fun id =>
    match s.thread? id with
    | some th => (match th.loc with | .slot u d _ => u = t && d = c | _ => false)
    | none => false

/-- Leave the unit; nothing is under way any more. -/
def State.leaveUnit (s : State) : State :=
  (s.modCore s.tileNo s.coreNo fun c => { c with vecq := c.vecq.filter (· ≠ s.thr.id) }).withThr fun th => { th with vec := .idle }

/-- Whether an entry of a store buffer addresses the local window (R133 step 3). -/
def winEntries (sb : List SbItem) : Bool := sb.any fun x => match x with | .entry _ _ _ _ w _ _ _ => w | .marker _ _ => false

/-- Whether a thread's group of window writes must wait (R133 step 3, R256): for entries that address the window, and for those homed in its
tile's field. -/
def Thread.groupWaits (th : Thread) : Bool := winEntries th.sb || !ackedIn th.ltn .field th.sb

/-- The end of an interval of its own for a coupled thread (R354). -/
def Thread.vectorInterval (th : Thread) : Thread :=
  match th.tandem with
  | some t => { th with tandem := some { t with vector := true }, park := some .follower }
  | none => th

/-- The rounding state at the start. -/
def State.rnd (s : State) : Rnd := { rm := s.rm, sr := s.sr, seed := s.thr.seed, fl := 0 }

/-- Go on with the unit of the core, or park for it in order of arrival (R128). -/
def State.withUnit (s : State) (k : State → State) : State :=
  let q := s.unitQueue s.tileNo s.coreNo
  let q := if q.contains s.thr.id then q else q ++ [s.thr.id]
  let s := s.modCore s.tileNo s.coreNo fun c => { c with vecq := q }
  if q.head? ≠ some s.thr.id then s.parkOn .vector else k s

-- units and what they read and write (R134)
/-- The elements of unit k of a stream: an offset and a number of bytes each; of an FP4B block its 16 bytes and its scale byte. -/
def VArg.unit (a : VArg) (o vl unit k : Nat) : List (Nat × Nat) :=
  if a.e = 0 then [(o + 16 * k, 16), (o + vl / 2 + k, 1)]
  else (List.range (min unit (vl - k * unit))).map fun j => (o + (k * unit + j) * a.e, a.e)

/-- The units of an instruction over streams. -/
def unitLinks (rs : List (VArg × Nat)) (vl unit : Nat) : List VLink :=
  (List.range ((vl + unit - 1) / unit)).map fun k =>
    { src := (rs.filter fun x => x.1.rd).flatMap fun x => x.1.unit x.2 vl unit k,
      dst := (rs.filter fun x => x.1.wr).flatMap fun x => x.1.unit x.2 vl unit k }

/-- Bank words of the window that ranges touch. -/
def windowWords (rs : List (Nat × Nat)) : List Nat := (rs.flatMap fun x => unitsOf 32 x.1 x.2).eraseDups

/-- Bank words that an instruction reads. -/
def VWork.words (w : VWork) : List Nat := windowWords (w.links.flatMap fun l => l.src)

/-- Element writes of an instruction. -/
def VWork.writes (w : VWork) : List (Nat × Nat) := w.links.flatMap fun l => l.dst

/-- Element writes of an instruction, each with whether its result is computed from a failed bank word (R135). -/
def VWork.results (w : VWork) (failed : List Nat) : List ((Nat × Nat) × Bool) :=
  w.links.flatMap fun l => let bad := (windowWords l.src).any failed.contains; l.dst.map fun x => (x, bad)

/-- Bank words that the written streams cover whole, but for those that receive a result computed from a failed one (R135, R136).  DESIGN CHOICE
(log 39): in serial mode no write is taken to cover a bank word. -/
def VWork.covered (w : VWork) (failed : List Nat) : List Nat :=
  let bad := windowWords (((w.results failed).filter (·.2)).map (·.1))
  if w.serial then []
  else ((w.streams.filter fun x => x.1.wr).flatMap fun x =>
    (unitsOf 32 x.2 x.1.n).filter fun u => x.2 ≤ 32 * u && 32 * u + 32 ≤ x.2 + x.1.n).filter fun u => !bad.contains u

-- execution (R133 step 8, R135-R139)
/-- The window as a page-2 instruction sees it: each bank word that it has read as it stood then (R137). -/
def State.asSeen (s : State) : State := s.thr.vec.seen.foldl (fun s x => s.poke (s.winKey (32 * x.1)) x.2) s

/-- A page-2 instruction retires, its writes made (R135-R138): stalls, pointers, flags and SEED.  DESIGN CHOICE (log 39): in serial mode, for
which the spec gives no steps, no bank conflict is counted. -/
def State.vecEnd (s : State) (p : Pfx) (w : VWork) (r : Rnd) : State :=
  let s := (s.bumpCore s.tileNo s.coreNo 46 w.stalls).advance w.adv
  (((s.orFlags r.fl).setSeed r.seed).leaveUnit.retire 2 p).withThr Thread.vectorInterval

/-- A page-2 instruction starts: it holds the unit, and the checks have read their bank words. -/
def State.vecStart (s : State) (w : VWork) : State :=
  s.withThr fun th => { th with vec := { VRun.idle with instr := th.vec.instr, begun := true,
                                                        seen := w.early.map fun u => (u, s.vbytes (32 * u) 32) } }

/-- A bank word is found poisoned while an instruction runs (R135): 0x0A where the result goes to a register.  R135 says only `va`: EVAL is the
first byte of that bank word, of several the first one found, which may lie before the stream's cursor (DESIGN CHOICE, log 39). -/
def VWork.traps (w : VWork) (failed : List Nat) : Option Word :=
  if w.writes.isEmpty then failed.head?.map fun u => winAddr (32 * u) else none

/-- The reading of a bank word, once; in serial mode units are read as they are executed (R134, R137). -/
def State.vecRead (s : State) (w : VWork) (u : Nat) : State :=
  let v := s.thr.vec
  if w.serial || v.result.isSome || !w.words.contains u || v.seen.any (fun x => x.1 = u) then s
  else
    let failed := if s.psnAt (s.winKey (32 * u)) then v.failed ++ [u] else v.failed
    match w.traps failed with
    | some va => s.leaveUnit.takeTrap 0x0A va
    | none => s.withThr fun th => { th with vec := { v with seen := (u, s.vbytes (32 * u) 32) :: v.seen, failed := failed } }

/-- Go on with the results of an instruction, every bank word read. -/
def State.vecResults (s : State) (w : VWork) (k : State → State) : State :=
  let v := s.thr.vec
  if v.result.isSome then k s
  else
    let failed := v.failed ++ w.words.filter fun u => !(v.seen.any fun x => x.1 = u) && s.psnAt (s.winKey (32 * u))
    match w.traps failed with
    | some va => s.leaveUnit.takeTrap 0x0A va
    | none =>
      let (s', r) := w.body s.asSeen s.rnd
      k (s.withThr fun th => { th with vec := { v with failed := failed, result := some { regs := s'.thr.regs, seed := r.seed, fl := r.fl },
                                                       pending := (w.results failed).map fun x => (x.1.1, s'.vbytes x.1.1 x.1.2, x.2),
                                                       covers := w.covered failed } })

/-- One element write that has not landed lands (R137): with a result computed from a failed word it leaves its bank words poisoned (R135); the last
write of a word that is covered whole clears its poison (R136). -/
def State.vecLand (s : State) (k : Nat) : State :=
  let v := s.thr.vec
  match v.pending[k]? with
  | none => s
  | some (o, bs, bad) =>
    let rest := v.pending.eraseIdx k
    let ws := unitsOf 32 o bs.length
    let s := (s.vputBytes o bs).withThr fun th => { th with vec := { th.vec with pending := rest } }
    if bad then s.markWords ws true
    else s.markWords (ws.filter fun u => v.covers.contains u && !(rest.any fun x => (unitsOf 32 x.1 x.2.1.length).contains u)) false

/-- The writes that have not landed land, in their order. -/
def State.vecLandAll : Nat → State → State
  | 0, s => s
  | n + 1, s => State.vecLandAll n (s.vecLand 0)

/-- An instruction under way is completed: the writes that have not landed do, and it retires. -/
def State.vecFinish (s : State) (p : Pfx) (w : VWork) : State :=
  let v := s.thr.vec
  match v.result with
  | none => s
  | some r =>
    let s := (State.vecLandAll v.pending.length s).withThr fun th => { th with regs := r.regs }
    s.vecEnd p w { s.rnd with seed := r.seed, fl := r.fl }

/-- Execution of an instruction that has passed its checks: all at once, or in the parts that `vec` names (R137; log 39). -/
def State.vecStep (s : State) (p : Pfx) (w : VWork) : State :=
  let v := s.thr.vec
  if v.begun then
    match v.act with
    | .read u => s.vecRead w u
    | .results => s.vecResults w id
    | .start => s
    | .finish => s.vecResults w fun s => s.vecFinish p w
  else
    match w.poison, w.wait with
    | some o, _ => s.leaveUnit.takeTrap 0x0A (winAddr o)
    | none, some c => s.waitOn c
    | none, none => if v.act = .start then s.vecStart w else let (s', r) := w.body s s.rnd; (s'.markWords (w.covered []) false).vecEnd p w r

/-- A page-2 instruction after decode (R128, R133): the unit, for which one guarded off waits too; then, unless it is guarded off, an interval
of its own, the wait of step 3, its checks and its execution. -/
def vecInstr (p : Pfx) (s : State) (work : State → Except TrapVal VWork) : Out :=
  .next (if !s.guardHolds p then s.withUnit fun s => s.leaveUnit.retire 2 p
  else s.boundary fun s => s.withUnit fun s =>
    if s.thr.groupWaits && !s.thr.vec.begun then s.parkOn .winStores
    else
      match work s.asSeen with
      | .error (c, v) => s.leaveUnit.takeTrap c v
      | .ok w => s.vecStep p w)

/-- Everything that the streams of an instruction read, for no write. -/
def readLink (rs : List (VArg × Nat)) : VLink := { src := (rs.filter fun x => x.1.rd).map fun x => (x.2, x.1.n), dst := [] }

/-- Steps 4-8 of R133 for streams in the order a, b, d; `unit` is the instruction's unit of R134, 32 where a stream is FP4B, and `links` says what
each result is computed from. -/
def linkedOp (i : Instr) (p : Pfx) (unit : Nat) (args : State → List VArg) (links : State → List (VArg × Nat) → List VLink)
    (body : State → List Nat → Rnd → State × Rnd) (s : State) : Out :=
  vecInstr p s fun s =>
    if unit = 32 && s.thr.vl.toNat % 32 ≠ 0 then .error (0x01, baseEval i)
    else
      let as := args s
      match s.checkStreams as with
      | .error e => .error e
      | .ok os =>
        let rs := as.zip os
        let serial := anyOverlap rs
        .ok { streams := rs, poison := s.poisonOf rs,
              wait := (rs.filter fun x => x.1.wr).findSome? fun x => s.vwaits x.2 x.1.n,
              serial := serial, early := [], links := links s rs,
              stalls := if serial then 0 else s.stallsOf rs, adv := as, body := fun s r => body s os r }

/-- The same where every result of a unit is computed from all that the unit reads. -/
def streamOp (i : Instr) (p : Pfx) (unit : Nat) (args : State → List VArg) (body : State → List Nat → Rnd → State × Rnd) (s : State) :
    Out := linkedOp i p unit args (fun s rs => unitLinks rs s.thr.vl.toNat unit) body s

/-- Elements in ascending order, each read before it is written: the same bits whether or not the streams overlap (R134). -/
def elemLoop (n : Nat) (step : State → Rnd → Nat → State × Rnd) (s : State) (r : Rnd) : State × Rnd :=
  (List.range n).foldl (fun acc i => step acc.1 acc.2 i) (s, r)

end Sys2Proof.Machine
end

