-- ==== Sys2Proof/Machine/Vector.lean ====
section
/-! DEFINITION. The vector instructions of page 2 (spec/06_vector.md R142-R154). -/
namespace Sys2Proof.Machine

-- element operations: the rounding state, then the elements
/-- A floating result rounded to its format (R65). -/
def roundTo (f : Fmt) (mode : RMode) (x : FVal × BitVec 5) : Nat × BitVec 5 :=
  let r := (floatFmt f).deliver mode false x.1
  (r.1, x.2 ||| r.2)

/-- Value of a floating element. -/
def fv (f : Fmt) (x : Nat) : FVal := (floatFmt f).decode x

/-- An operation on two elements: rounded floating, or wrapping integers. -/
def arith (f : Fmt) (fl : RMode → FVal → FVal → FVal × BitVec 5) (int : Int → Int → Int) (r : Rnd) (a b : Nat) : Nat × Rnd :=
  if isIntFmt f then (intPattern f (int (intValue f a) (intValue f b)), r)
  else let (m, r) := r.next; r.out (roundTo f m (fl m (fv f a) (fv f b)))

/-- The lesser (or greater) of two elements, −0 below +0; a NaN gives the canonical NaN (R142). -/
def minMax (f : Fmt) (max : Bool) (a b : Nat) : Nat × BitVec 5 :=
  if isIntFmt f then
    (if (if max then decide (intValue f a < intValue f b) else decide (intValue f b < intValue f a)) then b else a, 0)
  else
    let x := fv f a
    let y := fv f b
    if x.isNan || y.isNan then ((floatFmt f).nan, if x.isSig || y.isSig then flagNV else 0)
    else
      let c := x.cmp y
      let bBelow := decide (0 < c) || (decide (c = 0) && y.sign && !x.sign)
      let aBelow := decide (c < 0) || (decide (c = 0) && x.sign && !y.sign)
      (if (if max then aBelow else bBelow) then b else a, 0)

/-- The element with its sign cleared or inverted (R142). -/
def signOp (f : Fmt) (abs : Bool) (a : Nat) : Nat × BitVec 5 :=
  if isIntFmt f then
    let v := intValue f a
    (intPattern f (if abs && decide (0 ≤ v) then v else -v), 0)
  else
    let x := fv f a
    if x.isNan then ((floatFmt f).nan, if x.isSig then flagNV else 0)
    else
      let k := 2 ^ (fmtBits f - 1)
      (a % k + (if abs || x.sign then 0 else k), 0)

/-- d + a × b or d − a × b, rounded once (R143). -/
def fmaOp (f : Fmt) (sub : Bool) (r : Rnd) (d a b : Nat) : Nat × Rnd :=
  let (m, r) := r.next
  let x := fv f a
  r.out (roundTo f m (FVal.fma m (fv f d) (if sub then x.neg else x) (fv f b)))

/-- Whether a comparison holds, with NV (R149). -/
def compareOp (f : Fmt) (c : VCmp) (a b : Nat) : Bool × BitVec 5 :=
  let ordered := fun (d : Int) => match c with
    | .eq => decide (d = 0) | .ne => decide (d ≠ 0) | .lt => decide (d < 0) | .le => decide (d ≤ 0) | .gt => decide (0 < d)
    | .ge => decide (0 ≤ d) | .ord => true | .uno => false
  if isIntFmt f then (ordered (intValue f a - intValue f b), 0)
  else
    let x := fv f a
    let y := fv f b
    if x.isNan || y.isNan then
      let quietNV := match c with | .lt | .le | .gt | .ge => true | _ => false
      (match c with | .ne | .uno => true | _ => false, if x.isSig || y.isSig || quietNV then flagNV else 0)
    else (ordered (x.cmp y), 0)

/-- All ones in the element width. -/
def ones (f : Fmt) : Nat := 2 ^ fmtBits f - 1

/-- The scalar of R144: the low w bits of a register. -/
def scalar (f : Fmt) (b : Word) : Nat := b.toNat % 2 ^ fmtBits f

/-- The upper bound H of `vclmp` (R144). -/
def scalarHigh (f : Fmt) (b : Word) : Nat := b.toNat / 2 ^ fmtBits f % 2 ^ fmtBits f

/-- `vclmp` (R144): max with L, then min with H. -/
def clampOp (f : Fmt) (b : Word) (a : Nat) : Nat × BitVec 5 :=
  let x := minMax f true a (scalar f b)
  let y := minMax f false x.1 (scalarHigh f b)
  (y.1, x.2 ||| y.2)

/-- `vshl` (R150). -/
def shiftOp (f : Fmt) (sar : Bool) (c : Nat) (a : Nat) : Nat :=
  let w := fmtBits f
  if !sar then (if w ≤ c then 0 else a * 2 ^ c % 2 ^ w)
  else if f = .u8 then (if w ≤ c then 0 else a / 2 ^ c)
  else intPattern f (intValue f a / (2 ^ min c w : Int))

-- the element-wise drivers
/-- A written stream from streams a and b, and from d itself where it is read too. -/
def map3 (i : Instr) (p : Pfx) (d a b : RegNo) (x : Bool) (f : Fmt) (rw : Bool) (op : Rnd → Nat → Nat → Nat → Nat × Rnd)
    (s : State) : Out :=
  streamOp i p 1 (fun s => [s.arg a f true false x, s.arg b f true false x, s.arg d f rw true x])
    (fun s os r =>
      let e := fmtBytes f
      let oa := os.getD 0 0
      let ob := os.getD 1 0
      let od := os.getD 2 0
      elemLoop s.thr.vl.toNat (fun s r i =>
        let (v, r) := op r (s.vget (od + i * e) e) (s.vget (oa + i * e) e) (s.vget (ob + i * e) e)
        (s.vput (od + i * e) e v, r)) s r) s

/-- A written stream from stream a, and from d itself where it is read too. -/
def map2 (i : Instr) (p : Pfx) (d a : RegNo) (x : Bool) (f : Fmt) (rw : Bool) (op : Rnd → Nat → Nat → Nat × Rnd) (s : State) : Out :=
  streamOp i p 1 (fun s => [s.arg a f true false x, s.arg d f rw true x])
    (fun s os r =>
      let e := fmtBytes f
      let oa := os.getD 0 0
      let od := os.getD 1 0
      elemLoop s.thr.vl.toNat (fun s r i =>
        let (v, r) := op r (s.vget (od + i * e) e) (s.vget (oa + i * e) e)
        (s.vput (od + i * e) e v, r)) s r) s

/-- `vadd` (R142). -/
def execVadd (p : Pfx) (d a b : RegNo) (x : Bool) (fmt : Option Fmt) (s : State) : Out :=
  map3 (.vadd p d a b x fmt) p d a b x (elemFmt fmt) false (fun r _ a b => arith (elemFmt fmt) FVal.add (· + ·) r a b) s
/-- `vsub` (R142). -/
def execVsub (p : Pfx) (d a b : RegNo) (x : Bool) (fmt : Option Fmt) (s : State) : Out :=
  map3 (.vsub p d a b x fmt) p d a b x (elemFmt fmt) false
    (fun r _ a b => arith (elemFmt fmt) (fun m a b => FVal.add m a b.neg) (· - ·) r a b) s
/-- `vmul` (R142). -/
def execVmul (p : Pfx) (d a b : RegNo) (x : Bool) (fmt : Option Fmt) (s : State) : Out :=
  map3 (.vmul p d a b x fmt) p d a b x (elemFmt fmt) false
    (fun r _ a b => arith (elemFmt fmt) (fun _ a b => a.mul b) (· * ·) r a b) s
/-- `vfma` (R143). -/
def execVfma (p : Pfx) (d a b : RegNo) (x : Bool) (fmt : Option Fmt) (s : State) : Out :=
  map3 (.vfma p d a b x fmt) p d a b x (elemFmt fmt) true (fun r d a b => fmaOp (elemFmt fmt) false r d a b) s
/-- `vfms` (R143). -/
def execVfms (p : Pfx) (d a b : RegNo) (x : Bool) (fmt : Option Fmt) (s : State) : Out :=
  map3 (.vfms p d a b x fmt) p d a b x (elemFmt fmt) true (fun r d a b => fmaOp (elemFmt fmt) true r d a b) s
/-- `vmin` (R142). -/
def execVmin (p : Pfx) (d a b : RegNo) (x : Bool) (fmt : Option Fmt) (s : State) : Out :=
  map3 (.vmin p d a b x fmt) p d a b x (elemFmt fmt) false (fun r _ a b => r.out (minMax (elemFmt fmt) false a b)) s
/-- `vmax` (R142). -/
def execVmax (p : Pfx) (d a b : RegNo) (x : Bool) (fmt : Option Fmt) (s : State) : Out :=
  map3 (.vmax p d a b x fmt) p d a b x (elemFmt fmt) false (fun r _ a b => r.out (minMax (elemFmt fmt) true a b)) s
/-- `vabs` (R142). -/
def execVabs (p : Pfx) (d a : RegNo) (x : Bool) (fmt : Option Fmt) (s : State) : Out :=
  map2 (.vabs p d a x fmt) p d a x (elemFmt fmt) false (fun r _ a => r.out (signOp (elemFmt fmt) true a)) s
/-- `vneg` (R142). -/
def execVneg (p : Pfx) (d a : RegNo) (x : Bool) (fmt : Option Fmt) (s : State) : Out :=
  map2 (.vneg p d a x fmt) p d a x (elemFmt fmt) false (fun r _ a => r.out (signOp (elemFmt fmt) false a)) s

/-- A function of R67 over a stream; STAT's mode is ignored and SEED not stepped (R145). -/
def fnOp (fn : Fn) (i : Instr) (p : Pfx) (d a : RegNo) (x : Bool) (fmt : Option Fmt) (s : State) : Out :=
  let f := elemFmt fmt
  let no := match f with | .bf16 => 1 | .f16 => 2 | _ => 0
  map2 i p d a x f false (fun r _ a => r.out (fn.apply (floatFmt f) no a)) s

/-- `vrcp` (R145). -/
def execVrcp (p : Pfx) (d a : RegNo) (x : Bool) (fmt : Option Fmt) (s : State) : Out := fnOp .rcp (.vrcp p d a x fmt) p d a x fmt s
/-- `vrsq` (R145). -/
def execVrsq (p : Pfx) (d a : RegNo) (x : Bool) (fmt : Option Fmt) (s : State) : Out := fnOp .rsq (.vrsq p d a x fmt) p d a x fmt s
/-- `vsqrt` (R145): rounded in STAT's mode. -/
def execVsqrt (p : Pfx) (d a : RegNo) (x : Bool) (fmt : Option Fmt) (s : State) : Out :=
  let f := elemFmt fmt
  map2 (.vsqrt p d a x fmt) p d a x f false (fun r _ a => let (m, r) := r.next; r.out (sqrtOf (floatFmt f) m (fv f a))) s
/-- `vexp` (R145). -/
def execVexp (p : Pfx) (d a : RegNo) (x : Bool) (fmt : Option Fmt) (s : State) : Out := fnOp .exp (.vexp p d a x fmt) p d a x fmt s
/-- `vlog` (R145). -/
def execVlog (p : Pfx) (d a : RegNo) (x : Bool) (fmt : Option Fmt) (s : State) : Out := fnOp .log (.vlog p d a x fmt) p d a x fmt s
/-- `vsin` (R145). -/
def execVsin (p : Pfx) (d a : RegNo) (x : Bool) (fmt : Option Fmt) (s : State) : Out := fnOp .sin (.vsin p d a x fmt) p d a x fmt s
/-- `vcos` (R145). -/
def execVcos (p : Pfx) (d a : RegNo) (x : Bool) (fmt : Option Fmt) (s : State) : Out := fnOp .cos (.vcos p d a x fmt) p d a x fmt s
/-- `vtanh` (R145). -/
def execVtanh (p : Pfx) (d a : RegNo) (x : Bool) (fmt : Option Fmt) (s : State) : Out := fnOp .tanh (.vtanh p d a x fmt) p d a x fmt s

-- lanes and movement (R148)
/-- What the results of a movement between vl elements of e bytes are computed from: `source i` is the element that result i comes from, beyond the
stream nothing. -/
def moveLinks (rs : List (VArg × Nat)) (e vl : Nat) (source : Nat → Nat) : List VLink :=
  match rs with
  | [(_, oa), (_, od)] =>
    readLink rs :: (List.range vl).map fun i =>
      { src := if source i < vl then [(oa + source i * e, e)] else [], dst := [(od + i * e, e)] }
  | _ => []

/-- `vpswp` (R148): each pair read whole, then written. -/
def execVpswp (p : Pfx) (d a : RegNo) (x : Bool) (fmt : Option Fmt) (s : State) : Out :=
  let f := elemFmt fmt
  let e := fmtBytes f
  linkedOp (.vpswp p d a x fmt) p 2 (fun s => [s.arg a f true false x, s.arg d f false true x])
    (fun s rs => moveLinks rs e s.thr.vl.toNat fun i => if i % 2 = 1 then i - 1 else i + 1)
    (fun s os r =>
      let oa := os.getD 0 0
      let od := os.getD 1 0
      let vl := s.thr.vl.toNat
      elemLoop ((vl + 1) / 2) (fun s r i =>
        let a0 := s.vget (oa + 2 * i * e) e
        let a1 := if 2 * i + 1 < vl then s.vget (oa + (2 * i + 1) * e) e else 0
        let (v, r) := r.out (signOp f false a1)
        let s := s.vput (od + 2 * i * e) e v
        (if 2 * i + 1 < vl then s.vput (od + (2 * i + 1) * e) e a0 else s, r)) s r) s

/-- `vperm` (R148): each group of 16 read whole, then written. -/
def execVperm (p : Pfx) (d a b : RegNo) (x : Bool) (fmt : Option Fmt) (s : State) : Out :=
  let f := elemFmt fmt
  let e := fmtBytes f
  linkedOp (.vperm p d a b x fmt) p 16 (fun s => [s.arg a f true false x, s.arg d f false true x])
    (fun s rs => moveLinks rs e s.thr.vl.toNat fun i => i / 16 * 16 + wbits (s.x b) (4 * (i % 16) + 3) (4 * (i % 16)))
    (fun s os r =>
      let oa := os.getD 0 0
      let od := os.getD 1 0
      let vl := s.thr.vl.toNat
      let sel := s.x b
      elemLoop ((vl + 15) / 16) (fun s r g =>
        let from16 := (List.range 16).map fun k => if 16 * g + k < vl then s.vget (oa + (16 * g + k) * e) e else 0
        ((List.range 16).foldl (fun s j =>
          if 16 * g + j < vl then s.vput (od + (16 * g + j) * e) e (from16.getD (wbits sel (4 * j + 3) (4 * j)) 0) else s) s, r)) s r) s

-- reductions (R151)
/-- One Round of a floating reduction into FP32. -/
def add32 (r : Rnd) (p : FVal) (t : FVal × BitVec 5) : FVal × Rnd :=
  let (m, r) := r.next
  let (v, f) := FVal.add m p t.1
  let (enc, g) := FFmt.f32.deliver m false v
  (FFmt.f32.decode enc, r.flag (t.2 ||| f ||| g))

/-- Add two lanes. -/
def lane (ps : List FVal) (i : Nat) : FVal := ps.getD i (.fin true 0 0)

/-- The tree over the eight lanes (R151). -/
def laneSum (r : Rnd) (ps : List FVal) : FVal × Rnd :=
  let (s0, r) := add32 r (lane ps 0) (lane ps 1, 0)
  let (s1, r) := add32 r (lane ps 2) (lane ps 3, 0)
  let (s2, r) := add32 r (lane ps 4) (lane ps 5, 0)
  let (s3, r) := add32 r (lane ps 6) (lane ps 7, 0)
  let (h0, r) := add32 r s0 (s1, 0)
  let (h1, r) := add32 r s2 (s3, 0)
  add32 r h0 (h1, 0)

/-- Write an FP32 result into bits [31:0] of a register. -/
def State.setF32 (s : State) (d : RegNo) (v : FVal) : State := s.setX d (BitVec.ofNat 64 (FFmt.f32.deliver .rne false v).1)

/-- A sum of terms: eight FP32 lanes, or integers modulo 2^64 (R151). -/
def sumTerms (f : Fmt) (d : RegNo) (vl : Nat) (term : State → Nat → FVal × BitVec 5) (int : State → Nat → Int) (s : State) (r : Rnd) :
    State × Rnd :=
  if isIntFmt f then
    (s.setX d (BitVec.ofInt 64 ((List.range vl).foldl (fun acc i => acc + int s i) 0)), r)
  else
    let start : List FVal × Rnd := (List.replicate 8 (.fin true 0 0), r)
    let (ps, r) := (List.range vl).foldl (fun (acc : List FVal × Rnd) i =>
      let (v, r) := add32 acc.2 (lane acc.1 (i % 8)) (term s i)
      (listUpd acc.1 (i % 8) (fun _ => v), r)) start
    let (v, r) := laneSum r ps
    (s.setF32 d v, r)

/-- `vsum` (R151). -/
def execVsum (p : Pfx) (d a : RegNo) (x : Bool) (fmt : Option Fmt) (s : State) : Out :=
  let f := elemFmt fmt
  let e := fmtBytes f
  streamOp (.vsum p d a x fmt) p 1 (fun s => [s.arg a f true false x])
    (fun s os r =>
      let oa := os.getD 0 0
      sumTerms f d s.thr.vl.toNat (fun s i => (fv f (s.vget (oa + i * e) e), 0)) (fun s i => intValue f (s.vget (oa + i * e) e)) s r) s

/-- `vdot` (R151). -/
def execVdot (p : Pfx) (d a b : RegNo) (x : Bool) (fmt : Option Fmt) (s : State) : Out :=
  let f := elemFmt fmt
  let e := fmtBytes f
  streamOp (.vdot p d a b x fmt) p 1 (fun s => [s.arg a f true false x, s.arg b f true false x])
    (fun s os r =>
      let oa := os.getD 0 0
      let ob := os.getD 1 0
      sumTerms f d s.thr.vl.toNat (fun s i => (fv f (s.vget (oa + i * e) e)).mul (fv f (s.vget (ob + i * e) e)))
        (fun s i => intValue f (s.vget (oa + i * e) e) * intValue f (s.vget (ob + i * e) e)) s r) s

/-- `vrmax` (R151): the greatest element; a floating result is exact in FP32. -/
def execVrmax (p : Pfx) (d a : RegNo) (x : Bool) (fmt : Option Fmt) (s : State) : Out :=
  let f := elemFmt fmt
  let e := fmtBytes f
  streamOp (.vrmax p d a x fmt) p 1 (fun s => [s.arg a f true false x])
    (fun s os r =>
      let oa := os.getD 0 0
      let first := s.vget oa e
      let (v, fl) := (List.range s.thr.vl.toNat).foldl (fun (acc : Nat × BitVec 5) i =>
        let y := minMax f true acc.1 (s.vget (oa + i * e) e)
        (y.1, acc.2 ||| y.2)) (first, 0)
      (if isIntFmt f then s.setX d (BitVec.ofInt 64 (intValue f v)) else s.setF32 d (fv f v), r.flag fl)) s

-- compare, select, scalars, bits
/-- `vcmp` (R149). -/
def execVcmp (p : Pfx) (d a b : RegNo) (x : Bool) (c : VCmp) (fmt : Option Fmt) (s : State) : Out :=
  let f := elemFmt fmt
  map3 (.vcmp p d a b x c fmt) p d a b x f false
    (fun r _ a b => let (t, fl) := compareOp f c a b; (if t then ones f else 0, r.flag fl)) s
/-- `vsel` (R149). -/
def execVsel (p : Pfx) (d a b : RegNo) (x : Bool) (fmt : Option Fmt) (s : State) : Out :=
  map3 (.vsel p d a b x fmt) p d a b x (elemFmt fmt) true (fun r d a b => (if d ≠ 0 then a else b, r)) s
/-- `vscl` (R144). -/
def execVscl (p : Pfx) (d a b : RegNo) (x : Bool) (fmt : Option Fmt) (s : State) : Out :=
  let f := elemFmt fmt
  let c := scalar f (s.x b)
  map2 (.vscl p d a b x fmt) p d a x f false (fun r _ a => arith f (fun _ a b => a.mul b) (· * ·) r a c) s
/-- `vaxpy` (R144). -/
def execVaxpy (p : Pfx) (d a b : RegNo) (x : Bool) (fmt : Option Fmt) (s : State) : Out :=
  let f := elemFmt fmt
  let c := scalar f (s.x b)
  map2 (.vaxpy p d a b x fmt) p d a x f true (fun r d a => fmaOp f false r d c a) s
/-- `vclmp` (R144). -/
def execVclmp (p : Pfx) (d a b : RegNo) (x : Bool) (fmt : Option Fmt) (s : State) : Out :=
  let c := s.x b
  map2 (.vclmp p d a b x fmt) p d a x (elemFmt fmt) false (fun r _ a => r.out (clampOp (elemFmt fmt) c a)) s
/-- `vset` (R144). -/
def execVset (p : Pfx) (d b : RegNo) (x : Bool) (fmt : Option Fmt) (s : State) : Out :=
  let f := elemFmt fmt
  let c := scalar f (s.x b)
  streamOp (.vset p d b x fmt) p 1 (fun s => [s.arg d f false true x])
    (fun s os r => elemLoop s.thr.vl.toNat (fun s r i => (s.vput (os.getD 0 0 + i * fmtBytes f) (fmtBytes f) c, r)) s r) s
/-- `vmov` (R148). -/
def execVmov (p : Pfx) (d a : RegNo) (x : Bool) (fmt : Option Fmt) (s : State) : Out :=
  map2 (.vmov p d a x fmt) p d a x (elemFmt fmt) false (fun r _ a => (a, r)) s
/-- `vand` (R150). -/
def execVand (p : Pfx) (d a b : RegNo) (x : Bool) (fmt : Option Fmt) (s : State) : Out :=
  map3 (.vand p d a b x fmt) p d a b x (elemFmt fmt) false (fun r _ a b => (Nat.land a b, r)) s
/-- `vor` (R150). -/
def execVor (p : Pfx) (d a b : RegNo) (x : Bool) (fmt : Option Fmt) (s : State) : Out :=
  map3 (.vor p d a b x fmt) p d a b x (elemFmt fmt) false (fun r _ a b => (Nat.lor a b, r)) s
/-- `vshl` (R150): post-increment comes from the modifier. -/
def execVshl (p : Pfx) (d a b : RegNo) (sar post : Bool) (fmt : Option Fmt) (s : State) : Out :=
  let c := (s.x b).toNat
  map2 (.vshl p d a b sar post fmt) p d a post (elemFmt fmt) false (fun r _ a => (shiftOp (elemFmt fmt) sar c a, r)) s

-- conversion and quantisation (R146, R147)
/-- The value of an element of any format but FP4B. -/
def elemVal (f : Fmt) (x : Nat) : FVal :=
  if isIntFmt f then .ofInt (intValue f x) 0 false else fv f x

/-- The value of an FP4B element under its scale byte (R57). -/
def fp4Val (k code : Nat) : FVal :=
  if k = 255 then .nan false
  else match FFmt.e2m1.decode code with | .fin n m e => .fin n m (e + k - 127) | v => v

/-- A value converted to a format that is not FP4B; `q` says whether it saturates as `vqnt` does (R63, R64, R147). -/
def convert (f : Fmt) (q : Bool) (r : Rnd) (v : FVal) : Nat × Rnd :=
  let (m, r) := r.next
  if isIntFmt f then r.out (toIntFmt f m (if q then flagOF ||| flagNX else flagNV) v)
  else
    let x := (floatFmt f).deliver m q v
    r.out (x.1, x.2 ||| (if v.isInf then (if q then flagOF ||| flagNX else if f = .e4 then flagNV else 0) else 0))

/-- Greatest k with 2^k at most a non-zero magnitude. -/
def logOf (m : Nat) (e : Int) : Int := Nat.log2 m + e

/-- The scale byte of a block of finite values (R147). -/
def blockScale (vs : List FVal) : Nat :=
  match (vs.filterMap fun v => match v with | .fin _ m e => if m = 0 then none else some (logOf m e) | _ => none).max? with
  | none => 0
  | some l => (max 0 (min 254 (l - 2 + 127))).toNat

/-- A block of 32 values as FP4B codes and a scale byte (R147). -/
def quantBlock (r : Rnd) (vs : List FVal) : List Nat × Nat × Rnd :=
  if vs.any fun v => v.isNan || v.isInf then
    let r := vs.foldl (fun r _ => r.next.2) r
    (vs.map fun _ => 0, 255, r.flag (if vs.any fun v => v.isInf || v.isSig then flagNV else 0))
  else
    let k := blockScale vs
    let (cs, r) := vs.foldl (fun (acc : List Nat × Rnd) v =>
      let (m, r) := acc.2.next
      let (c, r) := match v with
        | .fin n mg e => r.out (FFmt.e2m1.round m true n mg (e - k + 127))
        | _ => (0, r)
      (acc.1 ++ [c], r)) ([], r)
    (cs, k, r)

/-- Pairs of 4-bit codes as bytes, the first in the low half (R58). -/
def packNibbles : List Nat → List Byte
  | a :: b :: r => BitVec.ofNat 8 (a + 16 * b) :: packNibbles r
  | _ => []

/-- The 32 values of block g of a stream (R58, R134). -/
def State.readBlock (s : State) (f : Fmt) (o vl g : Nat) : List FVal :=
  if f = .f4b then
    let k := ofBytes (s.vbytes (o + vl / 2 + g) 1)
    (s.vbytes (o + 16 * g) 16).flatMap fun b => [fp4Val k (b.toNat % 16), fp4Val k (b.toNat / 16)]
  else (List.range 32).map fun j => elemVal f (s.vget (o + (32 * g + j) * fmtBytes f) (fmtBytes f))

/-- Write block g of a stream. -/
def State.writeBlock (s : State) (f : Fmt) (q : Bool) (o vl g : Nat) (r : Rnd) (vs : List FVal) : State × Rnd :=
  if f = .f4b then
    let (cs, k, r) := quantBlock r vs
    ((s.vputBytes (o + 16 * g) (packNibbles cs)).vputBytes (o + vl / 2 + g) [BitVec.ofNat 8 k], r)
  else
    let e := fmtBytes f
    let (_, s, r) := vs.foldl (fun (acc : Nat × State × Rnd) v =>
      let (c, r) := convert f q acc.2.2 v
      (acc.1 + 1, acc.2.1.vput (o + (32 * g + acc.1) * e) e c, r)) (0, s, r)
    (s, r)

/-- `vcvt` and `vqnt`: elements, or whole blocks where either side is FP4B; `scale` multiplies each value exactly. -/
def convOp (i : Instr) (p : Pfx) (d a : RegNo) (x : Bool) (dst src : Fmt) (q : Bool) (scale : FVal → FVal × BitVec 5) (s : State) : Out :=
  let blk := dst = .f4b || src = .f4b
  streamOp i p (if blk then 32 else 1) (fun s => [s.arg a src true false x, s.arg d dst false true x])
    (fun s os r =>
      let oa := os.getD 0 0
      let od := os.getD 1 0
      let vl := s.thr.vl.toNat
      if blk then
        elemLoop (vl / 32) (fun s r g =>
          let vs := (s.readBlock src oa vl g).map scale
          s.writeBlock dst q od vl g (r.flag (vs.foldl (fun f v => f ||| v.2) 0)) (vs.map (·.1))) s r
      else
        elemLoop vl (fun s r i =>
          let v := s.vget (oa + i * fmtBytes src) (fmtBytes src)
          let (c, r) :=
            if !q && isIntFmt src && isIntFmt dst then (satInt dst (intValue src v), r)
            else
              let (y, fl) := scale (elemVal src v)
              convert dst q (r.flag fl) y
          (s.vput (od + i * fmtBytes dst) (fmtBytes dst) c, r)) s r) s

/-- `vcvt` (R146): without an element code the source is INT8. -/
def execVcvt (p : Pfx) (d a : RegNo) (x : Bool) (dst : Fmt) (fmt : Option Fmt) (s : State) : Out :=
  convOp (.vcvt p d a x dst fmt) p d a x dst (fmt.getD .i8) false (fun v => (v, 0)) s
/-- `vqnt` (R147): scaled by the FP32 value of the scalar register. -/
def execVqnt (p : Pfx) (d a b : RegNo) (x : Bool) (dst : Fmt) (fmt : Option Fmt) (s : State) : Out :=
  let sc := FFmt.f32.decode ((s.x b).toNat % 2 ^ 32)
  convOp (.vqnt p d a b x dst fmt) p d a x dst (fmt.getD .i8) true (fun v => v.mul sc) s

-- gather and scatter (R152)
/-- The table checks of R133: the cursor's offset from the window base, as an integer, and the window offsets of the elements. -/
def State.checkTable (s : State) (r : Reg) (e : Nat) (perm : BitVec 9) (idx : List Nat) : Except TrapVal (List Nat) :=
  let addrs := idx.map fun j => r.cursor.toNat + j * e
  if !r.tag then .error (0x03, 0)
  else if !r.can perm then .error (0x05, r.cursor.setWidth 64)
  else
    match addrs.find? fun v => decide (v < r.base) || decide (r.limit < v + e) || decide (2 ^ 48 < v + e) with
    | some v => .error (0x04, BitVec.ofNat 64 v)
    | none =>
      if r.cursor.toNat % e ≠ 0 then .error (0x06, r.cursor.setWidth 64)
      else
        match addrs.find? fun v => decide (v < 0xFF0000000000) || decide (0xFF0000000000 + windowBytes s.quarters.length < v + e) with
        | some v => .error (0x04, BitVec.ofNat 64 v)
        | none => .ok (addrs.map fun v => v - 0xFF0000000000)

/-- A gather or scatter (R133, R152): the index stream b, the data stream and the table. -/
def tableOp (p : Pfx) (data table b : RegNo) (x : Bool) (f : Fmt) (gather : Bool) (s : State) : Out :=
  let e := fmtBytes f
  vecInstr p s fun s =>
    let vl := s.thr.vl.toNat
    let ia : VArg := { reg := b, n := 4 * vl, align := 4, e := 4, rd := true, wr := false, adv := x }
    let da : VArg := s.arg data f (!gather) gather x
    match s.checkStream ia with
    | .error e => .error e
    | .ok io =>
      match s.poisonIn io (4 * vl) with
      | some w => .error (0x0A, winAddr w)
      | none =>
        match s.checkStream da with
        | .error e => .error e
        | .ok od =>
          match s.checkTable (s.reg table) e (if gather then permR else permW) ((List.range vl).map fun i => s.vget (io + 4 * i) 4) with
          | .error e => .error e
          | .ok elems =>
            let ta := fun (o : Nat) => ((({ da with n := e, rd := gather, wr := !gather, adv := false } : VArg), o) : VArg × Nat)
            let rs := [(ia, io), (da, od)]
            let serial := argsOverlap (ia, io) (da, od) || elems.any fun o => rs.any fun y => argsOverlap (ta o) y
            let element := fun (i : Nat) => ([(od + i * e, e)], [(elems.getD i 0, e)])
            .ok { streams := rs,
                  poison := if gather then elems.findSome? fun o => s.poisonIn o e else s.poisonIn od da.n,
                  wait := if gather then s.vwaits od da.n else elems.findSome? fun o => s.vwaits o e,
                  serial := serial, early := unitsOf 32 io (4 * vl),
                  links := (List.range vl).map fun i =>
                    if gather then { src := (element i).2, dst := (element i).1 } else { src := (element i).1, dst := (element i).2 },
                  stalls := if serial then 0 else s.stallsOf rs, adv := [da, ia],
                  body := fun s r => elemLoop vl (fun s r i =>
                    if gather then (s.vput (od + i * e) e (s.vget (elems.getD i 0) e), r)
                    else (s.vput (elems.getD i 0) e (s.vget (od + i * e) e), r)) s r }

/-- `vgth` (R152). -/
def execVgth (p : Pfx) (d a b : RegNo) (x : Bool) (fmt : Option Fmt) (s : State) : Out := tableOp p d a b x (elemFmt fmt) true s
/-- `vsct` (R152). -/
def execVsct (p : Pfx) (d a b : RegNo) (x : Bool) (fmt : Option Fmt) (s : State) : Out := tableOp p a d b x (elemFmt fmt) false s

end Sys2Proof.Machine
end

