-- ==== Sys2Proof/Machine/Matrix.lean ====
section
/-! DEFINITION. The matrix engine as instructions see it: formats, shape records and their checks, the command queue, status and
cancellation, and the ends of handler threads and of threads (spec/13_matrix.md R283-R309; spec/10_tasks_messages_copies.md R236). -/
namespace Sys2Proof.Machine

-- formats (R286, R287)
/-- Fields of FMT (R286). -/
def fmtAF (f : BitVec 19) : Nat := bitsOf f.toNat 3 0
def fmtBF (f : BitVec 19) : Nat := bitsOf f.toNat 7 4
def fmtCF (f : BitVec 19) : Nat := bitsOf f.toNat 11 8
def fmtDF (f : BitVec 19) : Nat := bitsOf f.toNat 15 12
def fmtDRND (f : BitVec 19) : Nat := bitsOf f.toNat 17 16
def fmtDSAT (f : BitVec 19) : Bool := bitsOf f.toNat 18 18 = 1

/-- The element format of a code (R37), FP32 for a code that names none. -/
def fmtOfCode (c : Nat) : Fmt :=
  [Fmt.i8, .u8, .i16, .i32, .i64, .f32, .bf16, .f16, .e4, .e5, .f4b].getD c .f32

/-- Whether A, B and D formats are a combination of R287. -/
def fmtCombo (f : BitVec 19) : Bool :=
  let a := fmtAF f
  let b := fmtBF f
  let d := fmtDF f
  if a = 0 && b = 0 then d = 3 || d = 0
  else
    ((a = 6 && b = 6) || (a = 7 && b = 7) || ((a = 8 || a = 9) && (b = 8 || b = 9)) || (a = 10 && b = 10)) && [5, 6, 7, 8, 9].contains d

/-- Check 11 (R287, R293): CF too where C is accumulated. -/
def fmtSupported (f : BitVec 19) (acc : Bool) : Bool :=
  fmtCombo f && (!acc || (if fmtAF f = 0 then fmtCF f = 3 else [5, 6, 7].contains (fmtCF f)))

/-- Group size g (R284). -/
def groupSize (code : Nat) : Nat := if code = 6 || code = 7 then 1 else if code = 10 then 4 else 2

/-- Bytes of a row or column of n elements (R285, R292). -/
def rowBytes (code n : Nat) : Nat := if code = 10 then 17 * n / 32 else n * fmtBytes (fmtOfCode code)

/-- Slots of a panel (R285). -/
def panelSlots (code k : Nat) : Nat := (rowBytes code k + 1535) / 1536

-- the shape record (R291, R292)
/-- Bits of a shape record. -/
def shapeBits (r : BitVec 512) (hi lo : Nat) : Nat := bitsOf r.toNat hi lo

/-- Fields of a shape record (R291). -/
def shM (r : BitVec 512) : Nat := shapeBits r 15 0
def shN (r : BitVec 512) : Nat := shapeBits r 31 16
def shK (r : BitVec 512) : Nat := shapeBits r 47 32
def shFirst (r : BitVec 512) : Nat := shapeBits r 53 48
def shAcc (r : BitVec 512) : Bool := shapeBits r 56 56 = 1
def shHen (r : BitVec 512) : Bool := shapeBits r 57 57 = 1
def shGrp (r : BitVec 512) : Bool := shapeBits r 58 58 = 1
def shABase (r : BitVec 512) : Nat := shapeBits r 95 64
def shAStr (r : BitVec 512) : Nat := shapeBits r 127 96
def shCBase (r : BitVec 512) : Nat := shapeBits r 159 128
def shCStr (r : BitVec 512) : Nat := shapeBits r 191 160
def shDBase (r : BitVec 512) : Nat := shapeBits r 223 192
def shDStr (r : BitVec 512) : Nat := shapeBits r 255 224
def shHent (r : BitVec 512) : Nat := shapeBits r 303 256
def shCtag (r : BitVec 512) : Nat := shapeBits r 325 320
/-- Partner k, 1-3. -/
def shPartner (r : BitVec 512) (k : Nat) : Ltn := shapeBits r (370 + 32 * (k - 1)) (352 + 32 * (k - 1))

/-- First row and column of a tile's line: 0 the lead or a command of its own, 1-3 the partners (R292). -/
def lineRow (part : Nat) : Nat := if part = 2 || part = 3 then 128 else 0
def lineCol (part : Nat) : Nat := if part = 1 || part = 3 then 192 else 0

/-- Local extents (R292). -/
def localM (r : BitVec 512) (part : Nat) : Nat := if shGrp r then min 128 (shM r - lineRow part) else shM r
def localN (r : BitVec 512) (part : Nat) : Nat := if shGrp r then min 192 (shN r - lineCol part) else shN r

/-- Column and row blocks of a line, none where an extent is 0 (R284, R292). -/
def colBlocks (r : BitVec 512) (part : Nat) : Nat := if localM r part = 0 then 0 else (localN r part + 47) / 48
def rowBlocks (r : BitVec 512) (part : Nat) : Nat := if localN r part = 0 then 0 else (localM r part + 31) / 32

/-- Passes of a line. -/
def linePasses (r : BitVec 512) (part : Nat) : Nat := colBlocks r part * rowBlocks r part

-- panels (R285, R288)
/-- The slots that a load of control word b writes. -/
def loadSlots (b : Word) : List Nat := (List.range (panelSlots (wbits b 11 8) (wbits b 28 16))).map (· + wbits b 5 0)

/-- The bytes of the first k elements of a panel column of n rows (R58, R285): in FP4B the nibbles, and the scales behind those of all rows. -/
def colRanges (code n k : Nat) : List (Nat × Nat) := if code = 10 then [(0, k / 2), (n / 2, k / 32)] else [(0, rowBytes code k)]

/-- Slot records as a load leaves them (R285, R302). -/
def loadRecords (l : List (Nat × PanelSlot)) (c : MatCmd) : List (Nat × PanelSlot) :=
  let b : Word := c.shape.setWidth 64
  let first := wbits b 5 0
  (loadSlots b).foldl (fun l n =>
    assocSet n { head := n = first, first := first, fmt := wbits b 11 8, k := wbits b 28 16, w := wbits b 57 52, asid := c.asid, lgen := c.lgen } l) l

/-- The rows of the panel headed at a slot, or n where the slot heads none. -/
def panelRows (l : List (Nat × PanelSlot)) (head n : Nat) : Nat := match l.find? fun x => x.1 = head with | some x => x.2.k | none => n

/-- The slots that a load writes, or that a command reads of the panels as the loads accepted before it leave them, which may have more rows than
the command uses (R285, R288, R292, R293). -/
def Matrix.slotsOf (m : Matrix) (c : MatCmd) : List Nat :=
  if c.load then loadSlots (c.shape.setWidth 64)
  else
    let bf := fmtBF c.fmt
    let k := shK c.shape
    let records := ((m.queue.takeWhile fun q => q.seq ≠ c.seq).filter fun q => q.load).foldl loadRecords m.slots
    (List.range (colBlocks c.shape c.part)).flatMap fun i =>
      let head := shFirst c.shape + i * panelSlots bf k
      (colRanges bf (panelRows records head k) k).flatMap fun x => (unitsOf 1536 x.1 x.2).map (· + head)

/-- Slot records as every accepted load will leave them (R288). -/
def Matrix.seen (m : Matrix) : List (Nat × PanelSlot) := (m.queue.filter fun c => c.load).foldl loadRecords m.slots

-- validation (R293)
/-- Whether two byte ranges share a byte. -/
def rangesMeet (a an b bn : Nat) : Bool := 0 < an && 0 < bn && decide (a < b + bn) && decide (b < a + an)

/-- Drain area of a core for a gang of q quarters: its start and length (R295). -/
def drainBase (q core b : Nat) : Nat := core * (q * 24576) + q * 24576 - 768 + b * 192

/-- Sub-code 9: a column block without a fitting panel (R293). -/
def panelsFit (slots : List (Nat × PanelSlot)) (res : Resid) (r : BitVec 512) (f : BitVec 19) (part : Nat) : Bool :=
  let n := localN r part
  let bf := fmtBF f
  (List.range (colBlocks r part)).all fun c =>
    let at' := shFirst r + c * panelSlots bf (shK r)
    at' ≤ 63 && res.slotFirst ≤ at' && decide (at' < res.slotFirst + res.slotCount) &&
    (match slots.find? fun x => x.1 = at' with
     | some (_, x) =>
       x.head && x.asid = res.asid && x.lgen = res.lgen && x.fmt = bf && decide (shK r ≤ x.k) && decide (min 48 (n - 48 * c) ≤ x.w)
     | none => false)

/-- Checks 4-9 for a tile's line (R293): the sub-code that fails first. -/
def lineCheck (slots : List (Nat × PanelSlot)) (res : Resid) (code : Reg) (core : Nat) (r : BitVec 512) (f : BitVec 19) (part : Nat) : Option Nat :=
  let m := localM r part
  let n := localN r part
  let q := res.quarters.length
  let acc := shAcc r
  let bA := rowBytes (fmtAF f) (shK r)
  let bC := rowBytes (fmtCF f) n
  let bD := rowBytes (fmtDF f) n
  let lenA := (m - 1) * shAStr r + bA
  let lenC := (m - 1) * shCStr r + bC
  let lenD := (m - 1) * shDStr r + bD
  let top := windowBytes q
  let drain := drainBase q core 0
  if m = 0 || n = 0 then none
  else if shABase r % 32 ≠ 0 || (acc && shCBase r % 32 ≠ 0) || shDBase r % 32 ≠ 0 then some 4
  else if shAStr r % 32 ≠ 0 || (acc && shCStr r % 32 ≠ 0) || shDStr r % 32 ≠ 0 then some 5
  else if shAStr r < bA || (acc && decide (shCStr r < bC)) || shDStr r < bD then some 6
  else if top < shABase r + lenA || (acc && decide (top < shCBase r + lenC)) || top < shDBase r + lenD then some 7
  else if shHen r &&
      (rangesMeet (shABase r) lenA drain 768 || (acc && rangesMeet (shCBase r) lenC drain 768) || rangesMeet (shDBase r) lenD drain 768 ||
       shHent r % 2 = 1 || decide (code.limit < code.base + shHent r + 2)) then some 7
  else if rangesMeet (shDBase r) lenD (shABase r) lenA || (acc && rangesMeet (shDBase r) lenD (shCBase r) lenC) then some 8
  else if panelsFit slots res r f part then none
  else some 9

/-- Checks 11, 1, 2 and 3 (R293). -/
def shapeCheck (r : BitVec 512) (f : BitVec 19) : Option Nat :=
  let g := groupSize (fmtAF f)
  if !fmtSupported f (shAcc r) then some 11
  else if shM r = 0 || shN r = 0 || shK r = 0 then some 1
  else if 4096 < shK r || (!shGrp r && (decide (128 < shM r) || decide (192 < shN r))) || (shGrp r && (decide (256 < shM r) || decide (384 < shN r)))
    then some 2
  else if shK r % g ≠ 0 || (fmtAF f = 10 && shK r % 32 ≠ 0) then some 3
  else none

/-- Check 10: the partners of a group (R293). -/
def State.partnersBad (s : State) (g : Gang) (lead : Ltn) (r : BitVec 512) : Bool :=
  let ps := [1, 2, 3].map (shPartner r)
  shGrp r &&
  (ps.any (fun n => !(s.binding n).v || !(g.tiles.contains n) || g.excused.contains n || n = lead) || ps.eraseDups.length ≠ 3)

/-- The checks that the lead makes itself (R293, R294). -/
def State.leadCheck (s : State) (t core : Nat) (g : Gang) (res : Resid) (r : BitVec 512) (f : BitVec 19) : Option Nat :=
  match shapeCheck r f with
  | some c => some c
  | none =>
    match lineCheck (s.tile t).mat.seen res g.code core r f 0 with
    | some c => some c
    | none => if s.partnersBad g res.ltn r then some 10 else none

-- status (R304)
/-- Key of a command's gang. -/
def MatCmd.key (c : MatCmd) : Nat := gangKey c.asid c.lgen

/-- Update a command. -/
def State.modCmd (s : State) (t seq : Nat) (f : MatCmd → MatCmd) : State :=
  s.modTile t fun x => { x with mat := { x.mat with queue := x.mat.queue.map fun c => if c.seq = seq then f c else c } }

/-- Remove a command. -/
def State.dropCmd (s : State) (t seq : Nat) : State :=
  s.modTile t fun x => { x with mat := { x.mat with queue := x.mat.queue.filter fun c => c.seq ≠ seq } }

/-- Queue entries of a core: its own commands of gangs that run here (R283, R294, R299). -/
def State.qlen (s : State) (t core : Nat) : Nat :=
  ((s.tile t).mat.queue.filter fun c => c.core = core && c.part = 0 && (s.tile t).runners.any fun r => r.asid = c.asid && r.lgen = c.lgen).length

/-- The word `mstat` reads (R304). -/
def State.mstatWord (s : State) : Nat :=
  let t := s.tileNo
  let c := (s.tile t).core s.coreNo
  let m := assocGet s.myKey .zero c.mstat
  let held := (c.bufs.filter fun h => gangKey h.asid h.lgen = s.myKey && h.ltn = s.thr.ltn).length
  let busy := (s.tile t).mat.queue.any fun q => q.core = s.coreNo && q.key = s.myKey && (s.tile t).mat.rows.any fun r => r.cmd = q.seq
  m.sub * 2 ^ 56 + m.rtag * 2 ^ 50 + m.part * 2 ^ 48 + m.rej * 2 ^ 32 + m.flg.toNat * 2 ^ 27 + bit m.psn * 2 ^ 26 + bit m.drop * 2 ^ 25 +
  bit m.can * 2 ^ 24 + held * 16 + bit busy * 8 + min 7 (s.qlen t s.coreNo)

-- completion (R297, R305)
/-- Whether a command's passes, rows, buffers and partner reports are done. -/
def State.cmdDone (s : State) (t : Nat) (c : MatCmd) : Bool :=
  let x := s.tile t
  c.accepted && !c.load && (c.stopping || c.pass = linePasses c.shape c.part) && !x.mat.rows.any (fun r => r.cmd = c.seq) &&
  (c.stopping || !x.cores.any fun k => k.2.bufs.any fun h => h.cmd = c.seq) && c.reports.isEmpty

/-- Threads whose `mcan` waits for nothing more retire (R305). -/
def State.wakeCancel (s : State) (t : Nat) : State :=
  (s.threads.filter fun th =>
    th.loc.inSlot && th.loc.site = t &&
    (match th.park with | some (.matCancel _) => true | _ => false) &&
    !(s.tile t).mat.queue.any fun c => c.stopping && c.part = 0 && c.core = th.loc.core && th.inGang c.asid c.lgen).foldl
    (fun s th =>
      s.onThread th.id fun s =>
        match s.thr.park with
        | some (.matCancel len) => s.retireTo (s.pc + BitVec.ofNat 48 len)
        | _ => s) s

/-- A command that is done leaves the queue: its tag, flags and poison, or a partner's report to its lead (R294, R297, R305). -/
def State.complete (s : State) (t : Nat) (c : MatCmd) : State :=
  let s := s.dropCmd t c.seq
  if c.part = 0 then
    let s := s.modMStat t c.core c.key fun m => { m with flg := m.flg ||| c.flags, psn := m.psn || c.psn }
    let s := if c.stopping then s else s.setCopyTag t c.core c.key (shCtag c.shape)
    s.wakeCancel t
  else s.send t c.ltn c.lead c.asid c.lgen (.shareReport c.leadCmd c.part c.flags c.psn)

/-- Complete every command of a tile that is done. -/
def State.settle (s : State) (t : Nat) : State :=
  (s.tile t).mat.queue.foldl (fun s c =>
    match (s.tile t).mat.queue.find? fun q => q.seq = c.seq with
    | some q => if s.cmdDone t q then s.complete t q else s
    | none => s) s

/-- A row buffer is freed (R295). -/
def State.freeBuffer (s : State) (t : Nat) (h : HeldRow) : State :=
  (s.dropBuffer t h).settle t

-- instructions
/-- `mfmt` (R301). -/
def execMfmt (p : Pfx) (a : RegNo) (s : State) : Out :=
  guarded 3 p s fun s =>
    let v := s.x a
    let f : BitVec 19 := v.setWidth 19
    if wbits v 63 19 ≠ 0 || !fmtCombo f then s.takeTrap 0x01 v
    else (s.withThr fun th => { th.fold (bytesOf 8 f.toNat) with fmt := f }).retire 3 p

/-- The checks of `mbld` before it waits (R302): the trap, or the window offset of its source. -/
def mbldCheck (a : Reg) (b : Word) (q slotFirst slotCount : Nat) : Except TrapVal Nat :=
  let bf := wbits b 11 8
  let k := wbits b 28 16
  let w := wbits b 57 52
  let cs := wbits b 51 32
  let first := wbits b 5 0
  let cb := rowBytes bf k
  let span := (w - 1) * cs + cb
  let n := panelSlots bf k
  let at' : Word := a.cursor.setWidth 64
  if wbits b 63 58 ≠ 0 || wbits b 31 29 ≠ 0 || wbits b 15 12 ≠ 0 || wbits b 7 6 ≠ 0 || !(([0, 6, 7, 8, 9, 10] : List Nat).contains bf) || k = 0 || 4096 < k ||
     k % groupSize bf ≠ 0 || (bf = 10 && k % 32 ≠ 0) || w = 0 || 48 < w || cs % 32 ≠ 0 || (1 < w && decide (cs < cb)) then .error (0x01, b)
  else if !a.tag then .error (0x03, 0)
  else if !a.can (permR ||| permENG) then .error (0x05, at')
  else if a.cursor.toNat < a.base || a.limit < a.cursor.toNat + span then .error (0x04, at')
  else if a.cursor.toNat % 32 ≠ 0 then .error (0x06, at')
  else if !inWindow a.cursor || windowBytes q < winOffset a.cursor + span then .error (0x04, at')
  else if 63 < first + n - 1 || first < slotFirst || slotFirst + slotCount < first + n then .error (0x05, b)
  else .ok (winOffset a.cursor)

/-- Append a command to the queue of the issuing thread's tile. -/
def State.queueCmd (s : State) (load : Bool) (shape : BitVec 512) (src : Nat) (accepted : Bool) : State :=
  let th := s.thr
  let core := s.coreNo
  let (id, s) := s.fresh
  let c : MatCmd := { seq := id, load := load, core := core, asid := th.asid, lgen := th.lgen, ltn := th.ltn, shape := shape, fmt := th.fmt,
                      src := src, part := 0, lead := th.ltn, leadCmd := id, accepted := accepted, pass := 0, stopping := false, th := th.id,
                      answers := [], reports := if !load && shGrp shape then [1, 2, 3] else [], flags := 0, psn := false, early := [] }
  s.modTile s.tileNo fun x => { x with mat := { x.mat with queue := x.mat.queue ++ [c] } }

/-- The residency entry of the issuing thread's gang on its tile. -/
def State.myResid (s : State) : Option Resid := (s.tile s.tileNo).residFor s.thr.asid s.thr.lgen s.thr.ltn

/-- `mbld` (R302). -/
def execMbld (p : Pfx) (a b : RegNo) (s : State) : Out :=
  guarded 3 p s fun s => s.boundary fun s =>
    let (sf, sc) := match s.myResid with | some r => (r.slotFirst, r.slotCount) | none => (0, 0)
    s.checked (mbldCheck (s.reg a) (s.x b) s.quarters.length sf sc) fun off =>
      if 0 < unsent s.thr.sb then s.parkOn .sbEmpty
      else if 4 ≤ s.qlen s.tileNo s.coreNo then s.parkOn .matQueue
      else (s.queueCmd true ((s.x b).setWidth 512) off true).retire 3 p

/-- The checks of `mmq` on its capability, with the permissions it needs (R303): the window offset of the record. -/
def mmqCheck (a : Reg) (perm : BitVec 9) (q : Nat) : Except TrapVal Nat :=
  let at' : Word := a.cursor.setWidth 64
  if !a.tag then .error (0x03, 0)
  else if !a.can perm then .error (0x05, at')
  else if a.cursor.toNat < a.base || a.limit < a.cursor.toNat + 64 then .error (0x04, at')
  else if a.cursor.toNat % 64 ≠ 0 then .error (0x06, at')
  else if !inWindow a.cursor || windowBytes q < winOffset a.cursor + 64 then .error (0x04, at')
  else .ok (winOffset a.cursor)

/-- A record is rejected (R293): the trap 0x0C under MTRAP, or its sub-code recorded and the instruction retired. -/
def State.rejectShape (s : State) (len : Nat) (r : BitVec 512) (sub part : Nat) : State :=
  if s.thr.mtrap then s.takeTrap 0x0C (BitVec.ofNat 64 (sub + part * 16))
  else
    (s.modMStat s.tileNo s.coreNo s.myKey fun m => { m with sub := sub, rtag := shCtag r, part := part, rej := min 65535 (m.rej + 1) }).retireTo
      (s.pc + BitVec.ofNat 48 len)

/-- Send a group's record to its partners (R294). -/
def State.askPartners (s : State) (cmd : Nat) (r : BitVec 512) : State :=
  [1, 2, 3].foldl (fun s k =>
    s.send s.tileNo s.thr.ltn (shPartner r k) s.thr.asid s.thr.lgen (.shareRequest cmd r s.thr.fmt s.coreNo k)) s

/-- `mmq` with its record read (R303): once the queue has an entry the record is checked, a single command is accepted at once, and a group's
waits for its partners' answers; a change of the record during the wait has no effect. -/
def State.submit (s : State) (p : Pfx) (r : BitVec 512) : State :=
  if 4 ≤ s.qlen s.tileNo s.coreNo then (s.withThr fun th => { th with mrec := some r }).parkOn .matQueue
  else
    let s := s.withThr fun th => { th with mrec := none }
    match s.myGang, s.myResid with
    | some g, some res =>
      match s.leadCheck s.tileNo s.coreNo g res r s.thr.fmt with
      | some sub => s.rejectShape (instrBytes 3 p) r sub 0
      | none =>
        if shGrp r then
          let id := s.nextId
          ((s.queueCmd false r (instrBytes 3 p) false).askPartners id r).parkOn (.matGroup id)
        else (s.queueCmd false r 0 true).retire 3 p
    | _, _ => s.rejectShape (instrBytes 3 p) r 9 0

/-- `mmq` (R303). -/
def execMmq (p : Pfx) (a : RegNo) (s : State) : Out :=
  guarded 3 p s fun s => s.boundary fun s =>
    match s.thr.mrec with
    | some r => s.submit p r
    | none =>
      s.checked (mmqCheck (s.reg a) (permR ||| permENG) s.quarters.length) fun off =>
        if 0 < unsent s.thr.sb then s.parkOn .sbEmpty
        else if (s.poisonIn off 64).isSome then s.takeTrap 0x0A ((s.reg a).cursor.setWidth 64)
        else s.submit p (BitVec.ofNat 512 (ofBytes (s.vbytes off 64)))

/-- `mstat` (R304). -/
def execMstat (p : Pfx) (d : RegNo) (s : State) : Out :=
  guarded 3 p s fun s => s.boundary fun s =>
    let v := s.mstatWord
    ((s.modMStat s.tileNo s.coreNo s.myKey fun _ => .zero).setX d (BitVec.ofNat 64 v)).retire 3 p

/-- Cancel a partner's share of a command (R305). -/
def State.cancelShares (s : State) (t : Nat) (c : MatCmd) : State :=
  if shGrp c.shape && c.part = 0 && !c.load then
    c.reports.foldl (fun s k => s.send t c.ltn (shPartner c.shape k) c.asid c.lgen (.shareCancel c.seq k)) s
  else s

/-- `mcan` (R305): commands not started are discarded, with a[0] the running one stops after its pass; the thread waits for what it
has stopped, which one that was saved while it waited and executes its `mcan` again finds stopping already. -/
def execMcan (p : Pfx) (a : RegNo) (s : State) : Out :=
  guarded 3 p s fun s => s.boundary fun s =>
    let v := s.x a
    let t := s.tileNo
    if wbits v 63 1 ≠ 0 then s.takeTrap 0x01 v
    else
      let hit := fun (c : MatCmd) =>
        c.core = s.coreNo && c.key = s.myKey && c.part = 0 && !c.load && c.accepted && !c.stopping && (c.pass = 0 || v.getLsbD 0)
      let gone := (s.tile t).mat.queue.filter hit
      let waits := (s.tile t).mat.queue.any fun c => c.core = s.coreNo && c.key = s.myKey && c.part = 0 && c.stopping
      if gone.isEmpty then if waits then s.parkOn (.matCancel (instrBytes 3 p)) else s.retire 3 p
      else
        let s := gone.foldl (fun s c => (s.modCmd t c.seq fun c => { c with stopping := true }).cancelShares t c) s
        let s := s.modMStat t s.coreNo s.myKey fun m => { m with can := true }
        (s.parkOn (.matCancel (instrBytes 3 p))).settle t

/-- `mwgt` (R307). -/
def execMwgt (p : Pfx) (a b : RegNo) (s : State) : Out :=
  sysOnly (.mwgt p a b) 3 p s fun s =>
    let k := s.x a
    let w := s.x b
    if wbits k 63 3 ≠ 0 then s.takeTrap 0x01 k
    else if w = 0 || 8 < w.toNat then s.takeTrap 0x01 w
    else
      let sh := 4 * k.toNat
      (s.modTile s.tileNo fun x =>
        { x with mat := { x.mat with weights := (x.mat.weights &&& ~~~((0xF#32) <<< sh)) ||| ((w.setWidth 32) <<< sh) } }).retire 3 p

-- rows (R295, R306)
/-- A value of the accumulator converted to the D format of a command (R287): its bytes and flags.  DESIGN CHOICE (log 56): an infinite
accumulator converted to FP8E4 with DSAT set is clamped by R287's Sat, plus or minus M with OF and NX, not the NaN that R63 gives without
a clamp. -/
def drainValue (f : BitVec 19) (v : BitVec 32) : List Byte × BitVec 5 :=
  let d := fmtOfCode (fmtDF f)
  if fmtAF f = 0 then (bytesOf (fmtBytes d) (satInt d (intValue .i32 v.toNat)), 0)
  else
    let (x, r) := convert d (fmtDSAT f) { rm := fmtDRND f, sr := false, seed := 0, fl := 0 } (FFmt.f32.decode v.toNat)
    (bytesOf (fmtBytes d) x, r.fl)

/-- Converted values of a row, and their flags. -/
def drainRow (f : BitVec 19) (vs : List (BitVec 32)) : List Byte × BitVec 5 :=
  vs.foldl (fun acc v => let (bs, fl) := drainValue f v; (acc.1 ++ bs, acc.2 ||| fl)) ([], 0)

/-- Runs of a byte range of a window that stay within one sector: offset and length. -/
def sectorRuns (o n : Nat) : List (Nat × Nat) :=
  (unitsOf 32 o n).map fun u => let a := max o (32 * u); (a, min (o + n) (32 * u + 32) - a)

/-- What an engine write of a window range of a gang waits for. -/
def State.engineWaits (s : State) (t asid lgen : Nat) (qs : List Nat) (o n : Nat) : Option Park :=
  (sectorRuns o n).findSome? fun x => s.writeWaits 0 asid lgen (windowKey t qs x.1) x.2

/-- An engine write of a window range of a gang (R109, R298): poison in every sector touched if the data is poisoned. -/
def State.engineWrite (s : State) (t asid lgen : Nat) (qs : List Nat) (o : Nat) (bs : List Byte) (psn : Bool) : State :=
  (sectorRuns o bs.length).foldl (fun s x =>
    let pa := windowKey t qs x.1
    s.change asid lgen pa x.2 fun s =>
      let s := s.poke pa ((bs.drop (x.1 - o)).take x.2)
      if psn then s.setPoison pa true else s) s

/-- A handler thread ends, its store buffer left to drain: what it holds is homed outside the field (R261, R306). -/
def Thread.leaves (th : Thread) : Thread :=
  if drained th.sb then th.ends else { th with loc := .draining th.loc.site th.loc.core, park := none, tandem := none }

/-- `hrel` (R306). -/
def execHrel (p : Pfx) (s : State) : Out :=
  guarded 3 p s fun s =>
    match s.thr.heldRow, s.myResid with
    | some h, some r =>
      let t := s.tileNo
      let base := drainBase r.quarters.length h.core h.buf
      if s.thr.groupWaits then s.parkOn .winStores
      else
        match s.poisonIn base (4 * h.n) with
        | some w => s.takeTrap 0x0A (winAddr w)
        | none =>
          let vs := (List.range h.n).map fun j => BitVec.ofNat 32 (ofBytes (s.vbytes (base + 4 * j) 4))
          let (bs, fl) := drainRow h.fmt vs
          match s.engineWaits t h.asid h.lgen r.quarters h.dOff bs.length with
          | some w => s.waitOn w
          | none =>
            let s := (s.engineWrite t h.asid h.lgen r.quarters h.dOff bs false).orFlags fl
            (s.withThr Thread.leaves).freeBuffer t h
    | _, _ => s.illegal (.hrel p)

-- the end of a thread (R236)
/-- The thread ends; a handler's buffer is released with its row unwritten and DROP set (R236, R296, R304). -/
def State.endSelf (s : State) : State :=
  let t := s.tileNo
  match s.thr.heldRow with
  | some h => ((s.modMStat t h.core (gangKey h.asid h.lgen) fun m => { m with drop := true }).withThr Thread.ends).freeBuffer t h
  | none => s.withThr Thread.ends

/-- The decrement of `tend` at its home, then the end (R236). -/
def State.tendAt (s : State) (va : VAddr) (h : Home) : State :=
  match h with
  | .host _ _ => s.endSelf
  | .tile t pa name =>
    if name = s.thr.ltn then
      s.whenWritable pa 8 fun s =>
        let asid := s.thr.asid
        let lgen := s.thr.lgen
        let (st, s) := s.perform asid lgen pa .dec false
        (if st = 1 then s.consumedBy t asid lgen va else s).endSelf
    else (s.send s.tileNo s.thr.ltn name s.thr.asid s.thr.lgen (.store s.thr.id s.nextId .dec va pa)).endSelf

/-- `tend` (R236). -/
def execTend (p : Pfx) (s : State) : Out :=
  if !s.guardHolds p then .next (s.retire 1 p)
  else if s.thr.intervalOpen then .next (s.parkOn .follower)
  else
    let c := s.reg 3
    if c.tag && c.can permSYN then
      s.withAddr c 8 (permW ||| permSYN) fun s va =>
        s.withHome va 8 2 true { host := true, loc := false } fun s h => .next (s.whenDrained fun s => s.tendAt va h)
    else .next (s.whenDrained State.endSelf)

end Sys2Proof.Machine
end

