-- ==== Sys2Proof/Machine/MatrixEvents.lean ====
section
/-! DEFINITION. The matrix engine at work: arbitration and passes, panel loads, draining, handler threads and groups
(spec/13_matrix.md R284-R298, R305; spec/03_numbers.md R66). -/
namespace Sys2Proof.Machine

-- arbitration (R288, R289)
/-- Whether two commands of an engine use a common slot. -/
def Matrix.shareSlot (m : Matrix) (a b : MatCmd) : Bool := (m.slotsOf a).any (m.slotsOf b).contains

/-- Whether a command has passes left. -/
def MatCmd.hasPasses (c : MatCmd) : Bool := !c.load && c.accepted && !c.stopping && c.pass < linePasses c.shape c.part

/-- Whether a gang has been saved, its commands with it (R299, R372). -/
def State.isSaved (s : State) (asid lgen : Nat) : Bool :=
  match s.gang? asid lgen with
  | some g => !g.saved.isEmpty
  | none => false

/-- The head of a core: its oldest accepted command with work left (R289), those of saved gangs set apart (R299). -/
def State.head (s : State) (t core : Nat) : Option MatCmd :=
  (s.tile t).mat.queue.find? fun c => c.core = core && c.accepted && (c.load || c.hasPasses) && !s.isSaved c.asid c.lgen

/-- Whether a head is ready (R288, R289): its gang runs; earlier loads of its slots are performed, and for a load the earlier commands
that read its slots have finished their passes, shares that a partner has reserved among them. -/
def State.headReady (s : State) (t : Nat) (c : MatCmd) : Bool :=
  let x := s.tile t
  (x.runners.any fun r => r.asid = c.asid && r.lgen = c.lgen) &&
  !((x.mat.queue.takeWhile fun q => q.seq ≠ c.seq).any fun q =>
      (q.load || (c.load && (q.hasPasses || (!q.accepted && q.part ≠ 0)))) && x.mat.shareSlot q c)

/-- Weight of a core (R307). -/
def Matrix.weight (m : Matrix) (core : Nat) : Nat := bitsOf m.weights.toNat (4 * core + 3) (4 * core)

/-- What the arbiter grants next: the command, and the pointer, core and credit it leaves (R289). -/
def State.arbitrate (s : State) (t : Nat) : Option (MatCmd × Nat × Nat × Nat) :=
  let m := (s.tile t).mat
  let ready := fun (k : Nat) => (s.head t k).filter (s.headReady t)
  let again := match m.grant with | some k => if 0 < m.credit then (ready k).map fun c => (c, m.ptr, k, m.credit - 1) else none | none => none
  match again with
  | some g => some g
  | none =>
    ((List.range 8).map fun i => (m.ptr + i) % 8).findSome? fun k => (ready k).map fun c => (c, (k + 1) % 8, k, m.weight k - 1)

/-- Take a grant. -/
def State.takeGrant (s : State) (t ptr k credit : Nat) : State :=
  s.modTile t fun x => { x with mat := { x.mat with ptr := ptr, grant := some k, credit := credit } }

-- reading operands
/-- Byte of a panel slot column: byte i of column j of a panel headed at a slot (R285). -/
def panelKey (t first j i : Nat) : Nat := operandKey t (first + i / 1536) (j * 1536 + i % 1536)

/-- A value of n elements laid out by R58 or row-major: element k read byte by byte. -/
def elemAt (code : Nat) (n : Nat) (byte : Nat → Byte) (k : Nat) : FVal :=
  if code = 10 then
    let b := (byte (k / 2)).toNat
    fp4Val (byte (n / 2 + k / 32)).toNat (if k % 2 = 0 then b % 16 else b / 16)
  else
    let f := fmtOfCode code
    let e := fmtBytes f
    elemVal f (ofBytes ((List.range e).map fun i => byte (k * e + i)))

/-- Byte of a window offset of a gang on a site. -/
def State.winByte (s : State) (t : Nat) (qs : List Nat) (o : Nat) : Byte := Memory.get s.mem (windowKey t qs o)

/-- Whether a byte range of a window of a gang is poisoned. -/
def State.winPoisoned (s : State) (t : Nat) (qs : List Nat) (o n : Nat) : Bool :=
  (sectorRuns o n).any fun x => s.psnAt (windowKey t qs x.1)

-- one cell (R66)
/-- The exact sum of a group, its NV flag (R66).  DESIGN CHOICE (log 56): the terms are added in order, so a quiet NaN that comes before the
second of two opposite infinities leaves NV clear; R66 gives one exact expression and no order. -/
def groupSum (as bs : List FVal) : FVal × BitVec 5 :=
  match (as.zip bs).map fun x => x.1.mul x.2 with
  | [] => (.fin false 0 0, 0)
  | p :: r => r.foldl (fun acc q => let (v, f) := FVal.add .rne acc.1 q.1; (v, acc.2 ||| q.2 ||| f)) p

/-- One step of a floating cell: RNE(acc + s, FP32) (R66). -/
def cellStep (acc : FVal × BitVec 5) (s : FVal × BitVec 5) : FVal × BitVec 5 :=
  let (v, f) := FVal.add .rne acc.1 s.1
  let (x, g) := FFmt.f32.deliver .rne false v
  (FFmt.f32.decode x, acc.2 ||| s.2 ||| f ||| g)

/-- Groups of g of a list. -/
def chunks {α : Type} (g : Nat) : Nat → List α → List (List α)
  | 0, _ => []
  | n + 1, l => l.take g :: chunks g n (l.drop g)

/-- A floating cell over K (R66). -/
def floatCell (g : Nat) (c : FVal) (as bs : List FVal) : Nat × BitVec 5 :=
  let n := as.length / g
  let (v, f) := ((chunks g n as).zip (chunks g n bs)).foldl (fun acc x => cellStep acc (groupSum x.1 x.2)) (c, 0)
  ((FFmt.f32.deliver .rne false v).1, f)

/-- The integer of an exact value. -/
def FVal.toInt : FVal → Int
  | .fin n m _ => if n then -(m : Int) else m
  | _ => 0

/-- An INT8 cell over K: signed, wrapping modulo 2^32 (R66). -/
def intCell (c : Int) (as bs : List FVal) : Nat :=
  intPattern .i32 ((as.zip bs).foldl (fun acc x => acc + x.1.toInt * x.2.toInt) c)

-- passes (R284)
/-- Whether n bytes at a window offset are an element of rows of a command, which begin at a base with a stride: a byte is, of packed nibbles and
scales. -/
def isElement (code base str rows off n : Nat) : Bool :=
  let e := if code = 10 then 1 else fmtBytes (fmtOfCode code)
  n = e && (List.range rows).any fun i => decide (base + i * str ≤ off) && (off - (base + i * str)) % e = 0

/-- A pass to come of a command reads an element of A or C (R297): whatever is written before the pass, it uses this value. -/
def State.matRead (s : State) (t cmd pass off n : Nat) : State :=
  match (s.tile t).mat.queue.find? fun c => c.seq = cmd with
  | none => s
  | some c =>
    let r := c.shape
    let m := localM r c.part
    match (s.tile t).residFor c.asid c.lgen c.ltn with
    | none => s
    | some res =>
      if c.hasPasses && decide (c.pass ≤ pass) && !(c.early.any fun e => e.1 = pass && e.2.1 = off) && decide (off + n ≤ windowBytes res.quarters.length) &&
         (isElement (fmtAF c.fmt) (shABase r) (shAStr r) m off n || (shAcc r && isElement (fmtCF c.fmt) (shCBase r) (shCStr r) m off n)) then
        s.modCmd t cmd fun c =>
          { c with early := c.early ++ [(pass, off, (List.range n).map fun i => s.winByte t res.quarters (off + i), s.winPoisoned t res.quarters off n)] }
      else s

/-- What a pass of a command has read of a window offset before it starts, if it has. -/
def MatCmd.earlyAt (c : MatCmd) (o : Nat) : Option (Byte × Bool) :=
  (c.early.find? fun e => e.1 = c.pass && decide (e.2.1 ≤ o) && decide (o < e.2.1 + e.2.2.1.length)).map fun e => (e.2.2.1.getD (o - e.2.1) 0, e.2.2.2)

/-- A byte of A or C as a pass of a command reads it. -/
def State.operandByte (s : State) (t : Nat) (qs : List Nat) (c : MatCmd) (o : Nat) : Byte :=
  match c.earlyAt o with
  | some e => e.1
  | none => s.winByte t qs o

/-- Whether a range of A or C is poisoned as a pass of a command reads it. -/
def State.operandPoisoned (s : State) (t : Nat) (qs : List Nat) (c : MatCmd) (o n : Nat) : Bool :=
  if c.early.isEmpty then s.winPoisoned t qs o n
  else (List.range n).any fun i => match c.earlyAt (o + i) with | some e => e.2 | none => s.psnAt (windowKey t qs (o + i))

/-- A result row of a pass: its 48-column block's values, the flags, and whether it read poison (R66, R284, R298); a panel may hold more rows
than the command uses (R293). -/
def State.passRow (s : State) (t : Nat) (res : Resid) (c : MatCmd) (i cb : Nat) : Row × BitVec 5 :=
  let r := c.shape
  let k := shK r
  let af := fmtAF c.fmt
  let bf := fmtBF c.fmt
  let cf := fmtCF c.fmt
  let n := min 48 (localN r c.part - 48 * cb)
  let nl := localN r c.part
  let head := shFirst r + cb * panelSlots bf k
  let pk := panelRows (s.tile t).mat.slots head k
  let aOff := shABase r + i * shAStr r
  let cOff := shCBase r + i * shCStr r
  let as := (List.range k).map (elemAt af k fun b => s.operandByte t res.quarters c (aOff + b))
  let cell := fun (j : Nat) =>
    let bs := (List.range k).map (elemAt bf pk fun b => Memory.get s.mem (panelKey t head j b))
    let cv := if shAcc r then elemAt cf nl (fun b => s.operandByte t res.quarters c (cOff + b)) (48 * cb + j) else .fin false 0 0
    if af = 0 then (intCell cv.toInt as bs, (0 : BitVec 5)) else floatCell (groupSize af) cv as bs
  let cells := (List.range n).map cell
  let ce := fmtBytes (fmtOfCode cf)
  let psn :=
    s.operandPoisoned t res.quarters c aOff (rowBytes af k) || (shAcc r && s.operandPoisoned t res.quarters c (cOff + 48 * cb * ce) (n * ce)) ||
    (List.range n).any fun j => (colRanges bf pk k).any fun x => (sectorRuns x.1 x.2).any fun y => s.psnAt (panelKey t head j y.1)
  ({ cmd := c.seq, row := i, col := cb, vals := cells.map fun x => BitVec.ofNat 32 x.1, psn := psn },
   cells.foldl (fun f x => f ||| x.2) 0)

/-- Passes whose rows have not all drained (R284: two sets of accumulators). -/
def Matrix.draining (m : Matrix) : Nat := (m.rows.map fun r => (r.cmd, r.col, r.row / 32)).eraseDups.length

/-- The buffers of a command's core and gang that are free, ascending (R295). -/
def State.freeBuffers (s : State) (t : Nat) (c : MatCmd) : List Nat :=
  let held := (((s.tile t).core c.core).bufs.filter fun h => h.asid = c.asid && h.lgen = c.lgen && h.ltn = c.ltn).map (·.buf)
  (List.range 4).filter fun b => !held.contains b

/-- Whether the whole array is stopped by a row that finds all four buffers held (R295). -/
def State.arrayStopped (s : State) (t : Nat) : Bool :=
  match (s.tile t).mat.rows with
  | [] => false
  | r :: _ =>
    match (s.tile t).mat.queue.find? fun c => c.seq = r.cmd with
    | some c => shHen c.shape && (s.freeBuffers t c).isEmpty
    | none => false

/-- PASS_START (R284, R289): the arbiter's next pass, with what it has read already (R297); its rows go to drain. -/
def execPassStart (t : Nat) (s : State) : Out :=
  .next (if s.arrayStopped t || 2 ≤ (s.tile t).mat.draining then s
         else
           match s.arbitrate t with
           | some (c, ptr, k, credit) =>
             if c.load then s
             else
               match (s.tile t).residFor c.asid c.lgen c.ltn with
               | none => s
               | some res =>
                 let nr := rowBlocks c.shape c.part
                 let cb := c.pass / nr
                 let rb := c.pass % nr
                 let rows := ((List.range (min 32 (localM c.shape c.part - 32 * rb))).map fun i => s.passRow t res c (32 * rb + i) cb)
                 let fl := rows.foldl (fun f x => f ||| x.2) 0
                 let s := ((s.takeGrant t ptr k credit).bump t 80).modCmd t c.seq fun c =>
                   { c with pass := c.pass + 1, flags := c.flags ||| fl, psn := c.psn || rows.any fun x => x.1.psn }
                 s.modTile t fun x => { x with mat := { x.mat with rows := x.mat.rows ++ rows.map (·.1) } }
           | none => s)

/-- Copy one column of a panel into the operand layer, with its poison (R285, R298, R302). -/
def State.loadColumn (s : State) (t : Nat) (qs : List Nat) (first src cb cs w : Nat) (j : Nat) : State :=
  (List.range ((cb + 31) / 32)).foldl (fun s u =>
    let n := min 32 (cb - 32 * u)
    let key := panelKey t first j (32 * u)
    if j < w then
      let from' := windowKey t qs (src + j * cs + 32 * u)
      (s.poke key (s.bytes from' n)).setPoison key (s.psnAt from')
    else (s.poke key (List.replicate n 0)).setPoison key false) s

/-- PANEL_LOAD (R285, R302): a granted load writes its panel and slot records. -/
def execPanelLoad (t : Nat) (s : State) : Out :=
  .next (if s.arrayStopped t then s
         else
           match s.arbitrate t with
           | some (c, ptr, k, credit) =>
             if !c.load then s
             else
               match (s.tile t).residFor c.asid c.lgen c.ltn with
               | none => s
               | some res =>
                 let b : Word := c.shape.setWidth 64
                 let cb := rowBytes (wbits b 11 8) (wbits b 28 16)
                 let s := (List.range 48).foldl (fun s j =>
                   s.loadColumn t res.quarters (wbits b 5 0) c.src cb (wbits b 51 32) (wbits b 57 52) j) (s.takeGrant t ptr k credit)
                 (s.modTile t fun x => { x with mat := { x.mat with slots := loadRecords x.mat.slots c } }).dropCmd t c.seq
           | none => s)

-- draining (R295)
/-- The first row has drained. -/
def State.rowDone (s : State) (t : Nat) : State :=
  (s.modTile t fun x => { x with mat := { x.mat with rows := x.mat.rows.tail } }).settle t

/-- A row of a command without a handler, converted and written to D (R295). -/
def State.drainToD (s : State) (t : Nat) (res : Resid) (c : MatCmd) (r : Row) : State :=
  let (bs, fl) := drainRow c.fmt r.vals
  let o := shDBase c.shape + r.row * shDStr c.shape + 48 * r.col * fmtBytes (fmtOfCode (fmtDF c.fmt))
  match s.engineWaits t c.asid c.lgen res.quarters o bs.length with
  | some w => s.startWait 0 w
  | none =>
    ((s.engineWrite t c.asid c.lgen res.quarters o bs r.psn).modCmd t c.seq fun c => { c with flags := c.flags ||| fl }).rowDone t

/-- A row placed in a buffer for a handler (R295, R296). -/
def State.drainToBuffer (s : State) (t : Nat) (res : Resid) (c : MatCmd) (r : Row) : State :=
  match s.freeBuffers t c with
  | [] => s
  | b :: _ =>
    let o := drainBase res.quarters.length c.core b
    let bs := (r.vals ++ List.replicate (48 - r.vals.length) (0 : BitVec 32)).flatMap fun v => bytesOf 4 (BitVec.toNat v)
    match s.engineWaits t c.asid c.lgen res.quarters o 192 with
    | some w => s.startWait 0 w
    | none =>
      let h : HeldRow :=
        { cmd := c.seq, core := c.core, asid := c.asid, lgen := c.lgen, buf := b, row := lineRow c.part + r.row, col := lineCol c.part + 48 * r.col,
          n := r.vals.length, dOff := shDBase c.shape + r.row * shDStr c.shape + 48 * r.col * fmtBytes (fmtOfCode (fmtDF c.fmt)),
          fmt := c.fmt, hent := shHent c.shape, handed := false, ltn := c.ltn }
      ((s.engineWrite t c.asid c.lgen res.quarters o bs r.psn).modCore t c.core fun k => { k with bufs := k.bufs ++ [h] }).rowDone t

/-- ROW_DRAIN (R295, R297): the oldest row of the array drains; with none left, commands that are done complete. -/
def execRowDrain (t : Nat) (s : State) : Out :=
  .next (match (s.tile t).mat.rows with
         | [] => s.settle t
         | r :: _ =>
           match (s.tile t).mat.queue.find? fun c => c.seq = r.cmd with
           | none => s.rowDone t
           | some c =>
             match (s.tile t).residFor c.asid c.lgen c.ltn with
             | none => s.rowDone t
             | some res => if shHen c.shape then s.drainToBuffer t res c r else s.drainToD t res c r)

/-- A capability to a window range with R, W and LOC (R296). -/
def windowCap (off len : Nat) : Reg :=
  let a := 0xFF0000000000 + off
  let e := lengthExp len
  mkCap a e (ceilShift len e) (permR ||| permW ||| permLOC) (BitVec.ofNat 48 a)

/-- HANDLER_START (R296): the next drained row of a core, when slot 1 is free. -/
def execHandlerStart (t core : Nat) (s : State) : Out :=
  let c := (s.tile t).core core
  let runs := fun (h : HeldRow) => (s.tile t).runners.any fun r => r.asid = h.asid && r.lgen = h.lgen
  .next (if 8 ≤ core || !s.slotEmpty t core 1 then s
         else
           match c.bufs.find? fun h => !h.handed && runs h with
           | none => s
           | some h =>
             match s.gang? h.asid h.lgen, (s.tile t).residFor h.asid h.lgen h.ltn with
             | some g, some r =>
               let hd := { h with handed := true }
               let s := s.modCore t core fun c =>
                 { c with bufs := c.bufs.map fun o => if o.cmd = h.cmd && o.buf = h.buf && o.asid = h.asid then hd else o }
               let id := s.nextId
               let len := h.n * fmtBytes (fmtOfCode (fmtDF h.fmt))
               (s.startThread t core 1 g r (.handler hd) (BitVec.ofNat 48 (g.code.base + h.hent))
                 (windowCap (drainBase r.quarters.length core h.buf) 192) (windowCap h.dOff len)
                 (.int (BitVec.ofNat 64 (h.row * 65536 + h.col))) h.fmt).modThread id fun th => { th.setPin true with pinx := true }
             | _, _ => s)

-- groups (R294, R305)
/-- Partner entries in use. -/
def Tile.partnerEntries (t : Tile) : Nat := (t.mat.queue.filter fun c => c.part ≠ 0).length

/-- GROUP_SHARE_REQUEST (R294): a partner checks its line, reserves an entry and answers; without a free entry it keeps the request and answers
once an entry frees. -/
def execGroupShareRequest (pk : Nat) (s : State) : Out :=
  s.withArrival pk fun s p t => s.unlessQuenched p t fun s =>
    match p.body with
    | .shareRequest cmd r f core part =>
      match s.gang? p.asid p.lgen, s.residentAt t p.asid p.lgen p.dst with
      | some g, some res =>
        let answer := fun (s : State) (sub : Nat) =>
          ((s.ackPacket p t 0 0).dropPacket pk).send t p.dst p.src p.asid p.lgen (.shareAnswer cmd part sub)
        match lineCheck (s.tile t).mat.seen res g.code core r f part with
        | some sub => answer s sub
        | none =>
          if 2 ≤ (s.tile t).partnerEntries then s.modPacket pk fun q => { q with pos := .aside t }
          else
            let (id, s) := s.fresh
            let c : MatCmd := { seq := id, load := false, core := core, asid := p.asid, lgen := p.lgen, ltn := p.dst, shape := r, fmt := f,
                                src := 0, part := part, lead := p.src, leadCmd := cmd, accepted := false, pass := 0, stopping := false,
                                th := 0, answers := [], reports := [], flags := 0, psn := false, early := [] }
            answer (s.modTile t fun x => { x with mat := { x.mat with queue := x.mat.queue ++ [c] } }) 0
      | _, _ => ((s.bump t 61).ackPacket p t 3 0).dropPacket pk
    | _ => s

/-- A group whose partners have all answered is accepted at the tail of the queue (R288, R294), unless loads accepted while it waited have left
the lead's slots otherwise: the validation sees the records of every load accepted before it. -/
def State.acceptGroup (s : State) (t : Nat) (c : MatCmd) : State :=
  let send := fun (s : State) (f : Nat → Payload) => [1, 2, 3].foldl (fun s j => s.send t c.ltn (shPartner c.shape j) c.asid c.lgen (f j)) s
  let again := match s.myGang, (s.tile t).residFor c.asid c.lgen c.ltn with
    | some g, some res => lineCheck (s.tile t).mat.seen res g.code c.core c.shape c.fmt 0
    | _, _ => none
  match again with
  | some k => ((send s fun j => .shareCancel c.seq j).dropCmd t c.seq).rejectShape c.src c.shape k 0
  | none =>
    let s := send s fun j => .shareStart c.seq j
    (s.modTile t fun x =>
      { x with mat := { x.mat with queue := x.mat.queue.filter (fun q => q.seq ≠ c.seq) ++ [{ c with accepted := true }] } }).retireTo
      (s.pc + BitVec.ofNat 48 c.src)

/-- The outcome of a group's validation once all answers are in (R293, R294). -/
def State.groupAnswered (s : State) (t : Nat) (c : MatCmd) : State :=
  let sub := fun (k : Nat) => assocGet k 0 c.answers
  let bad := [1, 2, 3].find? fun k => sub k ≠ 0
  s.onThread c.th fun s =>
    if s.thr.park ≠ some (.matGroup c.seq) then s
    else
      match bad with
      | some k =>
        let s := [1, 2, 3].foldl (fun s j => if sub j = 0 then s.send t c.ltn (shPartner c.shape j) c.asid c.lgen (.shareCancel c.seq j) else s) s
        (s.dropCmd t c.seq).rejectShape c.src c.shape (sub k) k
      | none => s.acceptGroup t c

/-- GROUP_SHARE_ANSWER (R294). -/
def execGroupShareAnswer (pk : Nat) (s : State) : Out :=
  s.withArrival pk fun s p t =>
    match p.body with
    | .shareAnswer cmd part sub =>
      let s := (s.dropPacket pk).modCmd t cmd fun c => { c with answers := assocSet part sub c.answers }
      match (s.tile t).mat.queue.find? fun c => c.seq = cmd && !c.accepted with
      | some c => if c.answers.length = 3 then s.groupAnswered t c else s
      | none => s
    | _ => s

/-- The partner's share of a lead's command. -/
def State.shareOf (s : State) (t cmd part : Nat) : Option MatCmd :=
  (s.tile t).mat.queue.find? fun c => c.part = part && c.leadCmd = cmd && part ≠ 0

/-- GROUP_START_ORDER (R294). -/
def execGroupStartOrder (pk : Nat) (s : State) : Out :=
  s.withArrival pk fun s p t => s.unlessQuenched p t fun s =>
    match p.body with
    | .shareStart cmd part =>
      let s := (s.ackPacket p t 0 0).dropPacket pk
      match s.shareOf t cmd part with
      | some c => (s.modCmd t c.seq fun c => { c with accepted := true }).settle t
      | none => s
    | _ => s

/-- GROUP_COMPLETION_REPORT (R294, R297, R305). -/
def execGroupCompletionReport (pk : Nat) (s : State) : Out :=
  s.withArrival pk fun s p t => s.unlessQuenched p t fun s =>
    match p.body with
    | .shareReport cmd part flags psn =>
      (((s.ackPacket p t 0 0).dropPacket pk).modCmd t cmd fun c =>
        { c with reports := c.reports.filter (· ≠ part), flags := c.flags ||| flags, psn := c.psn || psn }).settle t
    | _ => s

/-- A share request that still waits at a partner for an entry is withdrawn with its command (R294, R303). -/
def State.withdrawShare (s : State) (t cmd part : Nat) : State :=
  match s.packets.find? fun q => q.pos = .aside t && (match q.body with | .shareRequest k _ _ _ j => k = cmd && j = part | _ => false) with
  | some q => (s.ackPacket q t 0 0).dropPacket q.id
  | none => s

/-- GROUP_CANCEL (R305): a share stops after its pass, or its reservation is released; either way it reports. -/
def execGroupCancel (pk : Nat) (s : State) : Out :=
  s.withArrival pk fun s p t => s.unlessQuenched p t fun s =>
    match p.body with
    | .shareCancel cmd part =>
      let s := (s.ackPacket p t 0 0).dropPacket pk
      match s.shareOf t cmd part with
      | some c => if c.accepted then (s.modCmd t c.seq fun c => { c with stopping := true }).settle t else s.complete t c
      | none => s.withdrawShare t cmd part
    | _ => s

end Sys2Proof.Machine
end

