-- ==== Sys2Proof/Machine/Events.lean ====
section
/-! DEFINITION. The event engine: its instructions, arriving events and ticks (spec/14_events.md R310-R329). -/
namespace Sys2Proof.Machine

-- arriving events
/-- Whether a run of a gang is accepted or in progress (R322). -/
def EvEngine.busy (e : EvEngine) (asid lgen : Nat) : Bool := e.runs.any fun r => r.asid = asid && r.lgen = lgen

/-- EVENT_ARRIVAL (R314): the events of a packet are queued or dropped. -/
def execEventArrival (pk : Nat) (s : State) : Out :=
  s.withArrival pk fun s p t => s.unlessQuenched p t fun s =>
    match p.body with
    | .events es =>
      let name := match (s.tile t).residFor p.asid p.lgen p.dst with | some r => r.ltn | none => p.dst
      let s := es.foldl (State.evArrive t p.asid p.lgen name) s
      (s.ackPacket p t 0 0).dropPacket pk
    | _ => s

-- fan-out (R315, R323)
/-- What translating a page of a fan-out region answers. -/
inductive FoPage where
  | miss
  | fault (bits : Nat)
  | refused (va bits : Nat)
  | page (p : EvPage)

/-- Translate one page for the issuing thread (R323): LOCAL here, or RPL. -/
def State.foPage (s : State) (va : Nat) : FoPage × State :=
  match s.lookup s.tileNo s.coreNo s.accessAsid va with
  | (none, s) => (.miss, s)
  | (some e, s) =>
    let bits := pageBits (keySize e.1)
    let base := va / 2 ^ bits * 2 ^ bits
    let d := e.2
    match descType d with
    | 1 =>
      if descRpl d || wbits d 50 32 = s.thr.ltn then
        (.page { va := base, bits := bits, at' := wbits d 12 0 * 16384, stale := false }, s)
      else (.refused base bits, s)
    | 0 => (.fault bits, s)
    | _ => (.refused base bits, s)

/-- First address past the page of 2^bits bytes in which an address lies. -/
def pageEnd (va bits : Nat) : Nat := va / 2 ^ bits * 2 ^ bits + 2 ^ bits

/-- Pages of a region from an address up to a limit, in ascending order, each counted once, up to a first miss (R323): window parts count one
for each 16 KiB. -/
def State.foPages (limit : Nat) : Nat → Nat → State → List (Nat × FoPage) × State
  | 0, _, s => ([], s)
  | n + 1, va, s =>
    if limit ≤ va then ([], s)
    else if inWindow (BitVec.ofNat 48 va) then
      let (r, s) := State.foPages limit n (pageEnd va 14) s
      ((va, .page { va := va / 16384 * 16384, bits := 14, at' := 0, stale := false }) :: r, s)
    else
      match s.foPage va with
      | (.miss, s) => ([(va, .miss)], s)
      | (x, s) =>
        let bits := match x with | .page p => p.bits | .fault b => b | .refused _ b => b | .miss => 14
        let (r, s) := State.foPages limit n (pageEnd va bits) s
        ((va, x) :: r, s)

/-- The fault of a page. -/
def FoPage.trap (va : Nat) : FoPage → Option (State → State)
  | .fault _ => some fun s => s.pageFault (BitVec.ofNat 48 va)
  | .refused base _ => some fun s => s.takeTrap 0x05 (BitVec.ofNat 64 base)
  | _ => none

/-- Go on with the translated pages of a region, or take the first fault (R323): more pages than allowed first, then each page's own in
ascending order.  Where a page misses while the number of pages still depends on it, the miss comes first (log 36). -/
def State.withPages (s : State) (start limit most : Nat) (k : State → List EvPage → State) : State :=
  let (ps, s) := State.foPages limit (most + 1) start s
  let first := ps.findSome? fun p => p.2.trap p.1
  match ps.find? fun p => match p.2 with | .miss => true | _ => false with
  | some (va, _) =>
    match first with
    | some trap =>
      if ps.length + (limit - pageEnd va 14 + 16383) / 16384 ≤ most then trap s else s.tlbMiss 0 s.accessAsid (BitVec.ofNat 48 va)
    | none => s.tlbMiss 0 s.accessAsid (BitVec.ofNat 48 va)
  | none =>
    if most < ps.length then s.takeTrap 0x04 (BitVec.ofNat 64 start)
    else
      match first with
      | some trap => trap s
      | none => k s (ps.filterMap fun p => match p.2 with
          | .page q => if inWindow (BitVec.ofNat 48 q.va) then none else some q
          | _ => none)

/-- Key of a dword of a fan-out region, through the context's translations (R323). -/
def State.foKey (s : State) (t : Nat) (c : EvCtx) (va : Nat) : Option Nat :=
  if inWindow (BitVec.ofNat 48 va) then
    match (s.tile t).residFor c.asid c.lgen c.ltn with
    | some r =>
      let o := winOffset (BitVec.ofNat 48 va)
      if o + 8 ≤ windowBytes r.quarters.length then some (windowKey t r.quarters o) else none
    | none => none
  else (c.pages.find? fun p => p.va ≤ va && decide (va < p.va + 2 ^ p.bits)).map fun p => vaultKey t (p.at' + (va - p.va))

/-- Read a dword of the fan-out region (R315): none where it is skipped; poison is consumed by the gang. -/
def State.foDword (s : State) (t : Nat) (c : EvCtx) (va : Nat) : Option Nat × State :=
  let skip := fun (s : State) => s.modCtx t c EvCtx.dropped
  if c.fo.limit < va + 8 then (none, skip s)
  else
    match s.foKey t c va with
    | none => (none, skip s)
    | some pa =>
      if s.poisoned pa 8 then
        (none, ((skip s).modCtx t c fun c => { c with sPsn := true }).consumedBy t c.asid c.lgen (BitVec.ofNat 48 va))
      else (some (s.nat pa 8), s)

/-- Whether an engine may send by a name (R211, R318): one that no walk is needed for to be refused is not; any other is sent by, its packet
waiting at the injection port for the walk that a miss starts. -/
def State.engineName (s : State) (t : Nat) (name : Ltn) : Bool := !s.badName t name

/-- Events emitted in a tick for other tiles, by destination in emission order. -/
abbrev Emitted := List (Nat × List Event)

/-- Emit one entry of a neuron that fired at a tick (R315, R318). -/
def State.emitEntry (t tick : Nat) (c : EvCtx) (acc : Emitted × State) (k : Nat) : Emitted × State :=
  let (out, s) := acc
  match s.foDword t c (c.fo.cursor.toNat + 8 * c.count + 8 * k) with
  | (none, s) => (out, s)
  | (some e, s) =>
    let dly := bitsOf e 56 51
    let name := bitsOf e 18 0
    let ev : Event := { tick := (tick + dly) % 2 ^ 32, wt := BitVec.ofNat 16 (bitsOf e 50 35), idx := bitsOf e 34 19 }
    if bitsOf e 63 57 ≠ 0 || dly = 0 then (out, s.modCtx t c EvCtx.dropped)
    else if name = c.ltn then (out, State.evArrive t c.asid c.lgen c.ltn s ev)
    else if dly < c.look then
      match (s.tile t).ev.ctx? c.asid c.lgen c.ltn with
      | some c => (out, s.evLate t c ev)
      | none => (out, s)
    else
      if s.engineName t name then (assocSet name (assocGet name [] out ++ [ev]) out, s)
      else (out, s.modCtx t c EvCtx.dropped)

/-- Emit the fan-out of a neuron (R315, R316 step 3). -/
def State.emitNeuron (t tick : Nat) (c : EvCtx) (acc : Emitted × State) (j : Nat) : Emitted × State :=
  let (out, s) := acc
  match s.foDword t c (c.fo.cursor.toNat + 8 * (j - c.first)) with
  | (none, s) => (out, s)
  | (some d, s) =>
    if bitsOf d 63 48 ≠ 0 then (out, s.modCtx t c EvCtx.dropped)
    else ((List.range (bitsOf d 47 32)).map (· + bitsOf d 31 0)).foldl (State.emitEntry t tick c) (out, s)

/-- Packets of up to 16 events. -/
def eventPackets : Nat → List Event → List (List Event)
  | 0, _ => []
  | n + 1, es => if es.isEmpty then [] else es.take 16 :: eventPackets n (es.drop 16)

/-- Send the events of a tick (R314, R318). -/
def State.sendEvents (s : State) (t : Nat) (c : EvCtx) (out : Emitted) : State :=
  out.foldl (fun s o => (eventPackets o.2.length o.2).foldl (fun s es => s.send t c.ltn o.1 c.asid c.lgen (.events es)) s) s

-- hook tasks (R319)
/-- Push held hook records in order; those that find no room stay held, and the first failure is reported once. -/
def State.pushHooks (t : Nat) : Nat → State → State
  | 0, s => s
  | n + 1, s =>
    match (s.tile t).ev.hook with
    | [] => s
    | (core, r) :: rest =>
      let s := match s.push t core r with
        | .spill => s.spillDeque t core
        | _ => s
      match s.push t core r with
      | .done s => State.pushHooks t n (s.modEv t fun e => { e with hook := rest, hookTold := false })
      | _ =>
        if (s.tile t).ev.hookTold then s
        else (s.report t 0x13 r.asid r.lgen 4160).modEv t fun e => { e with hookTold := true }

/-- The hook record of a neuron (R319). -/
def hookRecord (g : Gang) (c : EvCtx) (dyn : Quad) (j tick : Nat) : TaskRec :=
  { pc := BitVec.ofNat 48 (g.code.base + bitsOf dyn.toNat 127 64), arg1 := .int (BitVec.ofNat 64 j), arg2 := .int (BitVec.ofNat 64 tick),
    jc := .zero, asid := c.asid, lgen := c.lgen, hook := true, pending := [] }

-- the event queue as lines (R314, R332, R334)
/-- The 128 bits of an event in the queue. -/
def Event.queued (e : Event) (asid lgen : Nat) : Nat :=
  e.tick % 2 ^ 32 * 2 ^ 96 + e.wt.toNat * 2 ^ 80 + e.idx % 65536 * 2 ^ 64 + asid % 4096 * 2 ^ 33 + lgen % 65536 * 2 ^ 17

/-- Where the event queue of a logical tile begins in a vault: at the frame of EVQB, or in the recovery reserve for a second one (R329, R349). -/
def State.queueBase (s : State) (t : Nat) (name : Ltn) : Nat :=
  if secondTile t name then s.recoveryBase t + 0x01000000 else wbits (s.tile t).ev.qb 12 0 * 16384

/-- Vault address of a line of a wheel slot (R314): the slots stand one behind the other, 64 KiB each (log 38). -/
def queueAddr (base slot i : Nat) : Nat := base + slot * 65536 + i % 512 * 128

/-- Events of a gang leave the queue of a logical tile: each line that holds one written before the current commit point makes its undo record
once (R334). -/
def State.removeEvents (s : State) (t asid lgen : Nat) (name : Ltn) (p : Event → Bool) : State :=
  match (s.tile t).commitOf asid lgen name with
  | none => s
  | some c =>
    let old := fun (x : Tile) (e : Event) => x.ev.queue.any fun q =>
      q.1 = gangKey asid lgen && q.2.stk ≠ s.stkOf asid lgen && { q.2 with stk := 0 } = { e with stk := 0 }
    (List.range 64).foldl (fun s slot =>
      let es := (c.ev.queue.filter fun q => q.2.tick % 64 = slot).map (·.2)
      ((chunks 8 ((es.length + 7) / 8) es).zipIdx).foldl (fun s l =>
        let x := s.tile t
        let addr := queueAddr (s.queueBase t name) slot l.2
        if (l.1.any fun e => p e && old x e) && !(x.undo.any fun u => u.kind = 4 && u.addr = addr && u.asid = asid && u.lgen = lgen) then
          s.removeEntry t asid lgen 4 addr c.stk (l.1.flatMap fun e => bytesOf 16 (e.queued asid lgen))
        else s) s) s

-- ticks (R316)
/-- Saturation to w bits, signed. -/
def satBits (w : Nat) (v : Int) : Int := max (-(2 ^ (w - 1) : Int)) (min ((2 ^ (w - 1) : Int) - 1) v)

/-- Signed value of w bits. -/
def signedBits (w v : Nat) : Int := if 2 ^ (w - 1) ≤ v % 2 ^ w then ((v % 2 ^ w : Nat) : Int) - 2 ^ w else (v % 2 ^ w : Nat)

/-- Step 2 for one accumulator (R316): its new state word, and whether it fires. -/
def updateCell (word : BitVec 32) (dyn : Quad) (i : Int) : BitVec 32 × Bool :=
  let w := word.toNat
  let d := dyn.toNat
  let ref := bitsOf w 25 22
  let v := signedBits 16 w
  let keep := w / 2 ^ 16 % 2 ^ 6 * 2 ^ 16
  let make := fun (ref : Nat) (v : Int) => BitVec.ofNat 32 (ref * 2 ^ 22 + keep + (v % 65536).toNat)
  if 0 < ref then (make (ref - 1) v, false)
  else
    let sh := bitsOf d 51 48
    let v := if 0 < sh then v - (v - signedBits 16 (d / 2 ^ 32)) / 2 ^ sh else v
    let v := satBits 16 (v + satBits 16 (i / 2 ^ bitsOf d 59 56))
    if signedBits 16 d ≤ v then (make (bitsOf d 55 52) (signedBits 16 (d / 2 ^ 16)), true) else (make 0 v, false)

/-- Record of dynamics of an accumulator's state word. -/
def EvEngine.dynOf (e : EvEngine) (word : BitVec 32) : Quad := assocGet (bitsOf word.toNat 21 16) 0 e.dyn

/-- Steps 1 and 2 of a tick over the active range: the engine, and the neurons that fired, ascending (R316). -/
def EvEngine.advance (e : EvEngine) (c : EvCtx) (tick : Nat) : EvEngine × List Nat :=
  let key := gangKey c.asid c.lgen
  let mine := fun (q : Nat × Event) => q.1 = key && q.2.name = c.ltn && q.2.tick = tick
  let due := (e.queue.filter mine).map (·.2)
  let js := (List.range c.count).map (· + c.first)
  let cells := js.map fun j =>
    let word := assocGet j 0 e.acc
    let i := satBits 32 ((due.filter fun x => x.idx = j).foldl (fun a x => a + x.wt.toInt) 0)
    (j, word, updateCell word (e.dynOf word) i)
  let out := (due.filter fun x => x.idx < c.first || decide (c.first + c.count ≤ x.idx)).length
  let fired := (cells.filter fun x => x.2.2.2).map (·.1)
  let upd := fun (c : EvCtx) =>
    { c with hzn := (tick + 1) % 2 ^ 32, fire := c.fire + BitVec.ofNat 64 fired.length, drop := c.drop + BitVec.ofNat 64 out,
             sDrop := c.sDrop || decide (0 < out) }
  ({ e with acc := cells.foldl (fun l x => if x.2.1 = x.2.2.1 then l else assocSet x.1 x.2.2.1 l) e.acc,
            queue := e.queue.filter fun q => !mine q,
            ctxs := e.ctxs.map fun k => if c.same k then upd k else k }, fired)

/-- Emission of the neurons left in a tick, ascending: each one's events and then its hook task; a held hook task stalls those behind it
(R316 step 3, R319). -/
def State.emitRest (t : Nat) : Nat → State → State
  | 0, s => s
  | n + 1, s =>
    let e := (s.tile t).ev
    match e.tick with
    | some { asid := asid, lgen := lgen, ltn := name, tick := tick, fired := j :: rest, out := out } =>
      match e.ctx? asid lgen name, s.gang? asid lgen with
      | some c, some g =>
        let dyn := e.dynOf (assocGet j 0 e.acc)
        let act := bitsOf dyn.toNat 61 60
        let (out, s) := if act % 2 = 1 then State.emitNeuron t tick c (out, s) j else (out, s)
        let s := s.modEv t fun e => { e with tick := some { asid := asid, lgen := lgen, ltn := name, tick := tick, fired := rest, out := out } }
        if act / 2 = 1 then
          let s := (s.modEv t fun e => { e with hook := [(c.nextCore, hookRecord g c dyn j tick)] }).modCtx t c fun c =>
            { c with nextCore := (c.nextCore + 1) % 8 }
          let s := State.pushHooks t 1 s
          if (s.tile t).ev.hook.isEmpty then State.emitRest t n s else s
        else State.emitRest t n s
      | _, _ => s
    | _ => s

/-- The end of a tick sends its events, and the end of a run's last tick sets its tag and frees the run slot (R318, R322). -/
def State.endTick (s : State) (t : Nat) : State :=
  let e := (s.tile t).ev
  match e.tick with
  | some { asid := asid, lgen := lgen, ltn := name, fired := [], out := out, .. } =>
    if !e.hook.isEmpty then s
    else
      let s := match e.ctx? asid lgen name with
        | some c => s.sendEvents t c out
        | none => s
      let s := s.modEv t fun e => { e with tick := none }
      match e.runs.find? fun r => e.cur = some r.id && r.left = 0 with
      | some r =>
        (s.modEv t fun e => { e with runs := e.runs.filter (fun q => q.id ≠ r.id), cur := none }).setCopyTag t r.core (gangKey r.asid r.lgen) r.tag
      | none => s
  | _ => s

/-- The run that holds the run slot, or the oldest whose gang runs on the tile (R310, R322). -/
def State.currentRun (s : State) (t : Nat) : Option EvRun :=
  let e := (s.tile t).ev
  let runs := fun (r : EvRun) => (s.tile t).runners.any fun x => x.asid = r.asid && x.lgen = r.lgen
  match e.runs.find? fun r => e.cur = some r.id with
  | some r => if runs r then some r else none
  | none => e.runs.find? runs

/-- TICK (R316): delivery, update and emission of one tick of the run in the run slot. -/
def execTick (t : Nat) (s : State) : Out :=
  let e := (s.tile t).ev
  .next (if e.tick.isSome then s
         else
           match s.currentRun t with
           | none => s
           | some r =>
             match e.ctx? r.asid r.lgen r.ltn with
             | some c =>
               let s := s.removeEvents t r.asid r.lgen c.ltn fun x => x.name = c.ltn && x.tick = c.hzn
               let (e', fired) := (s.tile t).ev.advance c c.hzn
               let s := s.modEv t fun _ =>
                 { e' with runs := e'.runs.map (fun q => if q.id = r.id then { q with left := q.left - 1 } else q), cur := some r.id,
                           tick := some { asid := r.asid, lgen := r.lgen, ltn := c.ltn, tick := c.hzn, fired := fired, out := [] } }
               (State.emitRest t fired.length s).endTick t
             | none => s)

/-- HOOK_PUSH_RETRY (R319): the held record is pushed as room appears, and the tick goes on. -/
def execHookPushRetry (t : Nat) (s : State) : Out :=
  let s := State.pushHooks t (s.tile t).ev.hook.length s
  let left := match (s.tile t).ev.tick with | some k => k.fired.length | none => 0
  .next ((if (s.tile t).ev.hook.isEmpty then State.emitRest t left s else s).endTick t)

-- instructions
/-- Park while a run of the gang is accepted or in progress (R322). -/
def State.whenNoRun (s : State) (k : State → State) : State :=
  if (s.tile s.tileNo).ev.busy s.thr.asid s.thr.lgen then s.parkOn .evRun else k s

/-- Whether the issuing thread's gang owns a bank on its tile. -/
def State.ownsBank (s : State) (bank : Nat) : Bool := (s.tile s.tileNo).ev.owns bank s.thr.asid s.thr.lgen

/-- The checks of `evset` on its record (R323): the fan-out capability, or the trap. -/
def State.evsetCheck (s : State) (cur : Word) (r : Nat) (foTag : Bool) : Except TrapVal Reg :=
  let first := bitsOf r 15 0
  let count := bitsOf r 32 16
  let f : Reg := { tag := foTag, bits := BitVec.ofNat 128 (bitsOf r 255 128) }
  let at' : Word := f.cursor.setWidth 64
  if bitsOf r 511 256 ≠ 0 || bitsOf r 127 96 ≠ 0 || bitsOf r 63 47 ≠ 0 || bitsOf r 39 33 ≠ 0 || bitsOf r 45 40 = 0 || count = 0 ||
     65536 < first + count then .error (0x01, cur)
  else if ((List.range 4).any fun b => first / 16384 ≤ b && decide (b ≤ (first + count - 1) / 16384) && !s.ownsBank b) then .error (0x05, cur)
  else if !f.tag then .error (0x03, 0)
  else if !f.can (permR ||| permENG) then .error (0x05, at')
  else if f.cursor.toNat < f.base || f.limit < f.cursor.toNat + 8 * count then .error (0x04, at')
  else if f.cursor.toNat % 8 ≠ 0 then .error (0x06, at')
  else .ok f

/-- Install a context (R323): counters stay, events below the horizon go into LATE alone. -/
def State.installCtx (s : State) (r : Nat) (f : Reg) (pages : List EvPage) : State :=
  let t := s.tileNo
  let asid := s.thr.asid
  let lgen := s.thr.lgen
  let key := gangKey asid lgen
  let hzn := bitsOf r 95 64
  let e := (s.tile t).ev
  let old := fun (q : Nat × Event) => q.1 = key && q.2.name = s.thr.ltn && decide (q.2.tick < hzn)
  let late := BitVec.ofNat 64 (e.queue.filter old).length
  let (fire, lateN, drop, sl, sd, sp) := match e.ctx? asid lgen s.thr.ltn with
    | some c => (c.fire, c.late, c.drop, c.sLate, c.sDrop, c.sPsn)
    | none => (0, 0, 0, false, false, false)
  let c : EvCtx :=
    { asid := asid, lgen := lgen, ltn := s.thr.ltn, first := bitsOf r 15 0, count := bitsOf r 32 16, look := bitsOf r 45 40,
      ltrap := bitsOf r 46 46 = 1, hzn := hzn, fo := f, pages := pages, nextCore := 0, fire := fire, late := lateN + late, drop := drop,
      sLate := sl, sDrop := sd, sPsn := sp }
  (s.removeEvents t asid lgen s.thr.ltn fun x => x.name = s.thr.ltn && decide (x.tick < hzn)).modEv t fun e =>
    { e with ctxs := e.ctxs.filter (fun k => !c.same k) ++ [c],
                              queue := e.queue.filter fun q => !old q }

/-- `evset` (R323). -/
def execEvset (p : Pfx) (a : RegNo) (s : State) : Out :=
  guarded 3 p s fun s => s.boundary fun s =>
    let c := s.reg a
    s.checked (mmqCheck c (permR ||| permENG ||| permLC) s.quarters.length) fun off =>
      if 0 < unsent s.thr.sb then s.parkOn .sbEmpty
      else s.whenNoRun fun s =>
        if (s.poisonIn off 64).isSome then s.takeTrap 0x0A (c.cursor.setWidth 64)
        else
          let r := ofBytes (s.vbytes off 64)
          s.checked (s.evsetCheck (c.cursor.setWidth 64) r (s.tagAt (s.winKey (off + 16)))) fun f =>
            s.withPages f.cursor.toNat f.limit 64 fun s pages => (s.installCtx r f pages).retire 3 p

/-- `evdyn` (R324). -/
def execEvdyn (p : Pfx) (a b : RegNo) (s : State) : Out :=
  guarded 3 p s fun s => s.boundary fun s =>
    let n := s.x a
    let q := (s.reg b).bits
    let low := s.x b
    let hook := bitsOf q.toNat 127 64
    let code := s.codeCap
    if wbits n 63 6 ≠ 0 then s.takeTrap 0x01 n
    else if wbits low 63 62 ≠ 0 then s.takeTrap 0x01 low
    else if !s.ownsBank (n.toNat / 16) then s.takeTrap 0x05 n
    else if low.getLsbD 61 && (hook % 2 = 1 || decide (code.limit < code.base + hook + 2)) then s.takeTrap 0x04 low
    else s.whenNoRun fun s => (s.modEv s.tileNo fun e => { e with dyn := assocSet n.toNat q e.dyn }).retire 3 p

/-- The checks that `evrd` and `evwr` share (R325). -/
def State.evIndex (s : State) (a : Word) : Except TrapVal Nat :=
  if wbits a 63 16 ≠ 0 then .error (0x01, a)
  else if !s.ownsBank (a.toNat / 16384) then .error (0x05, a)
  else .ok a.toNat

/-- `evrd` (R325): I reads zero outside a tick. -/
def execEvrd (p : Pfx) (d a : RegNo) (s : State) : Out :=
  guarded 3 p s fun s => s.boundary fun s => s.checked (s.evIndex (s.x a)) fun j => s.whenNoRun fun s =>
    (s.setX d ((assocGet j 0 (s.tile s.tileNo).ev.acc).setWidth 64)).retire 3 p

/-- `evwr` (R325). -/
def execEvwr (p : Pfx) (a b : RegNo) (s : State) : Out :=
  guarded 3 p s fun s => s.boundary fun s => s.checked (s.evIndex (s.x a)) fun j =>
    let v := s.x b
    if wbits v 63 26 ≠ 0 then s.takeTrap 0x01 v
    else if !s.ownsBank (wbits v 21 16 / 16) then s.takeTrap 0x05 v
    else s.whenNoRun fun s => (s.modEv s.tileNo fun e => { e with acc := assocSet j (v.setWidth 32) e.acc }).retire 3 p

/-- `evpost` (R326). -/
def execEvpost (p : Pfx) (a b : RegNo) (s : State) : Out :=
  if !s.guardHolds p then .next (s.retire 3 p)
  else if s.thr.intervalOpen then .next (s.parkOn .follower)
  else
    let v := s.x a
    let k := s.x b
    let name := wbits v 18 0
    if wbits v 63 51 ≠ 0 then .next (s.takeTrap 0x01 v)
    else if wbits k 63 32 ≠ 0 then .next (s.takeTrap 0x01 k)
    else
      s.withName name fun s t =>
        if !s.gangTile name then .next (s.takeTrap 0x09 (BitVec.ofNat 64 name))
        else
          let e : Event := { tick := k.toNat, wt := BitVec.ofNat 16 (wbits v 50 35), idx := wbits v 34 19 }
          .next (s.enter (.event name e) 0 (.tile t 0 name) .plain .system fun s _ => s.retire 3 p)

/-- The part of a page as it is mapped now that lies in a page which a context translates again: the rest of it keeps the frames that the context
names (R323). -/
def EvPage.clip (p q : EvPage) : EvPage := if q.bits ≤ p.bits then q else { p with at' := q.at' + (p.va - q.va), stale := false }

/-- Translate the stale pages of a context again, and no others, in ascending order (R323, R327). -/
def State.refreshPages (c : EvCtx) : List EvPage → List EvPage → State → (State → List EvPage → State) → State
  | [], done, s, k => k s done
  | p :: rest, done, s, k =>
    if p.stale then
      s.withPages (max p.va c.fo.cursor.toNat) (min c.fo.limit (p.va + 2 ^ p.bits)) (2 ^ (p.bits - 14)) fun s fresh =>
        State.refreshPages c rest (done ++ fresh.map p.clip) s k
    else State.refreshPages c rest (done ++ [p]) s k

/-- `evrun` (R327). -/
def execEvrun (p : Pfx) (a : RegNo) (s : State) : Out :=
  guarded 3 p s fun s => s.boundary fun s =>
    let v := s.x a
    let t := s.tileNo
    let n := wbits v 5 0
    if wbits v 63 14 ≠ 0 || wbits v 7 6 ≠ 0 then s.takeTrap 0x01 v
    else
      match (s.tile t).ev.ctx? s.thr.asid s.thr.lgen s.thr.ltn with
      | none => s.takeTrap 0x01 v
      | some c =>
        if n = 0 || c.look < n then s.takeTrap 0x01 v
        else s.whenNoRun fun s => State.refreshPages c c.pages [] s fun s pages =>
          let s := s.modCtx t c fun c => { c with pages := pages }
          if 0 < unsent s.thr.sb then s.parkOn .sbEmpty
          else
            let (id, s) := s.fresh
            let r : EvRun := { id := id, asid := c.asid, lgen := c.lgen, ltn := c.ltn, left := n, tag := wbits v 13 8, core := s.coreNo }
            (s.modEv t fun e => { e with runs := e.runs ++ [r] }).retire 3 p

/-- `evcnt` (R328). -/
def execEvcnt (p : Pfx) (d a : RegNo) (s : State) : Out :=
  guarded 3 p s fun s => s.boundary fun s =>
    let v := s.x a
    let t := s.tileNo
    if wbits v 63 3 ≠ 0 then s.takeTrap 0x01 v
    else
      match (s.tile t).ev.ctx? s.thr.asid s.thr.lgen s.thr.ltn with
      | none => (s.setX d 0).retire 3 p
      | some c =>
        let busy := (s.tile t).ev.busy c.asid c.lgen
        let (w, clear) := match wbits v 1 0 with
          | 0 => (c.fire, fun (c : EvCtx) => { c with fire := 0 })
          | 1 => (c.late, fun (c : EvCtx) => { c with late := 0 })
          | 2 => (c.drop, fun (c : EvCtx) => { c with drop := 0 })
          | _ =>
            (BitVec.ofNat 64 (c.look * 2 ^ 36 + bit busy * 2 ^ 35 + bit c.sPsn * 2 ^ 34 + bit c.sDrop * 2 ^ 33 + bit c.sLate * 2 ^ 32 + c.hzn),
             fun (c : EvCtx) => { c with sPsn := false, sDrop := false, sLate := false })
        let s := if v.getLsbD 2 then s.modCtx t c clear else s
        (s.setX d w).retire 3 p

end Sys2Proof.Machine
end

