-- ==== Sys2Proof/Machine/Resilience.lean ====
section
/-! DEFINITION. Tandem pairs, commits, mirroring and rollback (spec/15_resilience.md R330-R359). -/
namespace Sys2Proof.Machine

-- tandem pairs (R353-R357)
/-- Couple the issuing thread, its follower in a slot of core 2k + 1 (R356): the checkpoint is the state after `tdm`. -/
def State.couple (s : State) (p : Pfx) (leader follower : Nat) : State :=
  let s := s.withThr fun th =>
    { th with stat := statBit th.stat 4 true, loc := .slot s.tileNo (s.coreNo / 2 * 2) leader }
  let s := s.retire 3 p
  s.withThr fun th => { th with tandem := some (.fresh th.toArch s.nextId follower) }

/-- `tdm` (R356): couple, once the other core of the pair has a free general slot, or close the interval and uncouple. -/
def execTdm (p : Pfx) (s : State) : Out :=
  guarded 3 p s fun s =>
    let t := s.tileNo
    let c := s.coreNo
    let n := s.thr.loc.slotNo
    if n < 2 then s.illegal (.tdm p)
    else
      match s.thr.tandem with
      | none =>
        match s.freeSlots t (pairCore c) with
        | [] => s.parkOn .pairSlot
        | m :: _ =>
          if c % 2 = 0 then s.couple p n m
          else s.couple p m (min n ((s.freeSlots t c).headD n))
      | some _ =>
        s.boundary fun s =>
          (s.withThr fun th => { th with stat := statBit th.stat 4 false, tandem := none }).retire 3 p

/-- `tchk` (R357). -/
def execTchk (p : Pfx) (s : State) : Out :=
  guarded 3 p s fun s => s.boundary fun s => s.retire 3 p

/-- Drop the store-buffer entries of the open interval, which never left (R354). -/
def dropInterval (mark : Nat) (sb : List SbItem) : List SbItem :=
  sb.filter fun x => match x with | .entry q _ _ _ _ _ _ _ => q < mark | .marker _ _ => true

/-- The fingerprints agree (R354): the state becomes the checkpoint, and the boundary's instruction is performed, unless the thread still
waits for an acknowledgement (R257). -/
def Thread.agree (th : Thread) (t : Tandem) (mark : Nat) : Thread :=
  { th with park := match th.after with | some (.fault _) => none | p => p, after := none, tandem := some (.fresh th.toArch mark t.slot) }

/-- The fingerprints of a thread agree; a page fault that the open interval held back is taken now (R187, R354). -/
def State.agree (s : State) (x : Thread) (t : Tandem) : State :=
  let s := s.modThread x.id fun x => x.agree t s.nextId
  match x.after with
  | some (.fault va) => s.onThread x.id fun s => s.pageFault va
  | _ => s

/-- Both cores restore the checkpoint, and the interval's entries are discarded (R354). -/
def Thread.reexecute (th : Thread) (t : Tandem) (mark : Nat) : Thread :=
  { th with
    toArch := t.check, park := none, after := none, sb := dropInterval t.mark th.sb,
    tandem := some { Tandem.fresh t.check mark t.slot with missed := true } }

/-- The fingerprints disagree (R354): counted in TDMMIS (89), re-executed once, and then 0x0D; a page-2 interval raises it at once and
keeps what it wrote. -/
def State.disagree (s : State) (t : Tandem) : State :=
  let s := s.bump s.tileNo 89
  let eval := (~~~t.followFp).setWidth 64 <<< 32 ||| (~~~t.leadFp).setWidth 64
  if t.vector then
    State.takeTrap (s.withThr fun th => { th with park := none, tandem := some (.fresh th.toArch s.nextId t.slot) }) 0x0D eval
  else
    let s := s.withThr fun th => th.reexecute t s.nextId
    if t.missed then s.takeTrap 0x0D eval else s

/-- Whether a gang is pre-empted on a site, which closes the intervals of its threads (R354, R355). -/
def State.preemptedAt (s : State) (t asid lgen : Nat) : Bool :=
  match (s.tile t).resid? asid lgen with
  | some r => r.preempted
  | none => false

/-- TANDEM_COMPARE (R354): the leader and its follower exchange fingerprints at the end of an interval. -/
def execTandemCompare (th : Nat) (s : State) : Out :=
  match s.thread? th with
  | none => .next s
  | some x =>
    match x.tandem with
    | none => .next s
    | some t =>
      let due := x.park = some .follower || (x.intervalOpen && s.preemptedAt x.loc.site x.asid x.lgen)
      .next (if !x.loc.inSlot || !due then s
             else if t.leadFp = t.followFp then s.agree x t
             else s.onThread th fun s => s.disagree t)

-- commits (R331, R338, R339)
/-- The sites where a gang is resident. -/
def State.gangSites (s : State) (asid lgen : Nat) : List Nat :=
  (s.tiles.filter fun x => (x.2.resid? asid lgen).isSome).map (·.1)

/-- The contexts of a gang on a site. -/
def State.gangThreads (s : State) (t asid lgen : Nat) : List Thread :=
  s.threads.filter fun th =>
    th.inGang asid lgen && th.loc.site = t &&
    (match th.loc with | .fabric => false | .draining _ _ => false | .ended => false | _ => true)

/-- A thread as a commit keeps it (R345): out of its `garr` with the round's value; at an `rcmt` as it stands. -/
def State.committedThread (s : State) (v : Option Word) (th : Thread) : Thread :=
  match v with
  | none => th
  | some v => ((s.finishGarr v th.id).thread? th.id).getD th

/-- The event-engine part of a gang's items for a logical tile (R338, R349). -/
def EvEngine.image (e : EvEngine) (asid lgen : Nat) (name : Ltn) : EvImage :=
  { ctx := e.ctx? asid lgen name, acc := e.acc.filter fun x => e.owns (x.1 / 16384) asid lgen,
    dyn := e.dyn.filter fun x => e.owns (x.1 / 16) asid lgen, queue := e.queue.filter fun x => x.1 = gangKey asid lgen && x.2.name = name }

/-- Records of a gang on each core, oldest first: those of the hardware deque with those saved from it, and those of the spill. -/
def Tile.gangRecords (x : Tile) (asid lgen : Nat) : List (Nat × List TaskRec) :=
  x.cores.map fun c => (c.1, (c.2.deque ++ c.2.savedTasks).filter fun r => r.inGang asid lgen)
def Tile.gangSpill (x : Tile) (asid lgen : Nat) : List (Nat × List TaskRec) :=
  x.cores.map fun c => (c.1, c.2.spill.filter fun r => r.inGang asid lgen)

/-- Mailbox messages of a gang by core and mailbox, oldest first, those saved with the gang among them. -/
def Tile.gangMessages (x : Tile) (asid lgen : Nat) : List (Nat × List Msg) :=
  x.cores.flatMap fun c => (List.range 8).map fun m =>
    (boxKey c.1 m, (c.2.savedMsgs.filterMap (fun e => if e.1 = m then some e.2 else none) ++ c.2.box m).filter fun m => m.asid = asid && m.lgen = lgen)

/-- The copy of the commit area that a new commit takes: the one that is not current, so that the last commit stays readable (R331, R338).  That
is copy STK mod 2 of the commit's stroke number, but where an `rcmt`, which does not advance STK, has come between (log 46). -/
def Tile.nextCopy (x : Tile) (asid lgen : Nat) (name : Ltn) (stk : Nat) : Nat :=
  match x.commitOf asid lgen name with
  | some c => 1 - c.copy % 2
  | none => stk % 2

/-- The items of a gang on a site for one of its logical tiles there (R331, R349), `first` of them with what names no logical tile; with them
the reserve entries it has in the heap, the spill, the mailbox overflow and the event
queue, as they stand at the commit: what the undo records of R334 would bring back. -/
def State.captureFor (s : State) (t asid lgen : Nat) (stk : Word) (v : Option Word) (name : Ltn) (quarters : List Nat) (first : Bool) : Commit :=
  let x := s.tile t
  let mine := fun (th : Thread) => (match x.residFor asid lgen th.ltn with | some r => r.ltn | none => name) = name
  let only := fun {α : Type} (l : List α) => if first then l else []
  let ev := x.ev.image asid lgen name
  { copy := x.nextCopy asid lgen name stk.toNat, live := true, asid := asid, lgen := lgen, ltn := name, quarters := quarters, stk := stk.toNat,
    threads := ((s.gangThreads t asid lgen).filter fun th => decide (mine th)).map (s.committedThread v),
    deques := only (x.gangRecords asid lgen), spill := only (x.gangSpill asid lgen), mbx := only (x.gangMessages asid lgen),
    mbxOvf := only (x.mbxOvf.filter fun m => m.2.asid = asid && m.2.lgen = lgen),
    tags := only (x.cores.map fun c => (c.1, assocGet (gangKey asid lgen) { tags := 0, ovf := 0 } c.2.tags)),
    ev := if first then ev else { ev with acc := [], dyn := [] },
    bmap := match x.commitOf asid lgen name with | some c => c.bmap | none => [] }

/-- The items of a gang on a site (R331), for each logical tile that it has there. -/
def State.capture (s : State) (t asid lgen : Nat) (stk : Word) (v : Option Word) : List Commit :=
  match (s.tile t).resid.filter fun r => r.asid = asid && r.lgen = lgen with
  | [] => [s.captureFor t asid lgen stk v 0 [] true]
  | r :: rest =>
    s.captureFor t asid lgen stk v r.ltn r.quarters true :: rest.map fun r => s.captureFor t asid lgen stk v r.ltn r.quarters false

/-- Number of items of a commit record (R331); the entries of the reserve areas are counted apart (R341, R343). -/
def Commit.count (c : Commit) : Nat :=
  c.threads.length + (c.deques.map fun x => x.2.length).sum + (c.mbx.map fun x => x.2.length).sum + c.tags.length + (if c.ev.ctx.isSome then 1 else 0)

-- the entries of the reserve areas (R157, R334, R341)
/-- Lines of a wheel slot of a logical tile's event queue: each belongs to one gang and holds up to 8 of its events (R314, R334). -/
def EvEngine.lines (e : EvEngine) (name : Ltn) (slot : Nat) : List (Nat × List Event) :=
  let here := e.queue.filter fun q => q.2.name = name && q.2.tick % 64 = slot
  (here.map (·.1)).eraseDups.flatMap fun g =>
    let es := (here.filter fun q => q.1 = g).map (·.2)
    (chunks 8 ((es.length + 7) / 8) es).map fun l => (g, l)

/-- An event line as memory holds it. -/
def lineBytes (g : Nat) (l : List Event) : List Byte := l.flatMap fun e => bytesOf 16 (e.queued (g / 65536) (g % 65536))

/-- The entries of the reserve areas of a site for one of its logical tiles, in heap, spill, mailbox overflow and event queue, each with its gang,
its stroke number, its offset from the first of these areas as the shadow's image has them (R340), and its bytes. -/
def State.reserveEntries (s : State) (t : Nat) (name : Ltn) : List (Nat × Nat × Nat × List Byte) :=
  let x := s.tile t
  let mine := fun (asid lgen : Nat) => s.entryName t asid lgen = name
  (s.threads.filterMap fun th =>
    match th.loc with
    | .heap u i _ _ => if u = t && th.ltn = name then some (gangKey th.asid th.lgen, th.hstk, 352 * i, th.record) else none
    | _ => none) ++
  (x.cores.flatMap fun c => (c.2.spill.zipIdx.filter fun r => mine r.1.asid r.1.lgen).map fun (r, i) =>
    (gangKey r.asid r.lgen, r.stk, 5632 * 1024 + c.1 * 262144 + 64 * i, bytesOf 64 r.bits)) ++
  ((x.mbxOvf.zipIdx.filter fun m => mine m.1.2.asid m.1.2.lgen).map fun (m, i) =>
    (gangKey m.2.asid m.2.lgen, m.2.stk, 7680 * 1024 + 32 * i, bytesOf 32 m.2.data.toNat)) ++
  (List.range 64).flatMap fun slot => ((x.ev.lines name slot).zipIdx).map fun (l, i) =>
    (l.1, (l.2.map (·.stk)).foldl max 0, 8192 * 1024 + queueAddr 0 slot i, lineBytes l.1 l.2)

/-- The entries of a gang that a commit sends to the shadow: those written in the stroke that ends, all of them in a full mirror (R341, R350). -/
def State.changedEntries (s : State) (t g : Nat) (name : Ltn) (full : Bool) : List (Nat × List Byte) :=
  ((s.reserveEntries t name).filter fun e => e.1 = g && (full || e.2.1 = s.stkOf (g / 65536) (g % 65536))).map fun e => (e.2.2.1, e.2.2.2)

/-- A stroke number for all reserve entries of a gang on a site: where they stand as its commit has them, one that is not its current one (R334,
R345; log 46). -/
def Tile.restamp (asid lgen stk : Nat) (x : Tile) : Tile :=
  { x with
    cores := x.cores.map fun c => (c.1, { c.2 with spill := c.2.spill.map fun r => if r.inGang asid lgen then { r with stk := stk } else r }),
    mbxOvf := x.mbxOvf.map fun m => if m.2.asid = asid && m.2.lgen = lgen then (m.1, { m.2 with stk := stk }) else m,
    ev := { x.ev with queue := x.ev.queue.map fun q => if q.1 = gangKey asid lgen then (q.1, { q.2 with stk := stk }) else q } }

/-- The reserve entries of a gang, wherever they are, are those of its commit. -/
def State.restamp (s : State) (asid lgen : Nat) : State :=
  let stk := s.stkOf asid lgen + 2 ^ 64 - 1
  let s := s.mapThreads fun th => if th.inGang asid lgen then { th with hstk := stk } else th
  { s with tiles := s.tiles.map fun x => (x.1, x.2.restamp asid lgen stk) }

/-- Write back a line of a gang's stroke (R338 step 1): its undo record is made and its round bit cleared. -/
def State.writeBack (t g : Nat) (s : State) (v : Nat) : State :=
  let l := (s.tile t).line v
  if l.round = some g then
    (s.undoLine t l).modTile t fun x => x.modLine v fun l => { l with dirty := false, round := none, old := none }
  else s

/-- Line addresses of a site that carry a gang's round bit. -/
def Tile.roundLines (x : Tile) (g : Nat) : List Nat :=
  x.slice.flatMap fun z =>
    ((List.range 4).filter fun i => (z.lines.getD i .empty).round = some g).map fun i => z.sb * 512 + i * 128

/-- Blocks of a site's scratchpad that a gang's quarters hold with the snap bit set. -/
def Tile.snapped (x : Tile) (asid lgen : Nat) : List Nat :=
  (x.snaps.filter fun b => x.owns (quarterOf b.base) asid lgen).map fun b => b.base

/-- The progress record of a gang's commit on a site. -/
def Tile.phaseOf (x : Tile) (g : Nat) : Option Phase := x.phase.find? fun f => f.g = g

/-- Update it. -/
def Tile.modPhase (x : Tile) (g : Nat) (f : Phase → Phase) : Tile :=
  { x with phase := x.phase.map fun p => if p.g = g then f p else p }

/-- The ring from a zone on, that zone last. -/
def ringAfter (ring : List Nat) (z : Nat) : List Nat :=
  (ring.dropWhile fun y => y ≠ z).drop 1 ++ ring.takeWhile fun y => y ≠ z

/-- The buddy of a zone (R16, R350): the next live zone on its module's ring. -/
def State.buddy (s : State) (key : Nat) : Option Nat :=
  let m := key / 128
  ((ringAfter (s.module m).buddy (key % 128)).map fun z => m * 128 + z).find? fun k => !(s.zone k).lost

/-- The site bound to an index in a zone, if the index is live there. -/
def State.siteAt (s : State) (key index : Nat) : Option Nat :=
  if (s.binding (ltnOf 0 key index)).v then some (s.siteOf (ltnOf 0 key index)) else none

/-- The shadow tile of a logical tile at a site (R340, R349): none without a reservation, and none for a second logical tile. -/
def State.shadowSite (s : State) (t : Nat) (name : Ltn) : Option Nat :=
  if (s.module (siteModule t)).mirror = 0 || ltnField name ≠ siteZone t then none
  else (s.buddy (siteZone t)).bind fun b => s.siteAt b (ltnIndex name)

/-- The logical tile of a gang on a site that may have a shadow: that of the site's own zone, where the gang has one (R349). -/
def State.mirrorName (s : State) (t g : Nat) : Ltn :=
  match (s.tile t).resid.find? fun r => gangKey r.asid r.lgen = g && !secondTile t r.ltn with
  | some r => r.ltn
  | none => s.entryName t (g / 65536) (g % 65536)

/-- The mirroring of a gang's commit leaves on VC3 for the tile of the same index in the buddy zone, which holds the shadow (R16, R338,
R340). -/
def State.postMirror (s : State) (t g : Nat) : State :=
  let name := s.mirrorName t g
  match s.shadowSite t name, s.buddy (siteZone t) with
  | some _, some b => s.send t name (ltnOf 0 b (ltnIndex name)) (g / 65536) (g % 65536) (.mirror t g)
  | _, _ => s

/-- COMMIT_REQUEST (R338 steps 1 to 3): round lines are written back, and the gang's items captured for copy (STK + 1) mod 2; an
`rcmt` keeps STK; then the mirroring leaves for the shadow tile. -/
def execCommitRequest (t g : Nat) (s : State) : Out :=
  let asid := g / 65536
  let lgen := g % 65536
  match s.gang? asid lgen with
  | none => .next s
  | some x =>
    match x.commit with
    | none => .next s
    | some run =>
      .next (if !run.todo.contains t || ((s.tile t).phaseOf g).isSome then s
             else
               let lines := (s.tile t).roundLines g
               let s := lines.foldl (State.writeBack t g) s
               let v := if run.req.isSome then none else some (s.gongSlot run.slot).value
               let stk := if run.req.isSome then x.stk else x.stk + 1
               let ph : Phase := { g := g, lines := lines, blocks := (s.tile t).snapped asid lgen, items := s.capture t asid lgen stk v,
                                   full := run.req.isSome, sent := false, acked := false, short := false, bare := false }
               let s := s.modTile t fun y => { y with phase := y.phase ++ [ph] }
               if x.mir || ph.full then s.postMirror t g else s)

-- mirroring (R340-R343)
/-- The shadow of a source site at its shadow tile. -/
def Shadow.empty (source : Nat) : Shadow :=
  { source := source, blocks := [], items := [], pendItems := [], log := [], stale := [] }

/-- The shadow that a site keeps of a source site, if it keeps one. -/
def Tile.shadowOf (x : Tile) (source : Nat) : Option Shadow := x.shadow.find? fun h => h.source = source

/-- Update it, making it where there is none. -/
def Tile.modShadow (x : Tile) (source : Nat) (f : Shadow → Shadow) : Tile :=
  if (x.shadowOf source).isSome then { x with shadow := x.shadow.map fun h => if h.source = source then f h else h }
  else { x with shadow := x.shadow ++ [f (.empty source)] }

/-- Shadow-map word of a frame (R342). -/
def State.shadowMap (s : State) (t frame : Nat) : Nat := ofBytes (s.bytes (vaultKey t (0x07010000 + 4 * frame)) 4)

/-- Where a line of a mirrored frame has its shadow: a key on a tile of the buddy zone. -/
def State.shadowKey (s : State) (t v : Nat) : Option Nat :=
  let w := s.shadowMap t (v / 16384)
  if w / 2 ^ 31 % 2 = 0 then none
  else
    ((s.buddy (siteZone t)).bind fun b => s.siteAt b (bitsOf w 23 16)).map fun u =>
      vaultKey u (bitsOf w 12 0 * 16384 + v % 16384)

/-- Whether a page of an entry maps a frame of a logical tile for an ASID. -/
def mapsFrame (asid : Nat) (name : Ltn) (frame : Nat) (e : Nat × Word) : Bool :=
  keyAsid e.1 = asid && descType e.2 = 1 && !descRpl e.2 && wbits e.2 50 32 = name &&
  decide (wbits e.2 12 0 ≤ frame) && decide (frame < wbits e.2 12 0 + 2 ^ (pageBits (keySize e.1) - 14))

/-- Whether the page of a gang that maps a frame of a site has MIR (R341): by a tile TLB that holds an entry for it, else by the shadow map,
which system software writes for every frame that a MIR page maps (R342); a frame of a stripe shelf is mapped by its STRIPED page
(log 37). -/
def State.mirFrame (s : State) (t asid frame : Nat) : Bool :=
  let name := s.tileName t
  match s.tiles.findSome? fun x => x.2.tlb.find? (mapsFrame asid name frame) with
  | some e => descMir e.2
  | none => s.shadowMap t frame / 2 ^ 31 % 2 = 1

/-- Lines of the MIR pages of a site that no other gang's stroke has written: what a full mirror sends (R350). -/
def State.mirrorLines (s : State) (t g : Nat) : List Nat :=
  let x := s.tile t
  ((List.range 7168).filter fun f => s.mirFrame t (g / 65536) f).flatMap fun f =>
    ((List.range 128).map fun i => f * 16384 + i * 128).filter fun v =>
      match (x.line v).round with
      | some k => k = g
      | none => true

/-- Count lines or items left unmirrored in MIRINC (90), and mark the phase (R343). -/
def State.unmirrored (s : State) (t g n : Nat) : State :=
  if n = 0 then s
  else (s.setCount t 90 ((s.tile t).count 90 + BitVec.ofNat 64 n)).modTile t fun x => x.modPhase g fun p => { p with short := true }

/-- The packet that brings the mirroring of a gang's commit from a site. -/
def State.mirrorPacket (s : State) (t g : Nat) : Option Packet := s.packets.find? fun p => p.body = .mirror t g

/-- Old contents of a line of shadow memory go to the shadow log before it is overwritten (R341): none where the log of 14,336 entries is full.  A
gang that the shadow has no commit of yet has none to return to: its lines are not logged (R407; log 46). -/
def State.logShadow (s : State) (t u g key : Nat) : Option State :=
  let x := s.tile u
  let known := (x.shadowOf t).any fun h => h.items.any fun c => gangKey c.asid c.lgen = g
  let used := match x.shadowOf t with | some h => h.log.length | none => 0
  if !known then some s
  else if 14336 ≤ used then none
  else
    let old := s.block key 128
    some (s.modTile u fun x => x.modShadow t fun h => { h with log := h.log ++ [(g, old)] })

/-- Mirror one line of a commit, if its page has MIR (R341-R343): its old shadow goes to the shadow log, or the line stays stale. -/
def State.mirrorLine (t u g : Nat) (s : State) (v : Nat) : State :=
  let skip := (s.unmirrored t g 1).modTile u fun x => x.modShadow t fun h => { h with stale := Keys.put h.stale v }
  if !s.mirFrame t (g / 65536) (v / 16384) then s
  else match s.shadowKey t v with
  | none => skip
  | some key =>
    match s.logShadow t u g key with
    | none => skip
    | some s => (s.restore { s.block (vaultKey t v) 128 with base := key }).modTile u fun x => x.modShadow t fun h => { h with stale := h.stale.filter (· ≠ v) }

/-- Where the shadow tile's image of its source's heap, spill, mailbox overflow and event-queue frames begins (R340). -/
def State.imageBase (s : State) (u : Nat) : Nat := reserveFirst (s.module (siteModule u)).mirror * 16384 + 3328 * 1024

/-- Mirror one entry of a reserve area (R341): the lines of the image that it touches are logged and it is written there; where the log is full it
is unmirrored, which bars recovery (R343). -/
def State.mirrorEntry (t u g : Nat) (s : State) (e : Nat × List Byte) : State :=
  let at' := s.imageBase u + e.1
  match (linesOf at' e.2.length).foldl (fun (o : Option State) l => o.bind fun s => s.logShadow t u g (vaultKey u l)) (some s) with
  | some s => s.poke (vaultKey u at') e.2
  | none => (s.unmirrored t g 1).modTile t fun x => x.modPhase g fun p => { p with bare := true }

/-- Blocks of a gang's quarters on a site: all of them, as a full mirror sends. -/
def Tile.allBlocks (x : Tile) (t asid lgen : Nat) : List Nat :=
  ((List.range 768).map fun i => scratchKey t 0 0 0 + i * 1024).filter fun k => x.owns (quarterOf k) asid lgen

/-- The copy of the scratchpad shadow to which a block sent at a commit goes: the one that does not hold its commit contents (R340). -/
def otherCopy (bmap : List (Nat × Nat)) (base : Nat) : Nat := if assocGet base 1 bmap = 0 then 1 else 0

/-- A block's shadow written in one copy. -/
def putShadow (l : List (Nat × Block)) (k : Nat) (b : Block) : List (Nat × Block) :=
  l.filter (fun o => !(o.1 = k && o.2.base = b.base)) ++ [(k, b)]

/-- Write a commit's lines, reserve entries, blocks and items into the shadow (R338 step 3, R340, R341): each block into its other copy, which the
map sent with the items names; everything where the shadow has no commit of the gang, as after a re-pairing (R350). -/
def State.sendMirror (s : State) (t u : Nat) (ph : Phase) : State :=
  let asid := ph.g / 65536
  let lgen := ph.g % 65536
  let name := s.mirrorName t ph.g
  let known := ((s.tile u).shadowOf t).any fun h => h.items.any fun c => c.asid = asid && c.lgen = lgen
  let full := ph.full || !known
  let lines := if full then s.mirrorLines t ph.g else ph.lines
  let blocks := if full then (s.tile t).allBlocks t asid lgen else ph.blocks
  let s := lines.foldl (State.mirrorLine t u ph.g) s
  let s := (s.changedEntries t ph.g name full).foldl (State.mirrorEntry t u ph.g) s
  let bmap := match ph.items.find? fun c => c.ltn = name with | some c => c.bmap | none => []
  let sent := blocks.map fun k => (otherCopy bmap k, s.block k 1024)
  let bmap := sent.foldl (fun m b => assocSet b.2.base b.1 m) bmap
  let items := ph.items.map fun c => if c.ltn = name then { c with bmap := bmap } else c
  (s.modTile u fun x =>
    x.modShadow t fun h =>
      { h with blocks := sent.foldl (fun l b => putShadow l b.1 b.2) h.blocks, pendItems := h.pendItems ++ items.filter fun c => c.ltn = name }).modTile t
    fun x => x.modPhase ph.g fun p => { p with items := items }

/-- MIRROR_WRITE (R338 step 3, R343): what a gang whose policy is MIRROR has sent to the shadow tile of its logical tile, as does every `rcmt`
where the zone's buddy has a reservation, is written there when it arrives; without a shadow tile nothing of a mirrored gang's commit is
mirrored. -/
def execMirrorWrite (t g : Nat) (s : State) : Out :=
  match (s.tile t).phaseOf g, s.gang? (g / 65536) (g % 65536) with
  | some ph, some x =>
    let name := s.mirrorName t g
    .next (if ph.sent || !(x.mir || ph.full) then s
           else
             match s.shadowSite t name with
             | some u =>
               let alone := (s.tile t).resid.any fun e => gangKey e.asid e.lgen = g && e.ltn ≠ name
               match s.mirrorPacket t g with
               | none => s.postMirror t g
               | some p =>
                 if p.pos ≠ .arrived u then s
                 else
                   ((s.dropPacket p.id).sendMirror t u ph).modTile t fun y => y.modPhase g fun p =>
                     { p with sent := true, short := p.short || alone, bare := p.bare || alone }
             | none =>
               let mirrored := ph.lines.filter fun v => s.mirFrame t (g / 65536) (v / 16384)
               let entries := s.changedEntries t g name ph.full
               (s.unmirrored t g (mirrored.length + entries.length + (ph.items.map Commit.count).sum)).modTile t fun y => y.modPhase g fun p =>
                 { p with sent := true, acked := true, short := true, bare := true })
  | _, _ => .next s

/-- SHADOW_ACK (R338 step 5). -/
def execShadowAck (t g : Nat) (s : State) : Out :=
  .next (s.modTile t fun x => x.modPhase g fun p => if p.sent then { p with acked := true } else p)

/-- A new commit of a gang for a logical tile overwrites its copy and is current; the other copy stays, readable, until the commit after it
(R331, R339). -/
def putCommit (c : Commit) (l : List Commit) : List Commit :=
  let same := fun (o : Commit) => o.asid = c.asid && o.lgen = c.lgen && o.ltn = c.ltn
  (l.filter fun o => !(same o && o.copy = c.copy)).map (fun o => if same o then { o with live := false } else o) ++ [c]

/-- The commit point at a site (R339): the new copy is current, undo records, snap bits and NRB clear. -/
def Tile.commitPoint (x : Tile) (asid lgen : Nat) : Tile :=
  let g := gangKey asid lgen
  match x.phaseOf g with
  | none => x
  | some ph =>
    { (x.modResid asid lgen fun r => { r with nrb := false }) with
      commits := ph.items.foldl (fun l c => putCommit c l) x.commits, undo := x.undo.filter (fun u => !(u.asid = asid && u.lgen = lgen)),
      snaps := x.snaps.filter (fun b => !x.owns (quarterOf b.base) asid lgen), phase := x.phase.filter fun p => p.g ≠ g }

/-- The commit point at a shadow: what was sent for the gang becomes its committed shadow, and the gang's log entries go (R339). -/
def Shadow.commitPoint (asid lgen : Nat) (h : Shadow) : Shadow :=
  let mine := h.pendItems.filter fun c => c.asid = asid && c.lgen = lgen
  if mine.isEmpty && !h.log.any fun e => e.1 = gangKey asid lgen then h
  else
    { h with items := mine.foldl (fun l c => putCommit c l) h.items,
             pendItems := h.pendItems.filter (fun c => !(c.asid = asid && c.lgen = lgen)), log := h.log.filter fun e => e.1 ≠ gangKey asid lgen }

/-- The commit point of a gang (R22, R339, R358): every tile makes its copy current, STK advances but not for an `rcmt`, egress holds are
released; then the round's release follows, which opens the next stroke (R263), or the `rcmt` is answered. -/
def State.commitPoint (s : State) (asid lgen : Nat) (run : CommitRun) : State :=
  let g := gangKey asid lgen
  let short := s.tiles.any fun x => (match x.2.phaseOf g with | some p => p.short | none => false)
  let bare := s.tiles.any fun x => (match x.2.phaseOf g with | some p => p.bare | none => false)
  let ports : List Nat := match s.gang? asid lgen with | some x => x.egress.map (·.1) | none => []
  let s : State := { s with tiles := s.tiles.map fun x => (x.1, { x.2.commitPoint asid lgen with shadow := x.2.shadow.map (Shadow.commitPoint asid lgen) }) }
  let s := ports.foldl (fun s n => s.releaseHold asid lgen n) s
  let s := s.modGang asid lgen fun x =>
    { x with stk := if run.req.isSome then x.stk else x.stk + 1, committed := true, strokeOpen := false, commit := none,
             partialMir := short, bareMir := bare, hostBytes := [] }
  match run.req with
  | some id => (s.restamp asid lgen).finishRequest id (some true)
  | none =>
    let v := (s.gongSlot run.slot).value
    let s := s.modGong run.slot fun k => { k with commit := false }
    match s.roundLevel (run.slot / 64) (run.slot % 64) with
    | some k => s.releaseRound (s.members (run.slot / 64) (run.slot % 64) k) g k v
    | none => s

/-- COMMIT_REPORT (R338 step 5, R339): the last tile's report is the commit point, unless a rollback or the gang's end has been ordered before
it (R23). -/
def execCommitReport (t g : Nat) (s : State) : Out :=
  let asid := g / 65536
  let lgen := g % 65536
  match (s.tile t).phaseOf g, s.gang? asid lgen with
  | some ph, some x =>
    match x.commit with
    | none => .next s
    | some run =>
      let mirrors := x.mir || ph.full
      .next (if !run.todo.contains t || (mirrors && !ph.acked) || x.order.isSome || x.stopped then s
             else
               let run := { run with todo := run.todo.filter (· ≠ t) }
               if run.todo.isEmpty then s.commitPoint asid lgen run
               else s.modGang asid lgen fun x => { x with commit := some run })
  | _, _ => .next s

-- discarding a gang's work
/-- Announcements of threads that cease, but for those whose operation is on its way (R258). -/
def State.dropAnns (s : State) (ths : List Thread) : State :=
  let flying := fun (id : Nat) => s.packets.any fun p => match p.body with | .proxyAtomic th _ _ _ _ _ _ _ => th = id | _ => false
  let local' := fun (ref : Nat) => ths.any fun th =>
    (th.id = ref && !flying ref) ||
    th.sb.any fun x => match x with | .entry q _ _ _ _ _ _ st => q = ref && (st = none || st = some 0) | .marker _ _ => false
  { s with anns := s.anns.filter fun a => !local' a.ref }

/-- Threads of a gang cease wherever they are, with their parked operations and their places in queues (R117). -/
def State.discardThreads (s : State) (asid lgen : Nat) : State :=
  let gone := s.threads.filter fun th => th.inGang asid lgen
  let ids := gone.map (·.id)
  let seqs := gone.flatMap fun th => th.sb.map SbItem.seq
  let s := s.dropAnns gone
  let keep := fun (l : List Nat) => l.filter fun i => !ids.contains i
  { s with
    thr := if s.thr.inGang asid lgen then .idle else s.thr,
    others := s.others.filter fun th => !th.inGang asid lgen,
    packets := s.packets.filter fun p => !(p.isAside && p.asid = asid && p.lgen = lgen),
    tiles := s.tiles.map fun x =>
      (x.1, { x.2 with
              waiters := x.2.waiters.filter fun w => !(w.asid = asid && w.lgen = lgen),
              ctxq := keep x.2.ctxq, heapq := keep x.2.heapq, refused := x.2.refused.filter fun r => !seqs.contains r.2.2,
              resend := x.2.resend.filter fun r => !ids.contains r.1,
              cores := x.2.cores.map fun c => (c.1, { c.2 with vecq := keep c.2.vecq, recvq := keep c.2.recvq }) }) }

/-- Work of a gang on a site ceases: task records, messages, copy tags, engine commands and runs, hook records, row buffers, and copies,
whose packets on their way are left to arrive (R299, R322, R345, R375). -/
def Tile.discardWork (asid lgen : Nat) (x : Tile) : Tile :=
  let g := gangKey asid lgen
  let mine := fun (a l : Nat) => a = asid && l = lgen
  { x with
    cores := x.cores.map fun c =>
      (c.1, { c.2 with
              deque := c.2.deque.filter (fun r => !r.inGang asid lgen), spill := c.2.spill.filter (fun r => !r.inGang asid lgen),
              mbx := c.2.mbx.map (fun b => (b.1, b.2.filter fun m => !mine m.asid m.lgen)),
              savedTasks := c.2.savedTasks.filter (fun r => !r.inGang asid lgen),
              savedMsgs := c.2.savedMsgs.filter (fun e => !mine e.2.asid e.2.lgen),
              tags := c.2.tags.filter (fun e => e.1 ≠ g), bufs := c.2.bufs.filter fun h => !mine h.asid h.lgen }),
    mbxOvf := x.mbxOvf.filter (fun m => !mine m.2.asid m.2.lgen),
    copies := x.copies.map (fun c => if mine c.asid c.lgen then { c with ended := true } else c),
    mat := { x.mat with
             queue := x.mat.queue.filter (fun c => !mine c.asid c.lgen),
             rows := x.mat.rows.filter fun r => !(x.mat.queue.any fun c => c.seq = r.cmd && mine c.asid c.lgen) },
    ev := { x.ev with
            runs := x.ev.runs.filter (fun r => !mine r.asid r.lgen), queue := x.ev.queue.filter (fun q => q.1 ≠ g),
            cur := if x.ev.runs.any (fun r => x.ev.cur = some r.id && mine r.asid r.lgen) then none else x.ev.cur,
            tick := x.ev.tick.filter fun k => !mine k.asid k.lgen,
            hook := x.ev.hook.filter fun h => !h.2.inGang asid lgen,
            hookTold := x.ev.hookTold && x.ev.hook.all fun h => !h.2.inGang asid lgen } }

/-- A slot whose round is abandoned. -/
def GongSlot.abandon (k : GongSlot) : GongSlot := { k with prevArr := false, prevMix := false, sweep := [], last := [], commit := false }

/-- The gong's rounds of a gang are abandoned (R277), those of a saved gang as they were saved too (R346). -/
def State.abandonRounds (s : State) (asid lgen : Nat) : State :=
  let mine := fun (k : Nat) => let w := s.segment (k / 64) (k % 64); segV w && segAsid w = asid && segGen w = lgen
  { (s.modGang asid lgen fun y => { y with slots := y.slots.map fun x => (x.1, x.2.abandon) }) with
    gong := s.gong.map fun x => if mine x.1 then (x.1, x.2.abandon) else x,
    releases := s.releases.filter fun r => r.g ≠ gangKey asid lgen }

/-- A commit phase of a gang that did not reach its commit point is abandoned: the shadows return to the previous commit, their logs
replayed newest first (R338, R348). -/
def State.abandonCommit (s : State) (asid lgen : Nat) : State :=
  let g := gangKey asid lgen
  let undone := s.tiles.flatMap fun x => x.2.shadow.flatMap fun h => (h.log.filter fun e => e.1 = g).map (·.2)
  let s := undone.reverse.foldl State.restore s
  { (s.modGang asid lgen fun x => { x with commit := none }) with
    tiles := s.tiles.map fun x =>
      (x.1, { x.2 with
              phase := x.2.phase.filter (fun p => p.g ≠ g),
              shadow := x.2.shadow.map fun h =>
                { h with log := h.log.filter (fun e => e.1 ≠ g), pendItems := h.pendItems.filter fun c => !(c.asid = asid && c.lgen = lgen) } }),
    packets := s.packets.filter fun p => match p.body with | .mirror _ k => k ≠ g | _ => true }

/-- Whether a packet that a gang sent is still in flight: a packet of its ASID and generation, an acknowledgement or a response included, but no
share request that its tile keeps (R294); one bound for a lost zone counts as done (R345). -/
def State.inFlight (s : State) (asid lgen : Nat) : Bool :=
  s.packets.any fun p => p.asid = asid && p.lgen = lgen && p.vc < 3 && p.pos ≠ .discarded && !p.isAside && !(s.zone (nameField p.dst)).lost

-- rollback (R344-R346)
/-- Messages return to a mailbox ahead of those it holds; what exceeds 16 goes to the front of the overflow (R374). -/
def State.returnMessages (t : Nat) (s : State) (b : Nat × List Msg) : State :=
  let core := b.1 / 8
  let m := b.1 % 8
  let all := b.2 ++ ((s.tile t).core core).box m
  if b.2.isEmpty then s
  else (s.modBox t core m fun _ => all.take 16).modTile t fun x => { x with mbxOvf := ((all.drop 16).map fun y => (b.1, y)) ++ x.mbxOvf }

/-- Records return to a core's deque, the newest 64 in hardware. -/
def State.returnRecords (t : Nat) (s : State) (d : Nat × List TaskRec) : State :=
  s.modCore t d.1 fun c =>
    let all := c.deque ++ d.2
    { c with deque := all.drop (all.length - 64), spill := c.spill ++ all.take (all.length - 64) }

/-- Spilled records return to the spill of a core. -/
def State.returnSpill (t : Nat) (s : State) (d : Nat × List TaskRec) : State :=
  if d.2.isEmpty then s else s.modCore t d.1 fun c => { c with spill := d.2 ++ c.spill }

/-- The hardware-deque records and mailbox messages of a gang on a site leave their queues as it is saved (R372, R373). -/
def Tile.setAside (asid lgen : Nat) (x : Tile) : Tile :=
  let mine := fun (m : Msg) => m.asid = asid && m.lgen = lgen
  { x with
    cores := x.cores.map fun c =>
      (c.1, { c.2 with
              deque := c.2.deque.filter (fun r => !r.inGang asid lgen),
              savedTasks := c.2.savedTasks ++ c.2.deque.filter (fun r => r.inGang asid lgen),
              mbx := c.2.mbx.map (fun b => (b.1, b.2.filter fun m => !mine m)),
              savedMsgs := c.2.savedMsgs ++ c.2.mbx.flatMap fun b => (b.2.filter mine).map fun m => (b.1, m) }) }

/-- Saved records return to their cores' bottoms, saved messages to their mailboxes ahead of those that came meanwhile (R374). -/
def State.returnAside (asid lgen : Nat) (s : State) (t : Nat) : State :=
  let cores := (s.tile t).cores
  let mine := fun (e : Nat × Msg) => e.2.asid = asid && e.2.lgen = lgen
  let s := s.modTile t fun x =>
    { x with
      cores := x.cores.map fun c =>
        (c.1, { c.2 with savedTasks := c.2.savedTasks.filter (fun r => !r.inGang asid lgen), savedMsgs := c.2.savedMsgs.filter fun e => !mine e }) }
  let s := (cores.map fun c => (c.1, c.2.savedTasks.filter fun r => r.inGang asid lgen)).foldl (State.returnRecords t) s
  (cores.flatMap fun c => (List.range 8).map fun m =>
    (boxKey c.1 m, (c.2.savedMsgs.filter fun e => e.1 = m && mine e).map (·.2))).foldl (State.returnMessages t) s

/-- A thread of the commit is recreated (R345 step 5): queued to run, or saved where the gang is pre-empted (R346). -/
def State.recreate (t : Nat) (preempted : Bool) (s : State) (th : Thread) : State :=
  let s := { s with others := s.others ++ [{ th with park := none, after := none, vec := .idle, sb := [], since := 0, races := 0, loc := .saved t }] }
  if preempted then s
  else if (s.replayable t).isEmpty && (s.tile t).ctxq.length < 32 then s.toQueue t th.id
  else
    match s.toHeap t th.id false false with
    | some s => s
    | none => s.toQueue t th.id

/-- Invalidate the lines of a gang's round without write-back: the vault's contents stand again (R345 step 2). -/
def State.invalidateRound (t g : Nat) (s : State) (v : Nat) : State :=
  let l := (s.tile t).line v
  let s := match l.old with
    | some b => if l.dirty then s.restore b else s
    | none => s
  s.modTile t fun x => x.modLine v fun _ => .empty

/-- What the banks of a gang's event engine hold after its commit goes, before the commit's own state returns (R345). -/
def Tile.clearBanks (asid lgen : Nat) (x : Tile) : Tile :=
  { x with ev := { x.ev with acc := x.ev.acc.filter (fun e => !x.ev.owns (e.1 / 16384) asid lgen),
                             dyn := x.ev.dyn.filter fun e => !x.ev.owns (e.1 / 16) asid lgen } }

/-- State of a commit copy recreated on a site (R345 step 5): copy tags, the event engine's state, task records, messages, threads. -/
def State.recreateItems (t : Nat) (s : State) (c : Commit) : State :=
  let g := gangKey c.asid c.lgen
  let mine := fun (e : EvEngine) (bank : Nat) => e.owns bank c.asid c.lgen
  let s := s.modTile t fun y =>
    { y with
      cores := (c.tags.foldl (fun y e => y.modCore e.1 fun k => { k with tags := assocSet g e.2 k.tags }) y).cores,
      mbxOvf := c.mbxOvf ++ y.mbxOvf,
      ev := { y.ev with
              ctxs := y.ev.ctxs.filter (fun k => !(k.asid = c.asid && k.lgen = c.lgen && k.ltn = c.ltn)) ++ c.ev.ctx.toList,
              acc := c.ev.acc.foldl (fun l e => if mine y.ev (e.1 / 16384) then assocSet e.1 e.2 l else l) y.ev.acc,
              dyn := c.ev.dyn.foldl (fun l e => if mine y.ev (e.1 / 16) then assocSet e.1 e.2 l else l) y.ev.dyn,
              queue := y.ev.queue ++ c.ev.queue } }
  let s := c.deques.foldl (State.returnRecords t) s
  let s := c.spill.foldl (State.returnSpill t) s
  let s := c.mbx.foldl (State.returnMessages t) s
  c.threads.foldl (State.recreate t (s.preemptedAt t c.asid c.lgen)) s

/-- Key of a recovered scratchpad block on its new site: the same place of the window, in the quarters now held (R348 step 3). -/
def recoveredKey (t : Nat) (old now : List Nat) (key : Nat) : Option Nat :=
  let o := scratchOff key
  (old.idxOf? (o % 98304 / 24576)).bind fun j =>
    now[j]?.map fun q => scratchKey t (o / 98304) 0 0 + q * 24576 + o % 24576

/-- What a loss has brought to a site for a gang takes its place once the gang holds quarters there: scratchpad blocks and the commit
items (R348 steps 3 and 4). -/
def State.recoverTile (asid lgen : Nat) (s : State) (t : Nat) : State :=
  let mine := (s.tile t).recover.filter fun e => e.1.asid = asid && e.1.lgen = lgen
  let s := mine.foldl (fun s e =>
    match (s.tile t).residFor asid lgen e.1.ltn with
    | none => s
    | some r =>
      let s := e.2.foldl (fun s b =>
        match recoveredKey t e.1.quarters r.quarters b.base with
        | some k => s.restore { b with base := k }
        | none => s) s
      s.modTile t fun x => { x with commits := putCommit { e.1 with quarters := r.quarters } x.commits }) s
  s.modTile t fun x => { x with recover := x.recover.filter fun e => !(e.1.asid = asid && e.1.lgen = lgen) }

/-- Whether what a loss has brought to the sites of a gang can take its place: the gang is resident there for each logical tile. -/
def State.recoverable (s : State) (asid lgen : Nat) : Bool :=
  s.tiles.all fun x => x.2.recover.all fun e =>
    !(e.1.asid = asid && e.1.lgen = lgen) ||
    x.2.resid.any fun r => r.asid = asid && r.lgen = lgen && r.ltn = e.1.ltn && r.quarters.length = e.1.quarters.length

/-- A byte that the host or another gang wrote in the stroke: one value or the other, as the free value says (R263, R334; log 22). -/
def State.hostByte (s : State) (x : Nat × Byte) : State :=
  let s' : State := { s with free := s.free + 1 }
  if Config.eitherByte s.free then s'.poke x.1 [x.2] else s'

/-- Blocks of a site that the rollback of a gang restores: those of its undo records, and those beneath dirty lines of its round. -/
def Tile.restoredBlocks (x : Tile) (asid lgen : Nat) : List Block :=
  ((x.undo.filter fun u => u.asid = asid && u.lgen = lgen && u.kind = 0).map (·.block)) ++
  (x.roundLines (gangKey asid lgen)).filterMap fun v => if (x.line v).dirty then (x.line v).old else none

/-- Bytes of lines that the rollback of a gang restores and that another gang has written too in its stroke (R334): as they stand, which is the last
value that either wrote, and as they stood when the gang that wrote last took the line over, which is the other's last value: in the newest
undo record of the line, or in the vault beneath it. -/
def State.sharedBytes (s : State) (t asid lgen : Nat) : List (Nat × Byte) :=
  let x := s.tile t
  let other := fun (b : Block) =>
    (x.undo.any fun u => u.kind = 0 && !(u.asid = asid && u.lgen = lgen) && u.block.base = b.base) ||
    (match (x.line (keyVault b.base)).round with | some k => k ≠ gangKey asid lgen | none => false)
  ((x.restoredBlocks asid lgen).filter other).flatMap fun b =>
    let before := ((x.undo.filter fun u => u.kind = 0 && u.block.base = b.base).getLast?.map (·.block)).toList ++ (x.line (keyVault b.base)).old.toList
    (before.map (·.data) ++ [s.bytes b.base 128]).flatMap fun d => d.zipIdx.map fun (v, i) => (b.base + i, v)

/-- Whether a byte of a vault lies in a page of a gang without HSH, which the host must not write in its stroke (R181, R263), as a TLB or system
software's tables show it. -/
def State.hostBarred (s : State) (asid key : Nat) : Bool :=
  let t := keySite key
  let name := s.tileName t
  let frame := keyVault key / 16384
  isVaultKey key &&
  match s.tiles.findSome? fun x => x.2.tlb.find? (mapsFrame asid name frame) with
  | some e => !e.2.getLsbD 59
  | none => Config.pageMapped asid name frame s.time

/-- Steps 2 to 5 of R345 on a site; the entries of the reserve areas return with the items of the commit, which hold them (log 38). -/
def State.rollbackTile (asid lgen : Nat) (s : State) (t : Nat) : State :=
  let g := gangKey asid lgen
  let x := s.tile t
  let shared := s.sharedBytes t asid lgen
  let s := (x.roundLines g).foldl (State.invalidateRound t g) s
  let undo := x.undo.filter fun u => u.asid = asid && u.lgen = lgen && u.kind = 0
  let s := (undo.reverse.map (·.block)).foldl State.restore s
  let host := match s.gang? asid lgen with | some y => y.hostBytes | none => []
  let blocks := x.restoredBlocks asid lgen
  let inside := fun (c : Nat × Byte × Byte) => blocks.any fun b => decide (b.base ≤ c.1) && decide (c.1 < b.base + 128)
  let kept := (host.filter inside).map fun c => (c.1, c.2.1)
  let back := (host.filter fun c => !inside c && keySite c.1 = t && s.hostBarred asid c.1).map fun c => (c.1, c.2.2)
  let s := (shared ++ kept ++ back).foldl State.hostByte s
  let snaps := x.snaps.filter fun b => x.owns (quarterOf b.base) asid lgen
  let s := snaps.foldl State.restore s
  let s := s.modTile t fun y =>
    { y with undo := y.undo.filter (fun u => !(u.asid = asid && u.lgen = lgen)),
             snaps := y.snaps.filter (fun b => !y.owns (quarterOf b.base) asid lgen),
             snapping := y.snapping.filter fun k => !y.owns (quarterOf (k * 1024)) asid lgen }
  let items := x.commits.filter fun c => c.live && c.asid = asid && c.lgen = lgen
  let s := if items.isEmpty then s else s.modTile t (Tile.clearBanks asid lgen)
  (items.foldl (State.recreateItems t) s).restamp asid lgen

/-- Step 6 of R345: RBCNT (88) counts on every tile, and 0x17 goes to system software there, unless the gang is left pre-empted. -/
def State.reportRollback (asid lgen : Nat) (stk : Word) (quiet : Bool) (s : State) (t : Nat) : State :=
  let s := s.bump t 88
  if quiet then s else s.report t 0x17 asid lgen (stk <<< 48 ||| BitVec.ofNat 64 asid)

/-- Requests of `rbak` for a gang: their numbers, and whether each leaves the gang pre-empted. -/
def State.rollbackRequests (s : State) (g : Nat) : List (Nat × Bool) :=
  s.reqs.filterMap fun r => match r with | .rollback id _ k leave => if k = g then some (id, leave) else none | _ => none

/-- The rollback is due: ordered by consumed poison, a loss, or `rbak` (R344). -/
def State.rollbackDue (s : State) (g : Nat) (x : Gang) : Bool :=
  match x.order with
  | some .rollback => true
  | some (.fatal _ _ _) => false
  | none => !(s.rollbackRequests g).isEmpty

-- the context area (R373); the layout within its parts is the model's (log 47)
/-- Fields packed into a number from bit 0 on: each its width and its value. -/
def packBits : List (Nat × Nat) → Nat
  | [] => 0
  | (w, v) :: r => v % 2 ^ w + 2 ^ w * packBits r

/-- The gong slots whose records name a gang, with the state of their rounds (R277). -/
def State.gangSlots (s : State) (asid lgen : Nat) : List (Nat × GongSlot) :=
  s.gong.filter fun k => let w := s.segment (k.1 / 64) (k.1 % 64); segV w && segAsid w = asid && segGen w = lgen

/-- Matrix commands, panel loads and partner shares of a gang that its context area holds (R299, R373): no group without its reservations (R303). -/
def Tile.areaCommands (x : Tile) (asid lgen : Nat) : List MatCmd :=
  x.mat.queue.filter fun c => c.asid = asid && c.lgen = lgen && (c.accepted || c.part ≠ 0)

/-- The row buffer of the handler thread of slot 1 of a core, with a bit that says that there is one (R373). -/
def rowHeld (ths : List Thread) (core : Nat) : Nat :=
  match ths.findSome? fun th => match th.kind with | .handler h => if h.core = core then some h.buf else none | _ => none with
  | some b => 4 + b % 4
  | none => 0

/-- Header of a context area: ASID, LGEN, STK, counts of each part, row buffers (R373). -/
def State.areaHeader (s : State) (t asid lgen : Nat) (ths : List Thread) : List Byte :=
  let x := s.tile t
  let msgs := x.gangMessages asid lgen
  bytesOf 64 (packBits
    ([(12, asid), (16, lgen), (64, s.stkOf asid lgen), (8, ths.length), (5, (s.gangSlots asid lgen).length), (6, (x.areaCommands asid lgen).length)] ++
     ((List.range 8).map fun c => (7, (assocGet c [] (x.gangRecords asid lgen)).length)) ++
     ((List.range 64).map fun k => (5, (assocGet k [] msgs).length)) ++ (List.range 8).map fun c => (3, rowHeld ths c)))

/-- A gong slot in a context area: node and slot, record, value, and the state of its rounds. -/
def GongSlot.area (key : Nat) (k : GongSlot) : List Byte :=
  bytesOf 32 (packBits [(64, key), (64, k.record.toNat), (64, k.value.toNat), (1, bit k.prevArr), (1, bit k.prevMix), (1, bit k.commit)])

/-- A matrix command in a context area: its shape, and what else it is. -/
def MatCmd.area (c : MatCmd) : List Byte :=
  bytesOf 128 (packBits
    [(512, c.shape.toNat), (19, c.fmt.toNat), (1, bit c.load), (3, c.core), (19, c.ltn), (64, c.src), (2, c.part), (19, c.lead), (64, c.leadCmd),
     (1, bit c.accepted), (32, c.pass), (1, bit c.stopping), (5, c.flags.toNat), (1, bit c.psn)])

/-- An event-engine context in a context area, with the ticks that its run has left, the tag it is to set and its core (R322). -/
def EvCtx.area (c : EvCtx) (r : Option EvRun) : List Byte :=
  let (left, tag, core) := match r with | some r => (r.left, r.tag, r.core) | none => (0, 0, 0)
  bytesOf 128 (packBits
    [(16, c.first), (17, c.count), (6, c.look), (1, bit c.ltrap), (32, c.hzn), (1, bit c.fo.tag), (128, c.fo.bits.toNat), (3, c.nextCore),
     (64, c.fire.toNat), (64, c.late.toNat), (64, c.drop.toNat), (1, bit c.sLate), (1, bit c.sDrop), (1, bit c.sPsn), (19, c.ltn), (6, left), (6, tag),
     (3, core)])

/-- The parts of the context area of a gang on a site, each with its offset (R373). -/
def State.areaParts (s : State) (t asid lgen : Nat) (ids : List Nat) : List (Nat × List Byte) :=
  let x := s.tile t
  let g := gangKey asid lgen
  let ths := (ids.take 152).filterMap s.thread?
  [(0, s.areaHeader t asid lgen ths)] ++
  (ths.zipIdx.map fun (th, i) => (0x40 + 352 * i, th.record)) ++
  ((x.gangRecords asid lgen).flatMap fun (c, rs) => (rs.take 64).zipIdx.map fun (r, i) => (0xE000 + 4096 * c + 64 * i, bytesOf 64 r.bits)) ++
  ((x.gangMessages asid lgen).flatMap fun (k, ms) => (ms.take 16).zipIdx.map fun (m, i) => (0x16000 + 512 * k + 32 * i, bytesOf 32 m.data.toNat)) ++
  ((List.range 8).map fun c =>
    let m := assocGet g { tags := 0, ovf := 0 } (x.core c).tags
    (0x1E000 + 16 * c, bytesOf 8 m.tags.toNat ++ bytesOf 8 m.ovf.toNat)) ++
  (((s.gangSlots asid lgen).take 32).zipIdx.map fun (k, i) => (0x1E100 + 32 * i, k.2.area k.1)) ++
  (((x.areaCommands asid lgen).take 32).zipIdx.map fun (c, i) => (0x1E500 + 128 * i, c.area)) ++
  (((x.ev.ctxs.filter fun c => c.asid = asid && c.lgen = lgen).take 2).zipIdx.map fun (c, i) =>
    (0x1F500 + 128 * i, c.area (x.ev.runs.find? fun r => r.asid = asid && r.lgen = lgen && r.ltn = c.ltn)))

/-- Write the context area of a gang on a site, where it has one, through the slice (R163, R373). -/
def State.writeArea (s : State) (t asid lgen : Nat) (ids : List Nat) : State :=
  match (s.tile t).resid? asid lgen with
  | some { cxbase := some frame, .. } =>
    (s.areaParts t asid lgen ids).foldl (fun s x => s.writeVault (vaultKey t (frame * 16384) + x.1) x.2) s
  | _ => s

/-- Threads of a gang saved at a site, in saved order. -/
def State.savedAt (s : State) (t asid lgen : Nat) : List Nat :=
  (s.others.filter fun th => th.inGang asid lgen && th.loc = .saved t).map (·.id)

/-- ROLLBACK (R345, R346): first everything of the gang stops; once none of its packets is in flight, its memory and state return to the
commit, and the rollback is reported.  A gang that is left or found pre-empted stands stopped at its commit point, its context area rewritten
(R263, R346). -/
def execRollback (g : Nat) (s : State) : Out :=
  let asid := g / 65536
  let lgen := g % 65536
  match s.gang? asid lgen with
  | none => .next s
  | some x =>
    .next (if !s.rollbackDue g x then s
           else
             let stop := fun (s : State) =>
               let s := (s.discardThreads asid lgen).abandonRounds asid lgen
               { s with tiles := s.tiles.map fun y => (y.1, y.2.discardWork asid lgen) }
             if !x.stopped then
               (stop (s.abandonCommit asid lgen)).modGang asid lgen fun y => { y with stopped := true }
             else if s.inFlight asid lgen || !s.recoverable asid lgen then s
             else
               let reqs := s.rollbackRequests g
               let leave := reqs.any (·.2)
               let sites := s.gangSites asid lgen
               let s := sites.foldl (State.recoverTile asid lgen) (stop s)
               let s := if leave then sites.foldl (fun s t => s.modTile t fun y => y.modResid asid lgen fun r => { r with preempted := true }) s else s
               let s := (s.strokeSites asid lgen).foldl (State.rollbackTile asid lgen) s
               let s : State := { s with
                 tiles := s.tiles.map (fun y => (y.1, y.2.modResid asid lgen fun r => { r with nrb := false, forming := false })),
                 packets := s.packets.filter fun p => !(p.asid = asid && p.lgen = lgen && p.pos = .discarded) }
               let held := s.tiles.any fun y => y.2.resid.any fun r => r.asid = asid && r.lgen = lgen && r.preempted
               let s := s.modGang asid lgen fun y =>
                 { y with order := none, stopped := false, egress := [], hostBytes := [], strokeOpen := !held && !y.tiles.isEmpty }
               let s := if held then sites.foldl (fun s t => (s.modTile t (Tile.setAside asid lgen)).writeArea t asid lgen (s.savedAt t asid lgen)) s else s
               let s := sites.foldl (State.reportRollback asid lgen x.stk leave) s
               reqs.foldl (fun s r => s.finishRequest r.1 (some true)) s)

-- rcmt and rbak (R358)
/-- Gang key of an operand of `rcmt`, `rbak`, `cxsv`, `cxld` and `qnch` (R358). -/
def cmdGang (a : Word) : Nat := gangKey (wbits a 27 16) (wbits a 43 28)

/-- Whether an operand sets a reserved bit, or a MODE above a bound. -/
def cmdBad (a : Word) (mode : Nat) : Bool := wbits a 63 44 ≠ 0 || wbits a 15 2 ≠ 0 || decide (mode < wbits a 1 0)

/-- A command on a gang: system only, its operand checked (R46, R358). -/
def gangCommand (i : Instr) (p : Pfx) (a : RegNo) (mode : Nat) (s : State) (k : State → Word → State) : Out :=
  sysOnly i 3 p s fun s =>
    let v := s.x a
    if cmdBad v mode then s.takeTrap 0x01 v else k s v

/-- An answer in p7. -/
def State.answerP7 (s : State) (p : Pfx) (v : Bool) : State := (s.setPred 7 v).retire 3 p

/-- Whether an `rcmt` can be performed: every thread of the gang is saved or none has started, nothing of it is in flight, and its
engines are idle (R358). -/
def State.mayCommit (s : State) (asid lgen : Nat) : Bool :=
  !(s.threads.any fun th =>
      th.inGang asid lgen &&
      (match th.loc with
       | .ended => false
       | .saved _ => false
       | .heap t _ _ _ => !s.preemptedAt t asid lgen
       | _ => true)) &&
  !s.inFlight asid lgen && (s.gangSites asid lgen).all fun t => s.enginesIdle t asid lgen

/-- System software has made the gang resident: its quarters stay fixed from here on (R106; log 23). -/
def State.markFormed (s : State) (asid lgen : Nat) : State :=
  { s with tiles := s.tiles.map fun y => (y.1, y.2.modResid asid lgen fun r => { r with forming := false }) }

/-- `rcmt` (R358): the tiles of the gang commit, and the thread waits for the cox. -/
def execRcmt (p : Pfx) (a : RegNo) (s : State) : Out :=
  gangCommand (.rcmt p a) p a 0 s fun s v =>
    let g := cmdGang v
    let asid := g / 65536
    let lgen := g % 65536
    match s.gang? asid lgen with
    | none => s.answerP7 p false
    | some x =>
      if x.commit.isSome || !s.mayCommit asid lgen then s.answerP7 p false
      else
        let id := s.nextId
        ((s.request p fun n => .commit n s.thr.id g).markFormed asid lgen).modGang asid lgen fun x =>
          { x with commit := some { todo := s.strokeSites asid lgen, req := some id, slot := 0 } }

/-- `rbak` (R358). -/
def execRbak (p : Pfx) (a : RegNo) (s : State) : Out :=
  gangCommand (.rbak p a) p a 1 s fun s v =>
    let g := cmdGang v
    if (s.gang? (g / 65536) (g % 65536)).isNone || s.gangNrb (g / 65536) (g % 65536) then s.answerP7 p false
    else s.request p fun n => .rollback n s.thr.id g (wbits v 1 0 = 1)

end Sys2Proof.Machine
end

