-- ==== Sys2Proof/Machine/Traps.lean ====
section
/-! DEFINITION. Stopping and waiting of system software, saving, restoring and ending gangs
(spec/16_traps_preemption.md R367-R378; spec/15_resilience.md R347). -/
namespace Sys2Proof.Machine

-- halt and wfi
/-- `halt` (R370): the slot stops past the instruction, with management event 5. -/
def execHalt (p : Pfx) (s : State) : Out :=
  sysOnly (.halt p) 3 p s fun s =>
    ((s.retire 3 p).postEvent (siteModule s.tileNo) 5 (some s.thr.ltn)).parkOn .stopped

/-- Whether the steward of a core has a threshold to serve (R208, R230, R239). -/
def State.stewardDue (s : State) (t core : Nat) : Bool :=
  let x := s.tile t
  let c := x.core core
  (decide (28 ≤ x.ctxq.length) && (s.replayable t).isEmpty) || (decide (x.ctxq.length < 16) && !(s.replayable t).isEmpty) ||
  decide (64 ≤ c.deque.length) ||
  (List.range 8).any fun m =>
    decide (14 ≤ (c.box m).length) || (decide ((c.box m).length < 8) && x.mbxOvf.any fun o => o.1 = boxKey core m)

/-- Whether a wake source of a slot holds (R371). -/
def State.wakeHolds (s : State) (loc : Loc) : Bool :=
  match loc with
  | .slot t 8 1 => !(s.tile t).trapq.isEmpty
  | .slot t 8 0 => !(s.tile t).missq.isEmpty
  | .slot t c 0 => s.stewardDue t c
  | _ => false

/-- `wfi` (R371): retires at once where a source holds. -/
def execWfi (p : Pfx) (s : State) : Out :=
  sysOnly (.wfi p) 3 p s fun s =>
    if s.wakeHolds s.thr.loc then s.retire 3 p else s.parkOn (.wfi (instrBytes 3 p))

/-- WFI_WAKE (R371): a source of a waiting slot holds. -/
def execWfiWake (th : Nat) (s : State) : Out :=
  match s.thread? th with
  | none => .next s
  | some x => .next (if s.wakeHolds x.loc then s.endWait th else s)

-- saving a gang (R347, R372, R373)
/-- Whether a gang is marked pre-empted on any tile. -/
def State.isPreempted (s : State) (asid lgen : Nat) : Bool :=
  s.tiles.any fun x => (x.2.resid? asid lgen).any fun r => r.preempted

/-- Numbers of the requests that save a gang. -/
def State.preemptRequests (s : State) (g : Nat) : List Nat :=
  s.reqs.filterMap fun r => match r with | .preempt id _ k => if k = g then some id else none | _ => none

/-- `cxsv` (R372). -/
def execCxsv (p : Pfx) (a : RegNo) (s : State) : Out :=
  gangCommand (.cxsv p a) p a 0 s fun s v =>
    let g := cmdGang v
    if (s.gang? (g / 65536) (g % 65536)).isNone || s.isPreempted (g / 65536) (g % 65536) || !(s.preemptRequests g).isEmpty then
      s.answerP7 p false
    else s.request p fun n => .preempt n s.thr.id g

/-- Mark a gang pre-empted, or not, on every tile. -/
def State.markPreempted (s : State) (asid lgen : Nat) (v : Bool) : State :=
  { s with tiles := s.tiles.map fun x => (x.1, x.2.modResid asid lgen fun r => { r with preempted := v }) }

/-- Whether the wait entry of a thread's proxied operation stands at its home (R117, R118). -/
def State.proxyListed (s : State) (id : Nat) : Bool :=
  s.tiles.any fun x => x.2.waiters.any fun w => w.th = id && w.proxy.isSome

/-- Whether a thread of a pre-empted gang has come to rest (R372 step 2): drained, its tandem interval closed, no page-2 instruction (R128,
R139) and no request of its own under way, and no trap still to be taken (R367). -/
def State.atRest (s : State) (th : Thread) : Bool :=
  drained th.sb && !th.intervalOpen && !th.vec.begun &&
  (match th.park with
   | some (.proxy _ _) => s.proxyListed th.id
   | some (.trapHold _ _) => (s.heapFree th.loc.site).isNone
   | _ => true)

/-- Whether a gang has come to rest on every tile (R372 steps 1 to 3): its threads, the tick of its run, its hook pushes included (R322), and
the passes of its commands, but for rows that wait for a buffer which only a stopped handler could free. -/
def State.gangAtRest (s : State) (asid lgen : Nat) : Bool :=
  (s.threads.all fun th => !(th.inGang asid lgen && (th.loc.inSlot || th.loc.drains)) || s.atRest th) &&
  (s.tiles.all fun x => x.2.ev.tick.all fun k => !(k.asid = asid && k.lgen = lgen)) &&
  !s.tiles.any fun x => x.2.mat.rows.any fun r => x.2.mat.queue.any fun c =>
    c.seq = r.cmd && c.asid = asid && c.lgen = lgen && !(shHen c.shape && (s.freeBuffers x.1 c).isEmpty)

/-- The threads of a gang that a site saves, in the order of R373: general slots, handlers, the context queue. -/
def State.savedOrder (s : State) (t asid lgen : Nat) : List Nat :=
  let inSlot := fun (c n : Nat) =>
    (s.slotThread t c n).toList.filterMap fun th => if th.inGang asid lgen then some th.id else none
  ((List.range 8).flatMap fun c => ((List.range 14).map (· + 2)).flatMap fun n => inSlot c n) ++
  ((List.range 8).flatMap fun c => inSlot c 1) ++
  (s.tile t).ctxq.filter fun id => (s.thread? id).any fun th => th.inGang asid lgen

/-- A thread is saved: it leaves its slot or the queue; a `garr` is kept unretired for a release that is owed (R277), and an
operation that is made again counts no races from before (R117). -/
def Thread.save (t : Nat) (th : Thread) : Thread :=
  { th with loc := .saved t, races := 0, after := none, mrec := none, park := match th.park with | some (.garr k op v d len) => some (.garr k op v d len) | _ => none }

/-- Save the threads, task records and messages of a gang on a site, and release the reservations of its `mmq` (R303, R372) and the run slot (R322). -/
def State.saveTile (asid lgen : Nat) (area : Bool) (s : State) (t : Nat) : State :=
  let ids := s.savedOrder t asid lgen
  let s := (if area then s.writeArea t asid lgen ids else s).modTile t (Tile.setAside asid lgen)
  let groups := (s.tile t).mat.queue.filter fun c => c.asid = asid && c.lgen = lgen && !c.accepted && c.part = 0
  let s := groups.foldl (fun s c =>
    [1, 2, 3].foldl (fun s k =>
      if assocGet k 0 c.answers = 0 then s.send t c.ltn (shPartner c.shape k) asid lgen (.shareCancel c.seq k) else s) (s.dropCmd t c.seq)) s
  let s := ids.foldl (fun s id => s.modThread id (Thread.save t)) s
  let moved := ids.filterMap s.thread?
  let s : State :=
    { s with thr := if ids.contains s.thr.id then .idle else s.thr,
             others := s.others.filter (fun th => !ids.contains th.id) ++ moved }
  let s := s.modTile t fun x =>
    { x with
      ctxq := x.ctxq.filter (fun id => !ids.contains id),
      ev := { x.ev with cur := if x.ev.runs.any (fun r => x.ev.cur = some r.id && r.asid = asid && r.lgen = lgen) then none else x.ev.cur },
      cores := x.cores.map fun c =>
        (c.1, { c.2 with vecq := c.2.vecq.filter (fun id => !ids.contains id), recvq := c.2.recvq.filter fun id => !ids.contains id }) }
  s.mapThreads fun th =>
    match th.loc with
    | .heap u i false false => if u = t && th.inGang asid lgen then { th with loc := .heap u i true false } else th
    | _ => th

/-- The threads of a gang leave every wait list and the bell (R117). -/
def State.leaveLists (s : State) (asid lgen : Nat) : State :=
  let s := s.dropAnns (s.threads.filter fun th => th.inGang asid lgen && th.loc.inSlot)
  { s with tiles := s.tiles.map fun x => (x.1, { x.2 with waiters := x.2.waiters.filter fun w => !(w.asid = asid && w.lgen = lgen) }) }

/-- The gang is saved (R372, R347): `cxsv` is answered, and a fatal cause goes to system software at its tile. -/
def State.saveGang (s : State) (asid lgen : Nat) (x : Gang) : State :=
  let g := gangKey asid lgen
  let reqs := s.preemptRequests g
  let sites := s.gangSites asid lgen
  let s := sites.foldl (State.saveTile asid lgen (!reqs.isEmpty)) (s.leaveLists asid lgen)
  let slots := s.gangSlots asid lgen
  let s := s.modGang asid lgen fun y =>
    { y with order := none, slots := slots, saved := sites.map fun t => (t, match (s.tile t).resid? asid lgen with | some r => r.quarters | none => []) }
  let s := match x.order with
    | some (.fatal t cause eval) => s.report t cause asid lgen eval
    | _ => s
  reqs.foldl (fun s id => s.finishRequest id (some true)) s

/-- Whether a gang is to be saved: `cxsv`, or a fatal event (R347). -/
def State.preemptDue (s : State) (g : Nat) (x : Gang) : Bool :=
  match x.order with
  | some (.fatal _ _ _) => true
  | some .rollback => false
  | none => !(s.preemptRequests g).isEmpty

/-- GANG_PREEMPT (R372, R347): once a commit phase or rollback under way is over, the gang is marked, comes to rest, and is saved. -/
def execGangPreempt (g : Nat) (s : State) : Out :=
  let asid := g / 65536
  let lgen := g % 65536
  match s.gang? asid lgen with
  | none => .next s
  | some x =>
    .next (if !s.preemptDue g x || x.commit.isSome || x.stopped then s
           else
             let s := s.markPreempted asid lgen true
             if s.gangAtRest asid lgen then s.saveGang asid lgen x else s)

-- restoring a gang (R374)
/-- Whether a pre-empted gang can be restored: saved, with a residency entry, CXBASE and the same quarters on every tile. -/
def State.mayRestore (s : State) (asid lgen : Nat) (x : Gang) : Bool :=
  s.isPreempted asid lgen && (s.preemptRequests (gangKey asid lgen)).isEmpty && x.order.isNone && !x.stopped &&
  (((x.tiles.filter fun n => !x.excused.contains n).map s.siteOf) ++ x.saved.map (·.1)).all (fun t =>
    match (s.tile t).resid? asid lgen with
    | some r => r.cxbase.isSome && (match x.saved.find? fun e => e.1 = t with | some e => e.2 = r.quarters | none => true)
    | none => false)

/-- A release owed to a saved gang on a site is delivered (R277, R374). -/
def State.deliverOwed (t : Nat) (s : State) (r : Release) : State :=
  let asid := r.g / 65536
  let lgen := r.g % 65536
  let s := ({ s with releases := s.releases.erase r } : State).bump t 76
  let s := s.modTile t fun x => x.modResid asid lgen fun e => e.countRound r.level
  ((s.savedAt t asid lgen).filter fun id =>
    r.ths.contains id && (s.thread? id).any fun th => match th.garr with | some (k, _, _) => s.effLevel asid lgen k = r.level | none => false).foldl
    (State.finishGarr r.value) s

/-- A saved thread returns to the context queue, or to the heap behind those that have returned. -/
def State.requeue (t : Nat) (s : State) (id : Nat) : State :=
  let s := s.modThread id fun th => { th with since := 0 }
  if (s.replayable t).isEmpty && (s.tile t).ctxq.length < 32 then s.toQueue t id
  else
    match s.toHeap t id false false with
    | some s => s
    | none => s.toQueue t id

/-- Restore a gang on a site (R374): contexts in saved order, held ones behind them, then task records and messages. -/
def State.restoreTile (asid lgen : Nat) (s : State) (t : Nat) : State :=
  let g := gangKey asid lgen
  let saved := s.savedAt t asid lgen
  let s := (s.releases.filter fun r => r.t = t && r.g = g).foldl (State.deliverOwed t) s
  let s := saved.foldl (State.requeue t) s
  let held := (s.tile t).heapq.filter fun id =>
    (s.thread? id).any fun th => th.inGang asid lgen && (match th.loc with | .heap _ _ true false => true | _ => false)
  let s := s.mapThreads fun th =>
    match th.loc with
    | .heap u i true false => if u = t && th.inGang asid lgen then { th with loc := .heap u i false false } else th
    | _ => th
  (s.modTile t fun x => { x with heapq := x.heapq.filter (fun id => !held.contains id) ++ held }).returnAside asid lgen t

/-- The gong state of a gang as it was saved, its rounds due two fresh sweeps, except in a slot that has another gang's record by now
(R277, R374). -/
def State.restoreSlots (s : State) (asid lgen : Nat) (slots : List (Nat × GongSlot)) : State :=
  slots.foldl (fun s k =>
    let w := s.segment (k.1 / 64) (k.1 % 64)
    if segV w && !(segAsid w = asid && segGen w = lgen) then s
    else s.modGong k.1 fun _ => { k.2 with prevArr := false, prevMix := false, sweep := [] }) s

/-- `cxld` (R374): the gong needs two fresh sweeps, and the stroke goes on or opens. -/
def execCxld (p : Pfx) (a : RegNo) (s : State) : Out :=
  gangCommand (.cxld p a) p a 0 s fun s v =>
    let g := cmdGang v
    let asid := g / 65536
    let lgen := g % 65536
    match s.gang? asid lgen with
    | none => s.answerP7 p false
    | some x =>
      if !s.mayRestore asid lgen x then s.answerP7 p false
      else
        let s := (s.gangSites asid lgen).foldl (State.restoreTile asid lgen) s
        let s := s.restoreSlots asid lgen (x.slots ++ (s.gangSlots asid lgen).filter fun k => !x.slots.any fun o => o.1 = k.1)
        let s := ((s.markFormed asid lgen).markPreempted asid lgen false).modGang asid lgen fun y =>
          { y with saved := [], slots := [], strokeOpen := y.strokeOpen || !y.tiles.isEmpty }
        s.answerP7 p true

-- ending a gang (R375, R376)
/-- Numbers of the requests that end a gang. -/
def State.quenchRequests (s : State) (g : Nat) : List Nat :=
  s.reqs.filterMap fun r => match r with | .quench id _ k => if k = g then some id else none | _ => none

/-- `qnch` (R375). -/
def execQnch (p : Pfx) (a : RegNo) (s : State) : Out :=
  gangCommand (.qnch p a) p a 0 s fun s v =>
    let g := cmdGang v
    if (s.gang? (g / 65536) (g % 65536)).isNone then s.answerP7 p false else s.request p fun n => .quench n s.thr.id g

/-- Discard what a site keeps of a gang for rollback, undo records, round bits, snapshots (R375 step 2), and its engine context (R310); its
lines are written back in their own time. -/
def Tile.discardStroke (asid lgen : Nat) (x : Tile) : Tile :=
  let g := gangKey asid lgen
  { x with
    undo := x.undo.filter (fun u => !(u.asid = asid && u.lgen = lgen)),
    snaps := x.snaps.filter (fun b => !x.owns (quarterOf b.base) asid lgen),
    snapping := x.snapping.filter (fun k => !x.owns (quarterOf (k * 1024)) asid lgen),
    slice := x.slice.map fun z => { z with lines := z.lines.map fun l => if l.round = some g then { l with round := none } else l },
    commits := x.commits.filter (fun c => !(c.asid = asid && c.lgen = lgen)),
    ev := { x.ev with ctxs := x.ev.ctxs.filter fun c => !(c.asid = asid && c.lgen = lgen) } }

/-- Discard everything of a gang (R375 step 2); an `rcmt` of it that had not reached its commit point is answered false. -/
def State.discardGang (s : State) (asid lgen : Nat) : State :=
  let g := gangKey asid lgen
  let rcmt := match s.gang? asid lgen with
    | some { commit := some { req := some id, .. }, .. } => some id
    | _ => none
  let s := ((s.abandonCommit asid lgen).discardThreads asid lgen).abandonRounds asid lgen
  let s : State := { s with tiles := s.tiles.map fun y => (y.1, (y.2.discardWork asid lgen).discardStroke asid lgen) }
  let mine := fun (w : Word) => segV w && segAsid w = asid && segGen w = lgen
  let s : State :=
    { s with gong := s.gong.map fun k => if mine k.2.record then (k.1, { k.2 with record := k.2.record &&& 0x7FFFFFFFFFFFFFFF }) else k,
             steals := s.steals.filter fun m => gangKey m.asid m.lgen ≠ g }
  let s := s.modGang asid lgen fun y => { y with egress := [], strokeOpen := false }
  match rcmt with
  | some id => s.finishRequest id (some false)
  | none => s

/-- Mark a gang's residency entries quenching. -/
def State.markQuenching (s : State) (asid lgen : Nat) : State :=
  { s with tiles := s.tiles.map fun x => (x.1, x.2.modResid asid lgen fun r => { r with quenching := true }) }

/-- GANG_QUENCH (R375): once a rollback or `cxsv` under way is over, everything of the gang is discarded; when none of its packets is left
and no engine holds work of it, the gang is gone and `qnch` is answered. -/
def execGangQuench (g : Nat) (s : State) : Out :=
  let asid := g / 65536
  let lgen := g % 65536
  match s.gang? asid lgen with
  | none => .next ((s.quenchRequests g).foldl (fun s id => s.finishRequest id (some false)) s)
  | some x =>
    let busy := x.order.isSome || x.stopped || s.rollbackDue g x || !(s.preemptRequests g).isEmpty
    .next (if (s.quenchRequests g).isEmpty || busy then s
           else
             let s := (s.markQuenching asid lgen).discardGang asid lgen
             let idle := (s.gangSites asid lgen).all fun t => s.enginesIdle t asid lgen
             if s.inFlight asid lgen || !idle then s
             else
               let s : State := { s with gangs := s.gangs.filter fun y => !(y.asid = asid && y.lgen = lgen) }
               (s.quenchRequests g).foldl (fun s id => s.finishRequest id (some true)) s)

end Sys2Proof.Machine
end

