-- ==== Sys2Proof/Machine/Loss.lean ====
section
/-! DEFINITION. Losing zones, tiles, modules and links, and reshelving (spec/15_resilience.md R348-R351; spec/07_home_memory.md R162;
spec/09_contexts_fabric.md R221; spec/17_host_peers_boot.md R389). -/
namespace Sys2Proof.Machine

-- rebinding (R210, R348, R351)
/-- Change a binding of a zone; EPOCH advances (R210). -/
def State.rebind (s : State) (name : Ltn) (b : Binding) : State :=
  s.modZone (ltnField name) fun z => { z with binds := assocSet (ltnIndex name) b z.binds, epoch := z.epoch + 1 }

/-- Retire an index: its name is unbound, and the live count falls when the zone has reshelved (R162, R348). -/
def State.retireName (s : State) (name : Ltn) : State :=
  let b := s.binding name
  (s.rebind name { b with v := false }).modZone (ltnField name) fun z =>
    { z with retiring := Keys.put z.retiring (ltnIndex name), reshelving := true }

/-- The names of a module bound to a site. -/
def State.namesAt (s : State) (t : Nat) : List Ltn :=
  let m := siteModule t
  let own := (List.range 160).map fun i => ltnOf 0 (siteZone t) i
  let other := (s.zones.filter fun z => z.1 / 128 = m && z.1 ≠ siteZone t).flatMap fun z => z.2.binds.map fun b => ltnOf 0 z.1 b.1
  (own ++ other).filter fun n => (s.binding n).v && s.siteOf n = t

/-- Spare sites of a field in the order in which an index of a quadrant takes them (R351). -/
def spareOrder (zone quad : Nat) : List Nat :=
  (List.range 4).flatMap fun k => [40, 41].map fun i => zone * 256 + (quad + k) % 4 * 64 + i

/-- The first unused, live spare for an index whose site was in a quadrant. -/
def State.spareFor (s : State) (zone quad : Nat) : Option Nat :=
  (spareOrder zone quad).find? fun t => (s.namesAt t).isEmpty && !(s.module (zone / 128)).dead.contains t

/-- Binding of a site. -/
def siteBinding (t : Nat) : Binding := { v := true, field := t / 256 % 128, quad := t % 256 / 64, site := t % 64 }

/-- Give an index whose site is dead its spare, or retire it (R351). -/
def State.takeSpare (s : State) (name : Ltn) : State :=
  let b := s.binding name
  match s.spareFor (siteZone (s.siteOf name)) b.quad with
  | some t => s.rebind name (siteBinding t)
  | none => s.retireName name

-- what is mapped (R159, R162, R348)
/-- Whether a gang has tiles in a zone or maps a STRIPED page of its group: as a TLB shows it, or as only system software's tables do. -/
def State.usesGroup (s : State) (zone : Nat) (g : Gang) : Bool :=
  g.tiles.any (fun n => ltnField n = zone) ||
  (s.tiles.any fun x => x.2.tlb.any fun e =>
    keyAsid e.1 = g.asid && descType e.2 = 2 && wbits e.2 50 47 * 128 + wbits e.2 46 40 = zone) ||
  (decide (0 < (s.zone zone).stripeP) && Config.groupMapped g.asid zone s.time)

/-- Whether a gang has a page that maps a frame of a logical tile. -/
def State.gangMaps (s : State) (g : Gang) (name : Ltn) (frame : Nat) : Bool :=
  (s.tiles.any fun x => x.2.tlb.any (mapsFrame g.asid name frame)) || Config.pageMapped g.asid name frame s.time

/-- Stripe pages of a zone that have a shelf record on some live tile. -/
def State.stripePages (s : State) (zone : Nat) : List Nat :=
  let z := s.zone zone
  let sites := z.liveIndices.map fun i => s.siteOf (ltnOf 0 zone i)
  (List.range z.stripeP).filter fun p => sites.any fun t => s.nat (vaultKey t (z.stripeA * 16384 + p * 512)) 16 ≠ 0

-- what a loss touches (R348)
/-- Whether a packet stands on one of some sites, or at a router of a field that is lost as a whole. -/
def Pos.within (lost : Nat → Bool) : Pos → Bool
  | .source t => lost t
  | .relayed t => lost t
  | .arrived t => lost t
  | .aside t => lost t
  | .router field _ _ => lost (field * 256) && lost (field * 256 + 255)
  | .discarded => false

/-- Whether a gang has state on some sites or under some names: a residency entry, a logical tile, a homed page, a packet. -/
def State.hasStateIn (s : State) (g : Gang) (lost : Nat → Bool) (lostNames : List Ltn) : Bool :=
  let names := fun (n : Ltn) => lostNames.contains n
  (s.tiles.any fun x => lost x.1 && (x.2.resid? g.asid g.lgen).isSome) || g.tiles.any names ||
  (s.tiles.any fun x => x.2.tlb.any fun e =>
    keyAsid e.1 = g.asid &&
    ((descType e.2 = 1 && !descRpl e.2 && names (wbits e.2 50 32)) ||
     (descType e.2 = 2 && (List.range 160).any fun i => names (ltnOf (wbits e.2 50 47) (wbits e.2 46 40) i)))) ||
  (s.packets.any fun p => p.asid = g.asid && p.lgen = g.lgen && (names p.src || names p.dst || p.pos.within lost)) ||
  lostNames.any fun n => (List.range 7168).any fun f => Config.pageMapped g.asid n f s.time

/-- Items that the shadow of a site holds for a gang. -/
def State.shadowItems (s : State) (t : Nat) (name : Ltn) (asid lgen : Nat) : Option Commit :=
  ((s.shadowSite t name).bind fun w => (s.tile w).shadowOf t).bind fun h => h.items.find? fun c => c.live && c.asid = asid && c.lgen = lgen

/-- Whether a gang can be restored after a loss (R343, R348 step 4): mirrored completely in its items and blocks, rollback not lost, and every
logical tile lost with a new site and its items in the shadow. -/
def State.restorable (s : State) (g : Gang) (moves : List (Ltn × Nat × Option Nat)) : Bool :=
  g.mir && !g.bareMir && !s.gangNrb g.asid g.lgen &&
  moves.all fun (name, t, new) =>
    !((s.tile t).resid.any fun r => r.asid = g.asid && r.lgen = g.lgen && r.ltn = name) ||
    (new.isSome && (s.shadowItems t name g.asid g.lgen).isSome)

/-- A block of zeros with every sector poisoned (R348). -/
def Block.lost (pa n : Nat) : Block := { Block.zeros pa n with psn := List.replicate (n / 32) true }

-- shelves (R161)
/-- Number of lines of stripe page p in sub-block k homed under home index j. -/
def shelfLines (z : Zone) (j p k : Nat) : Nat := ((List.range 128).filter fun i => homeIndex z.live (p * 16384 + k * 128 + i) = j).length

/-- COUNT of a shelf record. -/
def shelfCount (z : Zone) (j p : Nat) : Nat := ((List.range 128).map (shelfLines z j p)).sum

/-- The shelf record of stripe page p for home index j, with its shelf at an address (R161). -/
def shelfRecord (z : Zone) (j p shelf : Nat) : List Byte :=
  let counts := (List.range 128).map (shelfLines z j p)
  bytesOf 8 shelf ++ bytesOf 2 counts.sum ++ bytesOf 6 0 ++ ((List.range 128).flatMap fun k => bytesOf 2 (counts.take k).sum) ++ List.replicate 240 0

/-- The shelf of a stripe page on a site as its record gives it: address and length in bytes. -/
def State.shelfOf (s : State) (zone t p : Nat) : Nat × Nat :=
  let rec0 := vaultKey t ((s.zone zone).stripeA * 16384 + p * 512)
  (s.nat rec0 8, s.nat (rec0 + 8) 2 * 128)

/-- The shelf records of a lost logical tile, which service firmware builds again on its new site for shelves in the same frames (R161, R348,
R407; log 22). -/
def State.rebuiltRecords (s : State) (name : Ltn) (t u : Nat) : List Block :=
  let zone := ltnField name
  let z := s.zone zone
  match z.liveIndices.idxOf? (ltnIndex name) with
  | none => []
  | some j => (s.stripePages zone).map fun p =>
      { Block.zeros (vaultKey u (z.stripeA * 16384 + p * 512)) 512 with data := shelfRecord z j p (s.shelfOf zone t p).1 }

/-- What the new site of a lost logical tile receives in its frames (R348 step 3): mirrored frames from their shadows, stale lines and
other mapped frames as zero and poisoned, and shelf records. -/
def State.restoredFrames (s : State) (name : Ltn) (t u : Nat) : List Block :=
  let stale := match (s.shadowSite t name).bind fun w => (s.tile w).shadowOf t with | some h => h.stale | none => []
  ((List.range 7168).flatMap fun f =>
    if s.shadowMap t f / 2 ^ 31 % 2 = 1 then
      (List.range 128).map fun i =>
        let v := f * 16384 + i * 128
        match s.shadowKey t v with
        | some k => if stale.contains v then Block.lost (vaultKey u v) 128 else { s.block k 128 with base := vaultKey u v }
        | none => Block.lost (vaultKey u v) 128
    else if s.gangs.any (fun g => s.gangMaps g name f) then [Block.lost (vaultKey u (f * 16384)) 16384]
    else []) ++ s.rebuiltRecords name t u

/-- The state with another's memory. -/
def State.withMemory (s m : State) : State := { s with mem := m.mem, tags := m.tags, full := m.full, psn := m.psn, psnBits := m.psnBits }

/-- What a new site keeps for the gangs of a lost logical tile until they are resident there: items, and the scratchpad blocks that each block
map names (R340, R348). -/
def State.recovered (s : State) (gs : List Gang) (name : Ltn) (t : Nat) : List (Commit × List Block) :=
  match (s.shadowSite t name).bind fun w => (s.tile w).shadowOf t with
  | none => []
  | some h =>
    (h.items.filter fun c => c.live && c.ltn = name && gs.any fun g => g.asid = c.asid && g.lgen = c.lgen).map fun c =>
      (c, (h.blocks.filter fun b => c.bmap.contains (b.2.base, b.1) && c.quarters.contains (quarterOf b.2.base)).map (·.2))

/-- Everything that stood on lost sites, or travelled to or from lost names, is gone (R345, R348). -/
def State.removeSites (s : State) (lost : Nat → Bool) (names : Ltn → Bool) : State :=
  let stays := fun (th : Thread) => !((th.loc.inSlot || th.loc.onTile || (match th.loc with | .saved _ => true | _ => false)) && lost th.loc.site)
  let drop := fun (l : List Nat) => l.filter fun t => !lost t
  let req := fun (r : Req) =>
    match r with
    | .tlbi id th k todo ws => .tlbi id th k (drop todo) (ws.filter fun w => !lost w.1)
    | .namei id th k todo ws => .namei id th k (drop todo) (ws.filter fun w => !lost w.1)
    | r => r
  let outside := fun (u k : Nat) => !lost (k * u / tileSpan)
  let s := s.losePackets fun p => names p.src || names p.dst || p.pos.within lost
  { s with
    thr := if stays s.thr then s.thr else .idle, others := s.others.filter stays,
    mem := s.mem.filter (fun c => outside 1 c.1), tags := s.tags.filter (outside 16), full := s.full.filter (outside 8),
    psn := s.psn.filter (outside 32), psnBits := s.psnBits.filter (fun b => !lost (b / 32)),
    tiles := (s.tiles.filter fun x => !lost x.1).map fun x => (x.1, { x.2 with ncache := x.2.ncache.filter fun e => !names e.1 }),
    steals := s.steals.filter (fun m => !(names m.thief || names m.victim)), reqs := s.reqs.map req,
    anns := s.anns.filter (fun a => !lost (keySite a.pa)), releases := s.releases.filter fun r => !lost r.t }

/-- Every gang that has tiles in a zone or maps a page of its stripe group returns to its last commit before the group is reshelved
(R162 step 1). -/
def State.stopGroup (s : State) (zone : Nat) : State :=
  if !(s.zone zone).reshelving then s
  else { s with gangs := s.gangs.map fun g => if s.usesGroup zone g && g.order.isNone then { g with order := some .rollback } else g }

/-- Lines of the stripe group homed on a tile that is about to be retired, as its shadow holds them (R162 step 3). -/
def State.salvageLines (s : State) (name : Ltn) (t : Nat) : List (Nat × Block) :=
  let zone := ltnField name
  let z := s.zone zone
  let stale := match (s.shadowSite t name).bind fun w => (s.tile w).shadowOf t with | some h => h.stale | none => []
  (s.stripePages zone).flatMap fun p =>
    (((List.range 16384).map fun l => p * 16384 + l).filter fun x => z.liveIndices.getD (homeIndex z.live x) 0 = ltnIndex name).filterMap fun x =>
      let v := s.shelfLine zone t x
      if stale.contains v then none else (s.shadowKey t v).map fun k => (x, s.block k 128)

/-- Order a gang rolled back or ended after a loss (R347, R348). -/
def State.orderLoss (ok : Bool) (t : Nat) (eval : Word) (s : State) (g : Gang) : State :=
  s.modGang g.asid g.lgen fun x =>
    { x with order := if !ok then some (.fatal t 0x16 eval)
                      else match x.order with | some o => some o | none => some .rollback }

-- service threads (R14, R360, R390)
/-- A thread of system software, service firmware or a steward that starts when cores leave reset (R360, R390; log 21); its code capability's
reserved bits are zero (R77). -/
def State.startService (s : State) (t core n : Nat) (name : Ltn) (kind : Kind) (code priv : Nat) : State :=
  let (id, s) := s.fresh
  let th : Thread :=
    { Thread.idle with
      pcc := capValue true (Config.serviceCode code), stat := BitVec.ofNat 9 (priv * 64), id := id, kind := kind, asid := noGang,
      loc := .slot t core n, ltn := name }
  { s with others := s.others ++ [th] }

/-- The cores of a site that has just been bound leave reset (R14, R360, R390): system software in slot 1 of the service core, service firmware
in its slot 0, and a steward in slot 0 of each compute core; a site that has its service threads keeps them. -/
def State.staff (s : State) (t : Nat) (name : Ltn) : State :=
  if s.threads.any fun th => th.loc = .slot t 8 0 then s
  else
    let s := s.startService t 8 1 name .system 0 1
    let s := s.startService t 8 0 name .firmware 1 2
    (List.range 8).foldl (fun s c => s.startService t c 0 name .steward 2 2) s

/-- A loss of sites (R348 steps 3 to 5): `moves` names each lost logical tile, its site and its new site, if it has one; `rebound` makes
the new bindings. -/
def State.lose (s : State) (lost : Nat → Bool) (moves : List (Ltn × Nat × Option Nat)) (eval : Word) (rebound : State → State) : State :=
  let names := fun (n : Ltn) => moves.any fun m => m.1 = n
  let hit := s.gangs.filter fun g => s.hasStateIn g lost (moves.map (·.1))
  let s := hit.foldl (fun s g => s.abandonCommit g.asid g.lgen) s
  let verdicts := hit.map fun g => (g, s.restorable g moves)
  let ok := (verdicts.filter (·.2)).map (·.1)
  let old := s
  let items := moves.filterMap fun (n, t, new) => new.map fun u => (u, s.recovered ok n t)
  let new := (moves.filterMap fun m => m.2.2).eraseDups
  let at' := (new.head?).getD 0
  let s := rebound (s.removeSites lost names)
  let s := s.withMemory (moves.foldl (fun s m => match m.2.2 with | some u => (old.restoredFrames m.1 m.2.1 u).foldl State.restore s | none => s) s)
  let s := moves.foldl (fun s m => match m.2.2 with | some u => s.staff u m.1 | none => s) s
  let s := items.foldl (fun s e => s.modTile e.1 fun x => { x with recover := x.recover ++ e.2 }) s
  let s := verdicts.foldl (fun s v => s.orderLoss v.2 at' eval v.1) s
  new.foldl (fun s u => s.report u 0x16 0 0 eval) s

/-- The zones whose buddy was a lost zone have lost their mirror until their next commit (R350). -/
def State.mirrorLost (s : State) (zone : Nat) : State :=
  { s with
    gangs := s.gangs.map fun g =>
      if g.mir && g.tiles.any (fun n => ltnField n ≠ zone && s.buddy (ltnField n) = some zone) then { g with partialMir := true, bareMir := true } else g }

/-- A zone is lost (R348, R350): links clamped, names rebound to the buddy zone or retired, state restored there, gangs rolled back or
ended, 0x16 reported. -/
def State.loseZone (s : State) (zone : Nat) : State :=
  if (s.zone zone).lost then s
  else
    let s := (s.mirrorLost zone).modZone zone fun z => { z with clamped := true }
    let own := ((List.range 160).map fun i => ltnOf 0 zone i).filter fun n => (s.binding n).v && siteZone (s.siteOf n) = zone
    let guests := (s.zones.filter fun z => z.1 / 128 = zone / 128 && z.1 ≠ zone).flatMap fun z =>
      (z.2.binds.filter fun b => b.2.v && z.1 / 128 * 128 + b.2.field = zone).map fun b => ltnOf 0 z.1 b.1
    let newSite := fun (n : Ltn) => ((s.buddy zone).bind fun b => s.siteAt b (ltnIndex n)).filter fun u => siteZone u ≠ zone
    let moves := (own.map fun n => (n, s.siteOf n, newSite n)) ++ guests.map fun n => (n, s.siteOf n, none)
    let eval : Word := BitVec.ofNat 64 (2 ^ 63 + zone * 256)
    let s := s.lose (fun t => siteZone t = zone) moves eval fun s =>
      let s := s.modZone zone fun z => { z with lost := true }
      let s := moves.foldl (fun s m => match m.2.2 with | some u => s.rebind m.1 (siteBinding u) | none => s.retireName m.1) s
      (moves.map fun m => ltnField m.1).eraseDups.foldl State.stopGroup s
    State.postEvent { s with gong := s.gong.filter fun k => k.1 / 64 ≠ zone } (zone / 128) 1 (some (zone * 256))

/-- ZONE_LOST (R348, R350). -/
def execZoneLost (z : Nat) (s : State) : Out := .next (s.loseZone z)

/-- TILE_LOST (R348, R351): the site is dead; its names go to spares, or are retired; a name hosted for a lost zone has no shadow and is
retired. -/
def execTileLost (t : Nat) (s : State) : Out :=
  let zone := siteZone t
  .next (if (s.module (siteModule t)).dead.contains t then s
         else
           let s := s.modModule (siteModule t) fun m => { m with dead := m.dead ++ [t] }
           let names := s.namesAt t
           let spare := s.spareFor zone (t % 256 / 64)
           let moves := names.map fun n => (n, t, if ltnField n = zone then spare else none)
           let eval : Word := BitVec.ofNat 64 (names.headD 0)
           let saved := (moves.filter fun m => m.2.2.isNone && ltnField m.1 = zone).flatMap fun m => s.salvageLines m.1 t
           s.lose (fun u => u = t) moves eval fun s =>
             let s := moves.foldl (fun s m => match m.2.2 with | some u => s.rebind m.1 (siteBinding u) | none => s.retireName m.1) s
             let s := s.modZone zone fun z => { z with salvage := z.salvage ++ saved }
             (moves.map fun m => ltnField m.1).foldl State.stopGroup s)

/-- MODULE_UNREACHABLE (R389): the PEER entry becomes invalid, and every gang that spans both modules is ended with 0x16, reported at the
port tile; management event 9. -/
def execModuleUnreachable (m peer : Nat) (s : State) : Out :=
  let w := assocGet peer 0 (s.module m).peers
  .next (if !w.getLsbD 19 then s
         else
           let t := s.siteOf (wbits w 18 0)
           let s := s.modModule m fun x => { x with peers := assocSet peer (w &&& 0x7FFFF) x.peers }
           let hit := s.gangs.filter fun g =>
             g.mlo ≤ m && m ≤ g.mhi && g.mlo ≤ peer && peer ≤ g.mhi && g.spans
           let eval := Config.unreachableEval m peer
           let s := hit.foldl (fun s g => State.orderLoss false t eval (s.abandonCommit g.asid g.lgen) g) s
           s.postEvent m 9 none)

-- links (R221)
/-- A link that has too few lanes left fails: every gang with unacknowledged packets that crossed it rolls back, and what comes to it waits until
its port is marked retired (R221). -/
def State.failLink (s : State) (key : Nat) : State :=
  let gs := ((s.link key).crossed.filter fun e => !s.settled e.1).map (·.2)
  (s.modLink key fun l => { l with failed := true, retraining := false, crossed := [] }).rollbackFor gs

/-- The cox marks the port of a failed link retired, its tables written (R216) and switched (R225) before (R221); management event 3. -/
def State.retirePort (s : State) (key : Nat) : State :=
  if (s.link key).failed && !(s.link key).retired then
    (s.modLink key fun l => { l with retired := true }).postEvent (key / 640 / 128) 3 none
  else s

/-- Whether the configuration image has a link at a stitch port, and the lane is one of its 64 data and 4 spare lanes (R11). -/
def State.hasLane (s : State) (link lane : Nat) : Bool := (s.stitchEnd (link / 640) link).isSome && decide (lane < 68)

/-- An error on a lane, counted (R221). -/
def State.laneError (s : State) (link lane : Nat) : State :=
  if s.hasLane link lane then s.modLink link fun l => { l with errs := assocSet lane (assocGet lane 0 l.errs + 1) l.errs } else s

/-- LANE_LOST (R221): a lane whose error count has passed the threshold is lost; 0 to 36 lost lanes are met by a retrain, 37 fail the link;
every loss posts management event 2. -/
def execLaneLost (link lane : Nat) (s : State) : Out :=
  let l := s.link link
  let m := link / 640 / 128
  .next (if !s.hasLane link lane || l.failed || l.lost.contains lane || assocGet lane 0 l.errs ≤ (s.module m).threshold then s
         else
           let lost := l.lost ++ [lane]
           let s := (s.modLink link fun l => { l with lost := lost, retraining := true }).postEvent m 2 none
           if 37 ≤ lost.length then s.failLink link else s)

/-- LINK_RETRAIN_DONE (R221): up to 4 lanes are steered around; beyond, the link runs on half its width. -/
def execLinkRetrainDone (link : Nat) (s : State) : Out :=
  .next (if (s.link link).retraining then
           s.modLink link fun l =>
             if l.lost.length ≤ 4 then { l with retraining := false, steered := l.lost.length }
             else { l with retraining := false, half := true }
         else s)

/-- Change the k-th Roshus port of a module. -/
def State.modRoshus (s : State) (m k : Nat) (f : Roshus → Roshus) : State :=
  s.modModule m fun x => { x with roshus := listUpd x.roshus k f }

/-- A Roshus Link fails and is retired at both ends (R221, R389): every gang with unacknowledged packets across it rolls back; management
event 3. -/
def State.peerLinkLost (s : State) (m k : Nat) : State :=
  match (s.module m).roshus[k]? with
  | none => s
  | some r =>
    if r.retired then s
    else
      let far := s.farPort m k
      let gs := ((r.crossed ++ match far with | some (n, j) => (((s.module n).roshus[j]?).map (·.crossed)).getD [] | none => []).filter fun e =>
        !s.settled e.1).map (·.2)
      let retire := fun (r : Roshus) => { r with retired := true, crossed := [] }
      let s := s.modRoshus m k retire
      let s := match far with | some (n, j) => s.modRoshus n j retire | none => s
      (s.rollbackFor gs).postEvent m 3 none

-- changes of a binding whose old site is alive (R212)
/-- Step 1: the forward record at the old site. -/
def State.setForward (s : State) (name : Ltn) (site : Nat) : State :=
  if (s.binding name).v && siteModule site = ltnModule name && (s.namesAt site).isEmpty && !(s.module (siteModule site)).dead.contains site then
    s.modTile (s.siteOf name) fun x => { x with fwd := assocSet name site x.fwd }
  else s

/-- Steps 2 and 3: the binding entry and the zone's EPOCH, the new site's cores leaving reset (R14), and the cox's own `namei` of the name
at REACH 3 (R224), which no thread waits for. -/
def State.bindName (s : State) (name : Ltn) : State :=
  match (s.tile (s.siteOf name)).fwd.find? fun e => e.1 = name with
  | some (_, site) =>
    let (id, s) := ((s.rebind name (siteBinding site)).staff site name).fresh
    { s with reqs := s.reqs ++ [.namei id 0 (BitVec.ofNat 64 (3 * 2 ^ 60 + name)) (s.reach site 3) []] }
  | none => s

/-- Step 4: the forward record is cleared, once the name is bound to the site it gives and no `namei` of the name is under way. -/
def State.endForward (s : State) (name : Ltn) : State :=
  let open' := s.reqs.any fun r => match r with | .namei _ _ k _ _ => nameiHits k name | _ => false
  if open' then s
  else
    { s with tiles := s.tiles.map fun x =>
        (x.1, { x.2 with fwd := x.2.fwd.filter fun e => !(e.1 = name && x.1 ≠ s.siteOf name && e.2 = s.siteOf name) }) }

-- room for shelves (R161)
/-- Whether a frame of a site is in use: mapped by a page, part of the event queue, of a context area or of the stripe area that the record `z`
of its zone gives, or used by system software for something else. -/
def State.frameBusy (s : State) (z : Zone) (t f : Nat) : Bool :=
  let x := s.tile t
  (s.namesAt t).any (fun n => s.gangs.any fun g => s.gangMaps g n f) ||
  (x.ev.qb.getLsbD 63 && decide (wbits x.ev.qb 12 0 ≤ f) && decide (f < wbits x.ev.qb 12 0 + 256)) ||
  (x.resid.any fun r => match r.cxbase with | some b => decide (b ≤ f) && decide (f < b + 8) | none => false) ||
  (decide (z.stripeA ≤ f) && decide (f * 16384 < z.stripeA * 16384 + z.stripeP * 512)) || Config.frameUsed t f s.time

/-- Whether a shelf may stand at an address (R161): a multiple of 128, in allocatable frames below the recovery reserve, in no frame that is in
use, and clear of other shelves. -/
def State.shelfFits (s : State) (z : Zone) (t : Nat) (taken : List (Nat × Nat)) (a n : Nat) : Bool :=
  decide (a + n ≤ recoveryFirst (s.module (siteModule t)).mirror * 16384) && (unitsOf 16384 a n).all (fun f => !s.frameBusy z t f) &&
  !taken.any fun x => rangesMeet a n x.1 x.2

/-- The place that service firmware chooses on a site for a shelf: the first that fits from an address of its choice on (R161; log 7). -/
def State.findShelf (s : State) (z : Zone) (t p n : Nat) (taken : List (Nat × Nat)) : Option Nat :=
  let top := recoveryFirst (s.module (siteModule t)).mirror * 128
  ((List.range top).map fun i => (Config.shelfAddress t p + i) % top * 128).find? fun a => s.shelfFits z t taken a n

/-- Shelves on a site for stripe pages of the lengths given, clear of one another and of those that stand (R161). -/
def State.chooseShelves (s : State) (z : Zone) (t : Nat) : List (Nat × Nat) → List (Nat × Nat) → Option (List (Nat × Nat))
  | [], _ => some []
  | (p, n) :: rest, taken =>
    (s.findShelf z t p n taken).bind fun a => (s.chooseShelves z t rest ((a, n) :: taken)).map ((p, a) :: ·)

/-- Live sites of a zone under a record, with their home indices. -/
def State.homeSites (s : State) (zone : Nat) (z : Zone) : List (Nat × Nat) := z.liveIndices.zipIdx.map fun (i, j) => (s.siteOf (ltnOf 0 zone i), j)

/-- Whether the stripe area of a record lies clear of the shelves that stand on a site (R161). -/
def State.areaClear (s : State) (zone : Nat) (z : Zone) (t : Nat) : Bool :=
  (s.stripePages zone).all fun p =>
    let x := s.shelfOf zone t p
    !rangesMeet (z.stripeA * 16384) (z.stripeP * 512) x.1 x.2

/-- New shelves of some stripe pages on every live tile of a zone under a record, if each has the room. -/
def State.newShelves (s : State) (zone : Nat) (z : Zone) (pages : List Nat) : Option (List (Nat × Nat × List (Nat × Nat))) :=
  let old := s.stripePages zone
  let all := (s.homeSites zone z).map fun (t, j) =>
    (s.chooseShelves z t (pages.map fun p => (p, shelfCount z j p * 128)) (old.map fun p => s.shelfOf zone t p)).map fun l => (t, j, l)
  if all.all Option.isSome then some (all.filterMap id) else none

/-- Shelf records written for new shelves, and the shadow-map entries of their frames where the zone is mirrored (R161, R342). -/
def State.writeShelves (s : State) (zone : Nat) (z : Zone) (shelves : List (Nat × Nat × List (Nat × Nat))) : State :=
  shelves.foldl (fun s (t, j, l) => l.foldl (fun s (p, a) =>
    let s := s.writeVault (vaultKey t (z.stripeA * 16384 + p * 512)) (shelfRecord z j p a)
    if (s.module (zone / 128)).mirror = 0 then s
    else (unitsOf 16384 a (shelfCount z j p * 128)).foldl (fun s f => s.writeVault (vaultKey t (0x07010000 + 4 * f)) (bytesOf 4 (Config.shelfShadow t f).toNat)) s) s) s

/-- A stripe page is created (R161): every live tile builds its record and shelf, clear of the stripe area with the new record, and then P is raised; where a tile has no room it is not
created (R155).  The first page of a group sets its stripe area. -/
def State.stripeCreate (s : State) (zone page base : Nat) : State :=
  let z := s.zone zone
  let z := { z with stripeA := if z.stripeP = 0 then base else z.stripeA, stripeP := max z.stripeP (page + 1) }
  if z.lost || z.reshelving || 2 ^ 18 ≤ page || (s.stripePages zone).contains page || 7168 * 16384 < z.stripeA * 16384 + (page + 1) * 512 ||
     !(s.homeSites zone z).all (fun x => s.areaClear zone z x.1) then s
  else
    match s.newShelves zone z [page] with
    | some l => (s.writeShelves zone z l).modZone zone fun _ => z
    | none => s

/-- A stripe page is deleted (R161): its records go, and P stays. -/
def State.stripeDelete (s : State) (zone page : Nat) : State :=
  let z := s.zone zone
  if (s.stripePages zone).contains page then
    let s := (s.homeSites zone z).foldl (fun s x => s.writeVault (vaultKey x.1 (z.stripeA * 16384 + page * 512)) (List.replicate 512 0)) s
    { s with tiles := s.tiles.map fun x => (x.1, { x.2 with masks := x.2.masks.filter fun m => !(m.field = zone && m.page = page) }) }
  else s

-- reshelving (R162)
/-- A retired index is to come back with a site, by a new configuration image: the gangs of the group stop first (R162). -/
def State.returnIndex (s : State) (zone index site : Nat) : State :=
  let z := s.zone zone
  if z.retired.contains index && !z.lost && siteZone site = zone && (s.namesAt site).isEmpty && !(s.module (zone / 128)).dead.contains site then
    (s.modZone zone fun z => { z with returning := assocSet index site z.returning, reshelving := true }).stopGroup zone
  else s

/-- A zone's record once its reshelving is done: indices that were being retired are, and those that came back are live and bound. -/
def Zone.reshelved (z : Zone) : Zone :=
  let retired := (z.retiring.foldl Keys.put z.retired).filter fun i => !z.returning.any fun e => e.1 = i
  { z with retired := retired, live := 160 - retired.length, retiring := [], salvage := [], returning := [], reshelving := false, epoch := z.epoch + 1,
           binds := z.returning.foldl (fun l e => assocSet e.1 (siteBinding e.2) l) z.binds }

/-- A tile's slice without the lines of some ranges of its vault. -/
def Tile.forget (x : Tile) (ranges : List (Nat × Nat)) : Tile :=
  { x with slice := x.slice.map fun z =>
      { z with lines := z.lines.zipIdx.map fun (l, i) =>
          if ranges.any fun r => decide (r.1 ≤ z.sb * 512 + i * 128) && decide (z.sb * 512 + i * 128 < r.1 + r.2) then .empty else l } }

/-- The lines of a zone's stripe group move to new shelves under a new live count (R162 steps 2 to 5); lines of a tile that is gone are
restored from its shadow, or are zero and poisoned: `old` gives the contents of a line before.  Name caches, mask caches and slices of the zone
forget the group's lines, and nothing else. -/
def State.reshelve (s : State) (zone : Nat) (z' : Zone) (shelves : List (Nat × Nat × List (Nat × Nat))) (old : Nat → Block) : State :=
  let pages := s.stripePages zone
  let kept := (pages.flatMap fun p => (List.range 16384).map fun l => p * 16384 + l).map fun x => (x, old x)
  let before := (s.homeSites zone (s.zone zone)).map fun x => (x.1, pages.map fun p => s.shelfOf zone x.1 p)
  let s : State := { s with tiles := s.tiles.map fun y =>
    (y.1, { y.2 with ncache := y.2.ncache.filter (fun e => ltnField e.1 ≠ zone), masks := y.2.masks.filter fun m => m.field ≠ zone }) }
  let s := (s.modZone zone fun _ => z').writeShelves zone z' shelves
  let s := kept.foldl (fun s (x, b) =>
    let t := s.siteOf (z'.lineName zone x)
    s.restore { b with base := vaultKey t (s.shelfLine zone t x) }) s
  let after := shelves.map fun x => (x.1, pages.map fun p => s.shelfOf zone x.1 p)
  (before ++ after).foldl (fun s x => s.modTile x.1 fun y => y.forget x.2) s

/-- Contents of a line of a group before a reshelving: its old place, or zero and poisoned where its tile is gone (R162 step 3). -/
def State.lineBefore (s : State) (zone x : Nat) : Block :=
  let z := s.zone zone
  if z.retiring.contains (z.liveIndices.getD (homeIndex z.live x) 0) then
    (match z.salvage.find? fun e => e.1 = x with | some e => e.2 | none => Block.lost 0 128)
  else
    let t := s.siteOf (z.lineName zone x)
    s.block (vaultKey t (s.shelfLine zone t x)) 128

/-- RESHELVE_CONTINUE (R162): once the gangs of the group stand at their last commit and every tile has the frames it needs, lines move and
the live count changes; otherwise the shortfall is reported (management event 4). -/
def execReshelveContinue (z : Nat) (s : State) : Out :=
  let zn := s.zone z
  .next (if !zn.reshelving then s
         else if s.gangs.any fun g => (g.order.isSome || g.stopped) && s.usesGroup z g then s
         else
           let z' := zn.reshelved
           match (s.modZone z fun x => { x with binds := z'.binds }).newShelves z z' (s.stripePages z) with
           | some shelves =>
             let s' := s.reshelve z z' shelves (s.lineBefore z)
             zn.returning.foldl (fun s e => s.staff e.2 (ltnOf 0 z e.1)) s'
           | none => s.postEvent (z / 128) 4 none)

end Sys2Proof.Machine
end

