-- ==== Sys2Proof/Machine/Cox.lean ====
section
/-! DEFINITION. The module controller: boot, measurement and reports, commands, power and clocks, management registers
(spec/17_host_peers_boot.md R388, R390-R397; spec/01_machine.md R15). -/
namespace Sys2Proof.Machine

-- clocks and power (R15, R394)
/-- Change what a zone's clock step depends on; its cycle count goes on from where it stands (R81, R394). -/
def State.modClock (s : State) (z : Nat) (f : Zone → Zone) : State :=
  s.modZone z fun x => { f x with cycBase := x.cycBase + (s.time - x.cycAt) * (8 - x.step) / 8, cycAt := s.time }

/-- DROOP_DETECTED (R15): the zone's clock slows by one step of 1/8. -/
def execDroopDetected (z : Nat) (s : State) : Out := .next (s.modClock z fun x => { x with droop := min 4 (x.droop + 1) })

/-- DROOP_CLEARED (R394): the droop step is removed. -/
def execDroopCleared (z : Nat) (s : State) : Out := .next (s.modClock z fun x => { x with droop := 0 })

/-- Thermal step of a temperature: one at 105 °C and one more for every 5 °C above (R394). -/
def thermalStep (temp : Nat) : Nat := if temp < 105 then 0 else min 4 ((temp - 105) / 5 + 1)

/-- The highest-drawing zone of a module whose power step can rise. -/
def highestDraw (zs : List (Nat × Zone)) : Option Nat :=
  (zs.filter fun z => z.2.power < 4 && !z.2.lost).foldl (fun best z =>
    match best with
    | none => some z
    | some b => if b.2.draw < z.2.draw then some z else some b) none |>.map (·.1)

/-- Zones of a module. -/
def State.zonesOf (s : State) (m : Nat) : List (Nat × Zone) := (List.range 81).map fun z => (m * 128 + z, s.zone (m * 128 + z))

/-- Review of one zone: its draw and temperature, its thermal step, and a power step for its own limit, taken back only while the module is
within PLIM; changes post management events 7 and 8, and a zone at 125 °C is lost (R394). -/
def State.reviewZone (m : Nat) (within : Bool) (s : State) (z : Nat) : State :=
  let x := s.zone z
  if x.lost then s
  else
    let draw := Config.zoneDraw z s.time
    let temp := Config.zoneTemperature z s.time
    let thermal := thermalStep temp
    let power := if x.limit < draw then min 4 (x.power + 1) else if within then x.power - 1 else x.power
    let s := s.modClock z fun x => { x with draw := draw, temp := temp, thermal := thermal, power := power }
    let s := if thermal ≠ x.thermal then s.postEvent m 7 (some (z * 256)) else s
    let s := if power ≠ x.power then s.postEvent m 8 (some (z * 256)) else s
    if 125 ≤ temp then s.loseZone z else s

/-- POWER_REVIEW (R394): every zone, then the module: while PLIM is exceeded the highest-drawing zone takes a step. -/
def execPowerReview (m : Nat) (s : State) : Out :=
  let total := ((s.zonesOf m).map fun z => if z.2.lost then 0 else Config.zoneDraw z.1 s.time).sum
  let s := ((List.range 81).map fun z => m * 128 + z).foldl (State.reviewZone m (total ≤ (s.module m).plim)) s
  let s := s.modModule m fun x => { x with pnow := total }
  .next (if (s.module m).plim < total then
           match highestDraw (s.zonesOf m) with
           | some z => (s.modClock z fun x => { x with power := min 4 (x.power + 1) }).postEvent m 8 (some (z * 256))
           | none => s
         else s)

-- measurement and boot (R390, R391)
/-- Extend a measurement register: MR := SHA-256(MR :: digest) (R391). -/
def State.extendMr (s : State) (m r : Nat) (digest : BitVec 256) : State :=
  s.modModule m fun x => { x with mrs := listUpd x.mrs r fun v => sha256 (v ++ digest) }

/-- Whether an image is accepted (R390): the SHA-256 of its public key is the root key hash in ROM, and its signature over header and body
verifies. -/
def imageAccepted (m k : Nat) : Bool :=
  sha256Bytes (Config.imageKey m k) = Config.rootKeyHash m &&
  rsaVerifies (Config.keyModulus (Config.imageKey m k)) (Config.keyExponent (Config.imageKey m k)) (Config.imageHeader m k ++ Config.imageBody m k)
    (Config.imageSignature m k)

/-- The digest of an image, over the header and the body that its signature covers (R391; log 21). -/
def imageDigest (m k : Nat) : BitVec 256 := sha256Bytes (Config.imageHeader m k ++ Config.imageBody m k)

/-- A refused image stops the boot at its phase and posts management event 10 (R390). -/
def State.refuseImage (s : State) (m : Nat) : State := (s.modModule m fun x => { x with refused := true }).postEvent m 10 none

/-- The boot goes on to the next phase. -/
def State.nextPhase (s : State) (m : Nat) : State := s.modModule m fun x => { x with phase := x.phase + 1 }

-- the configuration image (R352)
/-- Whether two zones share an edge or a corner (R16). -/
def zonesTouch (a b : Nat) : Bool :=
  a ≠ b && decide (a / 9 ≤ b / 9 + 1) && decide (b / 9 ≤ a / 9 + 1) && decide (a % 9 ≤ b % 9 + 1) && decide (b % 9 ≤ a % 9 + 1)

/-- The buddy ring of an image: the default where it carries no order of the 81 zones whose steps join touching fields (R16). -/
def ringOf (r : List Nat) : List Nat :=
  if r.length = 81 && (List.range 81).all r.contains && (r.zip (r.drop 1 ++ r.take 1)).all fun e => zonesTouch e.1 e.2 then r else defaultRing

/-- The ports of a field that can carry a stitch link: 15 of every router, 14 of routers 0 to 6, 4 of the routers without a spare (R213). -/
def stitchPorts (field : Nat) : List Nat :=
  (List.range 4).flatMap fun quad => (List.range 10).flatMap fun r =>
    [portKey field quad r 15] ++ (if r ≤ 6 then [portKey field quad r 14] else []) ++ (if r = 0 || r = 5 then [] else [portKey field quad r 4])

/-- n different entries of a list, as a choice names them one after the other. -/
def picks (choice : Nat → Nat) : Nat → List Nat → List Nat
  | 0, _ => []
  | n + 1, l => let x := l.getD (choice n % l.length) 0; x :: picks choice n (l.filter (· ≠ x))

/-- The ports that the image gives the links of a field, 20 for each edge: north, east, south, west (R10, R213). -/
def edgePorts (field : Nat) : List Nat := picks (Config.imageStitch field) 80 (stitchPorts field)

/-- The field that faces an edge of a field, if there is one, and the edge of it that does (R10). -/
def facing (field edge : Nat) : Option (Nat × Nat) :=
  let z := field % 128
  match edge with
  | 0 => if 9 ≤ z then some (field - 9, 2) else none
  | 1 => if z % 9 < 8 then some (field + 1, 3) else none
  | 2 => if z < 72 then some (field + 9, 0) else none
  | _ => if 0 < z % 9 then some (field - 1, 1) else none

/-- The stitch links of a module: each port with the port at its far end, 20 links on every edge between two fields (R10, R11). -/
def stitchLinks (m : Nat) : List (Nat × Nat) :=
  ((List.range 81).map fun z => m * 128 + z).flatMap fun f => (List.range 4).flatMap fun e =>
    match facing f e with
    | some (g, o) => (List.range 20).map fun i => ((edgePorts f).getD (20 * e + i) 0, (edgePorts g).getD (20 * o + i) 0)
    | none => []

/-- The configuration image is applied (R351, R352): the defect map, the ring, the mirror fraction, the stitch links with their lost lanes, the
zones' trims; the zones' clocks start, and each dead site's index takes its spare, in ascending index, or is retired. -/
def State.applyImage (s : State) (m : Nat) : State :=
  let zones := (List.range 81).map fun z => m * 128 + z
  let s := s.modModule m fun x =>
    { x with dead := (zones.flatMap fun z => (List.range 4).flatMap fun q => (List.range 42).map fun i => z * 256 + q * 64 + i).filter Config.imageDead,
             threshold := Config.imageThreshold m, mirror := Config.imageMirror m % 4, buddy := ringOf (Config.imageRing m), stitch := stitchLinks m }
  let s := (s.module m).stitch.foldl (fun s e => s.modLink e.1 fun l => { l with lost := (List.range 68).filter (Config.imageLaneLost e.1) }) s
  let s := zones.foldl (fun s z => s.modZone z fun x => { x with cycBase := 0, cycAt := s.time, trims := Config.imageTrims z }) s
  let s := (zones.flatMap fun z => (List.range 160).map fun i => ltnOf 0 z i).foldl (fun s n =>
    if (s.module m).dead.contains (s.siteOf n) then s.takeSpare n else s) s
  zones.foldl (fun s z => s.modZone z fun x => if x.reshelving then x.reshelved else x) s

/-- Training of a link at boot (R221, R390): up to 4 lost lanes are steered around, up to 36 leave half its width, and more retire it. -/
def Link.train (l : Link) : Link :=
  if l.lost.length ≤ 4 then { l with steered := l.lost.length }
  else if l.lost.length ≤ 36 then { l with half := true }
  else { l with failed := true, retired := true }

/-- Stitch links are trained, and lane steering is applied (R390). -/
def State.trainLinks (s : State) (m : Nat) : State := (s.module m).stitch.foldl (fun s e => s.modLink e.1 Link.train) s

/-- Names of a module that are bound. -/
def State.boundNames (s : State) (m : Nat) : List Ltn :=
  ((List.range 81).flatMap fun z => (List.range 160).map fun i => ltnOf m z i).filter fun n => (s.binding n).v

/-- A firmware image is loaded into the service area of every bound tile, behind the shadow map (R157, R390); where there, and as much as fits,
is the image's own (log 21). -/
def State.loadFirmware (s : State) (m k : Nat) : State :=
  let a := 0x07018000 + Config.firmwarePlace k % 0x68000
  (s.boundNames m).foldl (fun s n => s.writeVault (vaultKey (s.siteOf n) a) ((Config.imageBody m k).take (0x07080000 - a))) s

/-- Whether a zone is on the rim of its module: it has fewer than four neighbours (R388). -/
def rimZone (z : Nat) : Bool := z % 9 = 0 || z % 9 = 8 || z / 9 = 0 || z / 9 = 8

/-- Phase 6: the module has its number, and its Roshus Links, at most 32, each at a port tile of a rim field as the image names it, are trained
(R388, R390); the domain has one time base and one bell window count, which need no agreeing here. -/
def State.joinDomain (s : State) (m : Nat) : State :=
  let ports := ((Config.imageRoshus m).filter fun e => ltnModule e.1 = m && rimZone (ltnZone e.1) && decide (e.2 < 16) && e.2 ≠ m).take 32
  s.modModule m fun x =>
    { x with number := some m, roshus := ports.map fun e => { tile := e.1, peer := e.2, trained := true, retired := false, crossed := [] } }

/-- Cores leave reset on every bound tile of a module (R360, R390): system software in slot 1 of the service core, service firmware in its
slot 0, and a steward in slot 0 of each compute core. -/
def State.releaseCores (s : State) (m : Nat) : State :=
  (s.boundNames m).foldl (fun s n => s.staff (s.siteOf n) n) s

/-- BOOT (R390): the work of the current phase, and the step to the next; images are verified and measured in phases 1, 2 and 5. -/
def execBoot (m : Nat) (s : State) : Out :=
  let x := s.module m
  let measured := fun (r : Nat) (s : State) => s.extendMr m r (imageDigest m r)
  .next (if x.refused || 7 ≤ x.phase then s
         else
           match x.phase with
           | 0 => (s.modModule m fun x => { x with boots := x.boots + 1 }).nextPhase m
           | 1 => if imageAccepted m 0 then (measured 0 s).nextPhase m else s.refuseImage m
           | 2 => if imageAccepted m 1 then (measured 1 s).nextPhase m else s.refuseImage m
           | 3 => (s.applyImage m).nextPhase m
           | 4 => (s.trainLinks m).nextPhase m
           | 5 =>
             if imageAccepted m 2 && imageAccepted m 3 then (((measured 3 (measured 2 s)).loadFirmware m 2).loadFirmware m 3).nextPhase m
             else s.refuseImage m
           | 6 => ((s.joinDomain m).nextPhase m).releaseCores m
           | _ => s.nextPhase m)

-- commands (R393)
/-- An answer of the cox to a command. -/
def State.reply (s : State) (r : Reply) : State := { s with replies := s.replies ++ [r] }

/-- The path of the command that a module acts on (R393). -/
def State.pathOf (s : State) (m : Nat) : CmdPath := (s.module m).path

/-- CMD_RESTART_SLOT (R393, R366, R370): a stopped slot of a tile, which the command names by its LTN, goes on; a management command also wakes a
service slot that waits (R371). -/
def execCmdRestartSlot (name core slot : Nat) (s : State) : Out :=
  let s := s.reply (.done (s.pathOf (ltnModule name)) 1)
  .next (match if (s.binding name).v then s.slotThread (s.siteOf name) core slot else none with
         | none => s
         | some th =>
           match th.park with
           | some .stopped => s.modThread th.id fun th => { th with park := none }
           | some (.wfi _) => if core = 8 then s.endWait th.id else s
           | _ => s)

/-- CMD_SET_POWER_LIMIT (R393, R394): PLIM or a zone's limit, within its range. -/
def execCmdSetPowerLimit (m : Nat) (zone : Option Nat) (watts : Nat) (s : State) : Out :=
  let s := s.reply (.done (s.pathOf m) 2)
  .next (match zone with
         | none => if 1000 ≤ watts && watts ≤ 24000 then s.modModule m fun x => { x with plim := watts } else s
         | some z => if 50 ≤ watts && watts ≤ 300 && z ≤ 80 then s.modZone (m * 128 + z) fun x => { x with limit := watts } else s)

/-- The 256 bits of an entry of the event queue (R395): it has no place for a cause. -/
def MgmtEvent.bits (e : MgmtEvent) : Nat :=
  field (e.bell % 2 ^ 64) 128 + field e.eval.toNat 64 + field (e.ltn % 2 ^ 32) 32 + e.code % 256

/-- Events of the ring from EVHEAD to EVTAIL (R395, R396). -/
def Module.events (x : Module) : List MgmtEvent :=
  (List.range (x.evTail - x.evHead).toNat).filterMap fun i => (x.ring.find? fun e => e.1 = (x.evHead.toNat + i) % 256).map (·.2)

/-- CMD_READ_EVENT_QUEUE (R393). -/
def execCmdReadEventQueue (m : Nat) (s : State) : Out := .next (s.reply (.events (s.pathOf m) (s.module m).events))

/-- CMD_EXTEND_MR (R391): MR4 to MR7 only. -/
def execCmdExtendMr (m mr : Nat) (digest : BitVec 256) (s : State) : Out :=
  .next (if 4 ≤ mr && mr ≤ 7 then (s.extendMr m mr digest).reply (.done (s.pathOf m) 4) else s.reply (.done (s.pathOf m) 4))

/-- The contents of an attestation report, as its signature covers them (R392). -/
def State.reportContents (s : State) (m : Nat) (nonce : BitVec 256) : List Nat :=
  let x := s.module m
  [Config.reportVersion, (Config.moduleSerial m).toNat] ++ x.mrs.map BitVec.toNat ++ (List.range 4).map (fun i => (Config.imageVersion m i).toNat) ++
    [x.boots, nonce.toNat]

/-- CMD_ATTESTATION_REPORT (R392): the report, its signature and the certificate chain of the identity key. -/
def execCmdAttestationReport (m : Nat) (nonce : BitVec 256) (s : State) : Out :=
  let x := s.module m
  .next (State.reply { s with free := s.free + 1 } (.report x.path Config.reportVersion (Config.moduleSerial m) x.mrs
    ((List.range 4).map fun i => Config.imageVersion m i) x.boots nonce (Config.reportSignature m s.free (s.reportContents m nonce))
    (Config.certificateChain m)))

/-- CMD_RESET_MODULE (R393): everything of the module is as after reset; the boot count, and what the configuration image and the frame
give, stay. -/
def execCmdResetModule (m : Nat) (s : State) : Out :=
  let mine := fun (t : Nat) => siteModule t = m
  let names := fun (n : Ltn) => ltnModule n = m
  let x := s.module m
  let s := s.removeSites mine names
  .next { s with
    gangs := s.gangs.filter (fun g => !(g.mlo = m && g.mhi = m)), zones := s.zones.filter (fun z => z.1 / 128 ≠ m),
    gong := s.gong.filter (fun k => k.1 / 64 / 128 ≠ m), ports := s.ports.filter (fun p => p.1 / 4 ≠ m),
    links := s.links.filter (fun l => l.1 / 640 / 128 ≠ m),
    modules := assocSet m { Module.reset with boots := x.boots, buddy := x.buddy, mirror := x.mirror, dead := x.dead, stitch := x.stitch,
                                              threshold := x.threshold } s.modules,
    replies := s.replies ++ [.done x.path 6] }

-- management registers (R396)
/-- MANAGEMENT_REGISTER_WRITE (R396): PLIM, EVHEAD and the zone limits take a write within their ranges; other registers ignore it. -/
def execManagementRegisterWrite (m off : Nat) (v : Word) (s : State) : Out :=
  let w := v.toNat
  let z := (off - 0x100) / 8
  .next (if off = 0x010 then (if 1000 ≤ w && w ≤ 24000 then s.modModule m fun x => { x with plim := w } else s)
         else if off = 0x020 then s.modModule m fun x => { x with evHead := v.setWidth 8 }
         else if 0x100 ≤ off && off % 8 = 0 && z ≤ 80 then
           (if 50 ≤ wbits v 8 0 && wbits v 8 0 ≤ 300 then s.modZone (m * 128 + z) fun x => { x with limit := wbits v 8 0 } else s)
         else s)

/-- What a management register reads (R396). -/
def State.managementRegister (s : State) (m off : Nat) : Nat :=
  let x := s.module m
  let z := s.zone (m * 128 + (off - 0x100) / 8)
  match off with
  | 0x000 => 0x2416 * 2 ^ 48 + x.number.getD 0 % 16 * 2 ^ 16 + (Config.imageVersion m 0).toNat
  | 0x008 => bit x.refused * 256 + x.phase
  | 0x010 => x.plim
  | 0x018 => x.pnow
  | 0x020 => x.evTail.toNat * 256 + x.evHead.toNat
  | 0x028 => x.evLost.toNat
  | 0x030 => x.hwDrop.toNat
  | _ =>
    if 0x100 ≤ off && off ≤ 0x100 + 8 * 80 && off % 8 = 0 then
      bit z.lost * 2 ^ 63 + bit z.clamped * 2 ^ 62 + z.step * 2 ^ 40 + z.temp % 256 * 2 ^ 32 + z.draw % 512 * 2 ^ 16 + z.limit % 512
    else 0

end Sys2Proof.Machine
end

