-- ==== Sys2Proof/Machine/Host.lean ====
section
/-! DEFINITION. The host ports: windows and their requests, reads the device issues, launch records and launches
(spec/11_ordering.md R262; spec/17_host_peers_boot.md R379-R387). -/
namespace Sys2Proof.Machine

-- windows (R380, R381)
/-- Module of a port. -/
def portModule (port : Nat) : Nat := port / 4

/-- Count an ignored or dropped write in HWDROP (R396). -/
def State.hwDrop (s : State) (port : Nat) : State := s.modModule (portModule port) fun m => { m with hwDrop := m.hwDrop + 1 }

/-- Whether a window entry may be written (R380): invalid, LOCAL or STRIPED well formed for 2 MiB, with MIR, HSH and RPL zero. -/
def State.windowOk (s : State) (port : Nat) (v : Word) : Bool :=
  !descMir v && !descHsh v && !descRpl v &&
  (descType v = 0 || ((descType v = 1 || descType v = 2) && s.descOk (portModule port * 32768) v 1))

/-- WINDOW_ENTRY_WRITE (R380). -/
def execWindowEntryWrite (port w : Nat) (v : Word) (s : State) : Out :=
  .next (if w < 65536 && s.windowOk port v then s.modPort port fun p => { p with windows := assocSet w v p.windows } else s.hwDrop port)

/-- The window entry of a BAR2 offset. -/
def Port.entryAt (p : Port) (off : Nat) : Word := assocGet (off / 2 ^ 21) 0 p.windows

/-- Whether a request under a window entry is held while the live count of its zone changes (R162, R381). -/
def State.entryHeld (s : State) (d : Word) : Bool :=
  match descType d with
  | 1 => (s.zone (ltnField (wbits d 50 32))).reshelving
  | 2 => (s.zone (wbits d 50 47 * 128 + wbits d 46 40)).reshelving
  | _ => false

/-- The pieces of a byte range that lie in one line each: offset from the start, and length. -/
def linePieces (off n : Nat) : List (Nat × Nat) :=
  (unitsOf 128 off n).map fun l => (max off (l * 128) - off, min (off + n) (l * 128 + 128) - max off (l * 128))

/-- The pieces of a request at a BAR2 offset under the window entries of now (R381). -/
def Port.pieces (p : Port) (off n : Nat) (data : List Byte) : List HostPiece :=
  (linePieces off n).map fun (a, k) => { desc := p.entryAt (off + a), off := (off + a) % 2 ^ 21, n := k, data := (data.drop a).take k }

/-- The home of each piece of a request, its site and its key, or none where one has no home (R381). -/
def State.pieceHomes (s : State) (ps : List HostPiece) : Option (List (Nat × Nat)) := ps.mapM fun p => s.entryHome p.desc p.off

/-- A gang whose stroke is open keeps what the host writes: the newest value of each byte, and the one before the host's first (R263). -/
def Gang.noteHost (g : Gang) (pa : Nat) (old bs : List Byte) : Gang :=
  { g with hostBytes := ((bs.zip old).zipIdx.map fun x =>
        (pa + x.2, x.1.1, match g.hostBytes.find? fun c => c.1 = pa + x.2 with | some c => c.2.2 | none => x.1.2)) ++
      g.hostBytes.filter fun c => !(decide (pa ≤ c.1) && decide (c.1 < pa + bs.length)) }

/-- A host write performed at its home (R381): no round write, tags cleared, full/empty bits kept, no waiter woken, poison cleared over
whole sectors. -/
def State.hostWrite (s : State) (who pa : Nat) (bs : List Byte) : State :=
  let old := s.bytes pa bs.length
  let s := (s.throughSlice who pa bs.length).change noGang 0 pa bs.length fun s => s.poke pa bs
  { s with gangs := s.gangs.map fun g => if g.strokeOpen then g.noteHost pa old bs else g }

/-- The site at which a held piece has its home by now: a reshelving or a new binding may have moved it (R162, R212). -/
def State.heldAt (s : State) (w : HeldWrite) : Option Nat := (s.entryHome w.desc w.off).map (·.1)

/-- Pieces of a write go to their homes, each under a number of its own. -/
def State.holdPieces (s : State) (port seq : Nat) (relaxed : Bool) : List HostPiece → State
  | [] => s
  | p :: rest =>
    let (id, s) := s.fresh
    State.holdPieces (s.modPort port fun x =>
      { x with held := x.held ++ [{ id := id, seq := seq, relaxed := relaxed, desc := p.desc, off := p.off, data := p.data }] }) port seq relaxed rest

/-- A write from the ingress goes on, if it can: dropped where a piece has no home; with Relaxed Ordering performed on arrival, behind what the
port has on its way to the same homes and once its lines are there; else held at its homes under the port's next sequence number (R262, R381). -/
def State.sendWrite (s : State) (port : Nat) (r : HostReq) : Option State :=
  if r.pieces.any fun p => s.entryHeld p.desc then none
  else
    match s.pieceHomes r.pieces with
    | none => some (s.hwDrop port)
    | some hs =>
      let ps := r.pieces.zip hs
      if r.relaxed then
        if ((s.port port).held.any fun w => hs.any fun h => s.heldAt w = some h.1) ||
           ps.any fun p => (s.writeWaits r.id noGang 0 p.2.2 p.1.n).isSome
        then some (s.holdPieces port (s.port port).seq true r.pieces)
        else some (ps.foldl (fun s p => s.hostWrite r.id p.2.2 p.1.data) s)
      else
        let seq := (s.port port).seq + 1
        some ((s.modPort port fun x => { x with seq := seq, mark := seq }).holdPieces port seq false r.pieces)

/-- A read from the ingress, and whether it has been answered (R262, R381): Unsupported Request where a piece has no home; otherwise, once
every earlier ordered write of the port, and every earlier one to the same homes, has been performed, the bytes with EP for poison (R168). -/
def State.sendRead (s : State) (port : Nat) (r : HostReq) : Bool × State :=
  if r.pieces.any fun p => s.entryHeld p.desc then (false, s)
  else
    match s.pieceHomes r.pieces with
    | none => (true, s.reply (.hostRead port 1 []))
    | some hs =>
      let ps := (hs.zip r.pieces).map fun x => (x.1.2, x.2.n)
      if (s.port port).held.any fun w => decide (w.id < r.id) && (!w.relaxed || hs.any fun h => s.heldAt w = some h.1) then (false, s)
      else
        match ps.findSome? fun p => s.readWaits r.id p.1 p.2 with
        | some w => (false, s.startWait r.id w)
        | none =>
          (true, (ps.foldl (fun s p => s.throughSlice r.id p.1 p.2) s).reply
            (.hostRead port (if ps.any fun p => s.poisoned p.1 p.2 then 2 else 0) (ps.flatMap fun p => s.bytes p.1 p.2)))

/-- A request at the ingress of a port is tried: it leaves once it has gone on or is answered.  No request passes an earlier write there; a read
that waits holds no other back (R262). -/
def State.tryIngress (s : State) (port id : Nat) : State :=
  let q := (s.port port).ingress
  let out := fun (s : State) => s.modPort port fun x => { x with ingress := x.ingress.filter fun r => r.id ≠ id }
  match q.find? fun r => r.id = id with
  | none => s
  | some r =>
    if (q.takeWhile fun e => e.id ≠ id).any fun e => !e.read then s
    else if r.read then
      let (done, s) := s.sendRead port r
      if done then out s else s
    else
      match s.sendWrite port r with
      | some s => out s
      | none => s

/-- A request comes to a port's ingress, under the window entries of now (R381). -/
def State.offer (s : State) (port : Nat) (read relaxed : Bool) (pieces : List HostPiece) : State :=
  let (id, s) := s.fresh
  (s.modPort port fun x => { x with ingress := x.ingress ++ [{ id := id, read := read, relaxed := relaxed, pieces := pieces }] }).tryIngress port id

/-- HOST_POSTED_WRITE (R262, R379, R381): 1 to 512 bytes into BAR2; a larger payload is no request of the endpoint. -/
def execHostPostedWrite (port off : Nat) (data : List Byte) (relaxed : Bool) (s : State) : Out :=
  .next (if data.isEmpty || 512 < data.length || 2 ^ 37 < off + data.length then s
         else s.offer port false relaxed ((s.port port).pieces off data.length data))

/-- Perform the pieces that a home holds, in their order there, each once the watermark covers it and no earlier ordered write of the port is
held elsewhere, and its lines are present (R262); one without a home any more is dropped as R381 drops it. -/
def State.performHeld (port home mark : Nat) : Nat → State → State
  | 0, s => s
  | n + 1, s =>
    let held := (s.port port).held
    match held.find? fun w => (s.heldAt w).getD home = home with
    | none => s
    | some w =>
      if (!w.relaxed && !(decide (w.seq ≤ mark) && (held.find? fun o => !o.relaxed).any fun o => o.id = w.id)) || s.entryHeld w.desc then s
      else
        let out := fun (s : State) => s.modPort port fun x => { x with held := x.held.filter fun o => o.id ≠ w.id }
        match s.entryHome w.desc w.off with
        | none => State.performHeld port home mark n (out (s.hwDrop port))
        | some (_, pa) =>
          match s.writeWaits w.id noGang 0 pa w.data.length with
          | some p => s.startWait w.id p
          | none => State.performHeld port home mark n (out (s.hostWrite w.id pa w.data))

/-- HOST_WATERMARK (R262): a watermark of the port reaches a home. -/
def execHostWatermark (port home mark : Nat) (s : State) : Out :=
  .next (if mark ≤ (s.port port).mark then State.performHeld port home mark (s.port port).held.length s else s)

/-- HOST_READ (R262, R379, R381): 1 to 4,096 bytes of BAR2. -/
def execHostRead (port off n : Nat) (s : State) : Out :=
  .next (if n = 0 || 4096 < n || 2 ^ 37 < off + n then s else s.offer port true false ((s.port port).pieces off n []))

-- BAR0 (R379, R380)
/-- The launch record of a slot. -/
def Port.record (p : Port) (slot : Nat) : BitVec 2048 := assocGet slot 0 p.slots

/-- A byte of the control space (R380): launch records, LSTAT, the event queue, the management registers, the command mailbox and the window
table; the offsets between them read zero (log 55). -/
def State.bar0Byte (s : State) (port off : Nat) : Byte :=
  let p := s.port port
  let m := portModule port
  let byteOf := fun (v k : Nat) => BitVec.ofNat 8 (v / 2 ^ (8 * k))
  if off < 0x1000 then byteOf (p.record (off / 256)).toNat (off % 256)
  else if off < 0x1080 then byteOf (assocGet ((off - 0x1000) / 8) (0 : Word) p.lstat).toNat (off % 8)
  else if 0x2000 ≤ off && off < 0x4000 then
    (match (s.module m).ring.find? fun e => e.1 = (off - 0x2000) / 32 with | some e => byteOf e.2.bits (off % 32) | none => 0)
  else if 0x4000 ≤ off && off < 0x5000 then byteOf (s.managementRegister m ((off - 0x4000) / 8 * 8)) (off % 8)
  else if 0x5000 ≤ off && off < 0x6000 then assocGet (off - 0x5000) 0 p.mailbox
  else if 0x80000 ≤ off && off < 0x100000 then byteOf (assocGet ((off - 0x80000) / 8) (0 : Word) p.windows).toNat (off % 8)
  else 0

/-- A host read of BAR0 (R379, R380). -/
def State.bar0Read (s : State) (port off n : Nat) : State :=
  if n = 0 || 4096 < n || 2 ^ 20 < off + n then s else s.reply (.hostRead port 0 ((List.range n).map fun i => s.bar0Byte port (off + i)))

/-- A host write into the command mailbox of a port (R380, R393). -/
def State.mailboxWrite (s : State) (port off : Nat) (data : List Byte) : State :=
  if 512 < data.length || 4096 < off + data.length then s
  else s.modPort port fun p => { p with mailbox := data.zipIdx.foldl (fun l x => assocSet (off + x.2) x.1 l) p.mailbox }

-- reads that the device issues (R206, R382)
/-- Bytes of a host read for a thread of a gang: the newest held ones, the rest from the completion (R264). -/
def State.hostBytes (s : State) (asid lgen port hpa n : Nat) (data : BitVec 128) : Quad :=
  let held := match s.gang? asid lgen with | some g => assocGet port [] g.egress | none => []
  BitVec.ofNat 128 (ofBytes ((List.range n).map fun i => (heldByte held (hpa + i)).getD (data.extractLsb' (8 * i) 8)))

/-- HOST_READ_COMPLETION (R382): the completion of a device read reaches the bridge, which answers the waiting thread; an error completion
counts as poison. -/
def execHostReadCompletion (pk : Nat) (ok : Bool) (data : BitVec 128) (s : State) : Out :=
  match s.packet? pk with
  | none => .next s
  | some p =>
    match p.body, p.pos with
    | .hostLoad th n va port hpa, .arrived t =>
      let v := s.hostBytes p.asid p.lgen port hpa n data
      .next ((s.send t p.dst p.src p.asid p.lgen (.response th p.id (if ok then 0 else 1) v false (!ok) va)).dropPacket pk)
    | _, _ => .next s

-- launch slots (R383, R384)
/-- LSTAT state of a slot. -/
def Port.slotState (p : Port) (slot : Nat) : Nat := wbits (assocGet slot 0 p.lstat) 3 0

/-- Set the state and refusal reason of a slot; states 3 and 4 signal MSI-X vector 0 of the port (R384). -/
def State.setLstat (s : State) (port slot st reason : Nat) : State :=
  let s := s.modPort port fun p =>
    { p with lstat := assocSet slot (BitVec.ofNat 64 (wbits (assocGet slot 0 p.lstat) 63 32 * 2 ^ 32 + reason * 256 + st)) p.lstat }
  if 3 ≤ st then s.modModule (portModule port) fun m => { m with msix := m.msix ++ [(port % 4, 0)] } else s

/-- A launch record with some bits replaced. -/
def setBits (r : BitVec 2048) (lo n : Nat) (v : Nat) : BitVec 2048 :=
  let mask : BitVec 2048 := BitVec.ofNat 2048 (2 ^ n - 1) <<< lo
  (r &&& ~~~mask) ||| (BitVec.ofNat 2048 (v % 2 ^ n) <<< lo)

/-- LAUNCH_RECORD_WRITE (R384): one byte of a record; ignored and counted in HWDROP unless the slot is free. -/
def execLaunchRecordWrite (port slot byte : Nat) (v : Byte) (s : State) : Out :=
  .next (if slot < 16 && byte < 256 && (s.port port).slotState slot = 0 then
           s.modPort port fun p => { p with slots := assocSet slot (setBits (p.record slot) (8 * byte) 8 v.toNat) p.slots }
         else s.hwDrop port)

/-- ARM_WRITE (R384): the ARM dword of a free slot with GO = 1 arms it; GO = 0 is a write of record bytes. -/
def execArmWrite (port slot : Nat) (v : Word) (s : State) : Out :=
  .next (if !(slot < 16 && (s.port port).slotState slot = 0) then s.hwDrop port
         else
           let s := s.modPort port fun p => { p with slots := assocSet slot (setBits (p.record slot) 1984 64 v.toNat) p.slots }
           if v.getLsbD 63 then
             s.modPort port fun p =>
               { p with lstat := assocSet slot (BitVec.ofNat 64 (wbits v 31 0 * 2 ^ 32 + 1)) p.lstat, armed := p.armed ++ [slot] }
           else s)

/-- LSTAT_WRITE (R384): zero frees a launched or refused slot; any other write is ignored. -/
def execLstatWrite (port slot : Nat) (v : Word) (s : State) : Out :=
  .next (if v = 0 && slot < 16 && 3 ≤ (s.port port).slotState slot then s.modPort port fun p => { p with lstat := assocSet slot 0 p.lstat }
         else s)

-- launches (R385, R386)
/-- A field of a launch record. -/
def lrec (r : BitVec 2048) (hi lo : Nat) : Nat := bitsOf r.toNat hi lo

/-- Fields of a launch record (R383). -/
def lrAsid (r : BitVec 2048) : Nat := lrec r 459 448
def lrGen (r : BitVec 2048) : Nat := lrec r 475 460
def lrQ (r : BitVec 2048) : Nat := lrec r 479 478 + 1
def lrThr (r : BitVec 2048) : Nat := lrec r 486 480
def lrMlo (r : BitVec 2048) : Nat := lrec r 491 488
def lrMhi (r : BitVec 2048) : Nat := lrec r 495 492
def lrNsteal (r : BitVec 2048) : Nat := lrec r 503 496
def lrX0 (r : BitVec 2048) : Nat := lrec r 519 512
def lrW (r : BitVec 2048) : Nat := lrec r 527 520
def lrY0 (r : BitVec 2048) : Nat := lrec r 534 528
def lrH (r : BitVec 2048) : Nat := lrec r 542 536
def lrEntry (r : BitVec 2048) : Nat := lrec r 431 384

/-- A capability image of a record, tagged as `cfrom` at system level tags it (R94, R383). -/
def lrCap (r : BitVec 2048) (lo : Nat) : Reg :=
  { tag := true, bits := r.extractLsb' lo 128 &&& 0xFFFFFFFFFFFFFFFF01FFFFFFFFFFFFFF }

/-- Reason 1 of R385: reserved bits, limits, and the boot. -/
def State.badRecord (s : State) (port : Nat) (r : BitVec 2048) : Bool :=
  [(2046, 2016), (1983, 768), (638, 608), (543, 543), (535, 535), (511, 504), (487, 487)].any (fun (hi, lo) => lrec r hi lo ≠ 0) ||
  !(1 ≤ lrH r && lrH r ≤ 90 && lrY0 r ≤ 89 && 1 ≤ lrW r && lrW r ≤ 144 && lrX0 r ≤ 143 && lrNsteal r ≤ 8 && 1 ≤ lrThr r && lrThr r ≤ 112) ||
  144 < lrX0 r + lrW r || 90 < lrY0 r + lrH r || lrEntry r % 2 = 1 || lrMhi r < lrMlo r || (s.module (portModule port)).phase ≠ 7

/-- Reason 2 of R385: the code capability and the trap vector. -/
def badCode (r : BitVec 2048) : Bool :=
  let code := lrCap r 0
  !code.can permX || decide (code.limit < code.base + lrEntry r + 2) || !(lrCap r 128).can permX

/-- Rectangle positions of a record in launch order, with the logical tiles (R384, R386). -/
def lrTiles (r : BitVec 2048) : List (Nat × Ltn) :=
  let names := (List.range (lrMhi r + 1 - lrMlo r)).flatMap fun m => (List.range (lrH r)).flatMap fun y => (List.range (lrW r)).map fun x =>
    gridTile (lrMlo r + m) (lrX0 r + x) (lrY0 r + y)
  names.zipIdx.map fun (n, i) => (i, n)

/-- Whether a rectangle position is excused (R384): its bit of the map in the vault of EXLTN; a name that is not bound has no map, and excuses
nothing (log 48). -/
def State.excusedAt (s : State) (r : BitVec 2048) (i : Nat) : Bool :=
  lrec r 639 639 = 1 && (s.binding (lrec r 607 589)).v && (Memory.get s.mem (vaultKey (s.siteOf (lrec r 607 589)) (lrec r 588 576 * 16384 + i / 8))).getLsbD (i % 8)

/-- Reason 3 of R385 for a tile: unbound, not resident with q quarters, or without its memberships. -/
def State.tileUnready (s : State) (r : BitVec 2048) (name : Ltn) : Bool :=
  !(s.binding name).v ||
  (match (s.tile (s.siteOf name)).resid.find? fun e => e.asid = lrAsid r && e.lgen = lrGen r && e.ltn = name with
   | none => true
   | some e =>
     e.quarters.length ≠ lrQ r || !(e.doms.any fun d => d.1 = 2) ||
     (lrMlo r ≠ lrMhi r && !(e.doms.any fun d => d.1 = 3)))

/-- The first failing reason of R385, tested in the order 1, 2, 5, 3, 4. -/
def State.refusal (s : State) (port : Nat) (r : BitVec 2048) : Option Nat :=
  if s.badRecord port r then some 1
  else if badCode r then some 2
  else if !((List.range (lrMhi r + 1 - lrMlo r)).all fun m => s.inDomain (portModule port) (lrMlo r + m)) then some 5
  else if (lrTiles r).any (fun (i, n) => !s.excusedAt r i && s.tileUnready r n) then some 3
  else if !((s.gang? (lrAsid r) (lrGen r)).any fun g => g.committed) then some 4
  else none

/-- The local-window capability of a gang of q quarters (R79). -/
def launchWindow (q : Nat) : Reg :=
  let len := windowBytes q
  let e := lengthExp len
  mkCap 0xFF0000000000 e (ceilShift len e) (permR ||| permW ||| permLC ||| permSC ||| permSYN ||| permATM ||| permENG ||| permLOC) 0xFF0000000000

/-- A steal-circle entry of a record: signed dx and dy (R383). -/
def lrSteal (r : BitVec 2048) (e : Nat) : Int × Int :=
  ((BitVec.ofNat 8 (lrec r (647 + 16 * e) (640 + 16 * e))).toInt, (BitVec.ofNat 8 (lrec r (655 + 16 * e) (648 + 16 * e))).toInt)

/-- An initial thread of a launch in its start state (R75, R386), at no place yet. -/
def launchThread (r : BitVec 2048) (name : Ltn) (tid : Nat) (id : Nat) : Thread :=
  let code := lrCap r 0
  let seed := BitVec.ofNat 32 (lrec r 575 544) ^^^ BitVec.ofNat 32 tid
  { Thread.idle with
    pcc := code.withCursor (BitVec.ofNat 48 (code.base + lrEntry r)),
    regs := ((Vector.replicate 16 Reg.zero).set 1 (lrCap r 256)).set 2 (launchWindow (lrQ r)),
    tid := BitVec.ofNat 32 tid, seed := if seed = 0 then 1 else seed, id := id, asid := lrAsid r, lgen := lrGen r, loc := .fabric, ltn := name }

/-- Place an initial thread on its core: the lowest free general slot, or the context queue (R386, R70). -/
def State.placeInitial (s : State) (t core : Nat) (th : Thread) : State :=
  let s := { s with others := s.others ++ [th] }
  match s.freeSlots t core with
  | n :: _ => s.seat t core n 0 th.id
  | [] =>
    if (s.tile t).ctxq.length < 32 then s.toQueue t th.id
    else
      match s.toHeap t th.id false false with
      | some s => s
      | none => s.toQueue t th.id

/-- Add the initial threads of a tile to the commit copy that `rcmt` made, and to its image in the shadow (R358). -/
def State.commitInitial (s : State) (t asid lgen : Nat) (name : Ltn) (ths : List Thread) : State :=
  let ltn := match (s.tile t).residFor asid lgen name with | some r => r.ltn | none => name
  let add := fun (c : Commit) => if c.live && c.asid = asid && c.lgen = lgen && c.ltn = ltn then { c with threads := c.threads ++ ths } else c
  { s with
    tiles := s.tiles.map fun x =>
      (x.1, { x.2 with
              commits := if x.1 = t then x.2.commits.map add else x.2.commits,
              shadow := x.2.shadow.map fun h => if h.source = t then { h with items := h.items.map add } else h }) }

/-- The initial threads of the tile with ordinal o (R386): they enter the commit copy before any of them issues, and are placed. -/
def State.launchTile (r : BitVec 2048) (s : State) (x : Ltn × Nat) : State :=
  let t := s.siteOf x.1
  let id := s.nextId
  let ths := (List.range (lrThr r)).map fun k => launchThread r x.1 (x.2 * lrThr r + k) (id + k)
  let s : State := { s with nextId := id + lrThr r }
  let s := s.commitInitial t (lrAsid r) (lrGen r) x.1 ths
  ths.zipIdx.foldl (fun s (th, k) => s.placeInitial t (k % 8) th) s

/-- Start a gang from its record (R383, R386): its stroke opens, and every tile that is not excused receives its threads. -/
def State.startGang (s : State) (r : BitVec 2048) : State :=
  let tiles := lrTiles r
  let excused := (tiles.filter fun x => s.excusedAt r x.1).map (·.2)
  let here := (tiles.filter fun x => !s.excusedAt r x.1).map (·.2)
  let s := s.modGang (lrAsid r) (lrGen r) fun g =>
    { g with
      num := BitVec.ofNat 16 (lrec r 447 432), code := lrCap r 0, tvec := lrCap r 128, arg := lrCap r 256, entry := lrEntry r, q := lrQ r,
      rb := lrec r 476 476 = 1, mir := lrec r 477 477 = 1, mlo := lrMlo r, mhi := lrMhi r, seed := BitVec.ofNat 32 (lrec r 575 544),
      tiles := here, steal := (List.range (lrNsteal r)).map (lrSteal r), x0 := lrX0 r, y0 := lrY0 r, w := lrW r, h := lrH r,
      excused := excused, strokeOpen := true, hostBytes := [] }
  here.zipIdx.foldl (State.launchTile r) (s.markFormed (lrAsid r) (lrGen r))

/-- Whether a port has an ordered write that is not performed yet (R262). -/
def Port.writesOut (p : Port) : Bool := (p.held.any fun w => !w.relaxed) || p.ingress.any fun r => !r.read && !r.relaxed

/-- LAUNCH (R384-R386): the oldest armed slot of a port, once the port's earlier ordered writes are performed, is first launching, and then
launched or refused. -/
def execLaunch (port slot : Nat) (s : State) : Out :=
  let p := s.port port
  .next (if p.armed.head? ≠ some slot || p.writesOut then s
         else if p.slotState slot = 1 then s.setLstat port slot 2 0
         else if p.slotState slot ≠ 2 then s
         else
           let r := p.record slot
           let s := s.modPort port fun p => { p with armed := p.armed.drop 1 }
           match s.refusal port r with
           | some reason => s.setLstat port slot 4 reason
           | none => (s.startGang r).setLstat port slot 3 0)

end Sys2Proof.Machine
end

