-- ==== Sys2Proof/Machine/Integer.lean ====
section
/-! DEFINITION. Integer, move, compare and bit instructions of page 0 (spec/04_threads_registers.md R83-R87, R102). -/
namespace Sys2Proof.Machine

/-- A three-register integer instruction (R83). -/
def intOp (f : Word → Word → Word) (p : Pfx) (d a b : RegNo) (s : State) : Out :=
  guarded 0 p s fun s => (s.setX d (f (s.x a) (s.x b))).retire 0 p

/-- An instruction of one register source (R87) or with an immediate (R84). -/
def intOp1 (f : Word → Word) (p : Pfx) (d a : RegNo) (s : State) : Out :=
  guarded 0 p s fun s => (s.setX d (f (s.x a))).retire 0 p

/-- A compare (R86). -/
def cmpOp (r : Word → Word → Bool) (p : Pfx) (pd : PredNo) (a b : RegNo) (s : State) : Out :=
  guarded 0 p s fun s => (s.setPred pd (r (s.x a) (s.x b))).retire 0 p

/-- A compare with an immediate (R86). -/
def cmpImm (r : Word → Bool) (p : Pfx) (pd : PredNo) (a : RegNo) (s : State) : Out :=
  guarded 0 p s fun s => (s.setPred pd (r (s.x a))).retire 0 p

/-- High half of the product (R83). -/
def mulHigh (u : Bool) (a b : Word) : Word :=
  if u then ((a.setWidth 128 : BitVec 128) * b.setWidth 128).extractLsb' 64 64
  else ((a.signExtend 128 : BitVec 128) * b.signExtend 128).extractLsb' 64 64

/-- Quotient of R83: all ones by zero, -2^63 for the one overflow. -/
def quotient (u : Bool) (a b : Word) : Word :=
  if b = 0 then BitVec.allOnes 64 else if u then a / b else a.sdiv b

/-- Remainder of R83: the dividend by zero. -/
def remainder (u : Bool) (a b : Word) : Word :=
  if b = 0 then a else if u then a % b else a.srem b

/-- Shift count B[5:0]. -/
def shiftCount (b : Word) : Nat := b.toNat % 64

/-- `nop` (R85). -/
def execNop (p : Pfx) (s : State) : Out := guarded 0 p s fun s => s.retire 0 p
/-- `add` (R83). -/
def execAdd (p : Pfx) (d a b : RegNo) (s : State) : Out := intOp (· + ·) p d a b s
/-- `sub` (R83). -/
def execSub (p : Pfx) (d a b : RegNo) (s : State) : Out := intOp (· - ·) p d a b s
/-- `mul` (R83). -/
def execMul (p : Pfx) (d a b : RegNo) (s : State) : Out := intOp (· * ·) p d a b s
/-- `mulh`, `mulh.u` (R83). -/
def execMulh (p : Pfx) (d a b : RegNo) (u : Bool) (s : State) : Out := intOp (mulHigh u) p d a b s
/-- `div`, `div.u` (R83). -/
def execDiv (p : Pfx) (d a b : RegNo) (u : Bool) (s : State) : Out := intOp (quotient u) p d a b s
/-- `rem`, `rem.u` (R83). -/
def execRem (p : Pfx) (d a b : RegNo) (u : Bool) (s : State) : Out := intOp (remainder u) p d a b s
/-- `and` (R83). -/
def execAnd (p : Pfx) (d a b : RegNo) (s : State) : Out := intOp (· &&& ·) p d a b s
/-- `or` (R83). -/
def execOr (p : Pfx) (d a b : RegNo) (s : State) : Out := intOp (· ||| ·) p d a b s
/-- `xor` (R83). -/
def execXor (p : Pfx) (d a b : RegNo) (s : State) : Out := intOp (· ^^^ ·) p d a b s
/-- `andn` (R83). -/
def execAndn (p : Pfx) (d a b : RegNo) (s : State) : Out := intOp (fun x y => x &&& ~~~y) p d a b s
/-- `shl` (R83). -/
def execShl (p : Pfx) (d a b : RegNo) (s : State) : Out := intOp (fun x y => x <<< shiftCount y) p d a b s
/-- `shr` (R83). -/
def execShr (p : Pfx) (d a b : RegNo) (s : State) : Out := intOp (fun x y => x >>> shiftCount y) p d a b s
/-- `sar` (R83). -/
def execSar (p : Pfx) (d a b : RegNo) (s : State) : Out := intOp (fun x y => x.sshiftRight (shiftCount y)) p d a b s
/-- `rol` (R83). -/
def execRol (p : Pfx) (d a b : RegNo) (s : State) : Out := intOp (fun x y => x.rotateLeft (shiftCount y)) p d a b s
/-- `min`, `min.u` (R83). -/
def execMin (p : Pfx) (d a b : RegNo) (u : Bool) (s : State) : Out := intOp (fun x y => if ltW u y x then y else x) p d a b s
/-- `max`, `max.u` (R83). -/
def execMax (p : Pfx) (d a b : RegNo) (u : Bool) (s : State) : Out := intOp (fun x y => if ltW u x y then y else x) p d a b s
/-- `addi` (R84). -/
def execAddi (p : Pfx) (d a : RegNo) (imm : Word) (s : State) : Out := intOp1 (· + imm) p d a s
/-- `andi` (R84). -/
def execAndi (p : Pfx) (d a : RegNo) (imm : Word) (s : State) : Out := intOp1 (· &&& imm) p d a s
/-- `ori` (R84). -/
def execOri (p : Pfx) (d a : RegNo) (imm : Word) (s : State) : Out := intOp1 (· ||| imm) p d a s
/-- `xori` (R84). -/
def execXori (p : Pfx) (d a : RegNo) (imm : Word) (s : State) : Out := intOp1 (· ^^^ imm) p d a s
/-- `shli` (R84). -/
def execShli (p : Pfx) (d a : RegNo) (imm : Word) (s : State) : Out := intOp1 (· <<< imm.toNat) p d a s
/-- `shri` (R84). -/
def execShri (p : Pfx) (d a : RegNo) (imm : Word) (s : State) : Out := intOp1 (· >>> imm.toNat) p d a s
/-- `sari` (R84). -/
def execSari (p : Pfx) (d a : RegNo) (imm : Word) (s : State) : Out := intOp1 (·.sshiftRight imm.toNat) p d a s
/-- `movi` (R85). -/
def execMovi (p : Pfx) (d : RegNo) (imm : Word) (s : State) : Out := guarded 0 p s fun s => (s.setX d imm).retire 0 p
/-- `mov`: all 128 bits and the tag (R85). -/
def execMov (p : Pfx) (d a : RegNo) (s : State) : Out := guarded 0 p s fun s => (s.setReg d (s.reg a)).retire 0 p
/-- `cmpeq`, `cmpeq.ne` (R86). -/
def execCmpeq (p : Pfx) (pd : PredNo) (a b : RegNo) (ne : Bool) (s : State) : Out := cmpOp (fun x y => xor (x = y) ne) p pd a b s
/-- `cmplt`, `cmplt.u` (R86). -/
def execCmplt (p : Pfx) (pd : PredNo) (a b : RegNo) (u : Bool) (s : State) : Out := cmpOp (ltW u) p pd a b s
/-- `cmple`, `cmple.u` (R86). -/
def execCmple (p : Pfx) (pd : PredNo) (a b : RegNo) (u : Bool) (s : State) : Out := cmpOp (leW u) p pd a b s
/-- `cmpieq` (R86). -/
def execCmpieq (p : Pfx) (pd : PredNo) (a : RegNo) (imm : Word) (s : State) : Out := cmpImm (fun x => x = imm) p pd a s
/-- `cmpilt` (R86). -/
def execCmpilt (p : Pfx) (pd : PredNo) (a : RegNo) (imm : Word) (s : State) : Out := cmpImm (fun x => x.slt imm) p pd a s
/-- `clz`, `clz.tz` (R87). -/
def execClz (p : Pfx) (d a : RegNo) (tz : Bool) (s : State) : Out :=
  intOp1 (fun x => BitVec.ofNat 64 (if tz then trailingZeros x else leadingZeros x)) p d a s
/-- `popc` (R87). -/
def execPopc (p : Pfx) (d a : RegNo) (s : State) : Out := intOp1 (fun x => BitVec.ofNat 64 (popcount x)) p d a s
/-- Bits of an `ext` width (R87). -/
def extBits : ExtW → Nat
  | .b => 8 | .h => 16 | .w => 32
/-- `ext` (R87). -/
def execExt (p : Pfx) (d a : RegNo) (w : ExtW) (z : Bool) (s : State) : Out :=
  intOp1 (fun x => if z then zext (extBits w) x else sext (extBits w) x) p d a s

end Sys2Proof.Machine
end

