-- ==== Sys2Proof/Machine/Dispatch.lean ====
section
/-! DEFINITION. One arm for every row of spec/opcode_table.json: the meaning of the instruction or machine event. -/
namespace Sys2Proof.Machine

def exec (i : Instr) (s : State) : Host.Outcome State Fault Refusal :=
  match i with
  | .nop p => Sys2Proof.Machine.execNop p s
  | .add p d a b => Sys2Proof.Machine.execAdd p d a b s
  | .sub p d a b => Sys2Proof.Machine.execSub p d a b s
  | .mul p d a b => Sys2Proof.Machine.execMul p d a b s
  | .mulh p d a b u => Sys2Proof.Machine.execMulh p d a b u s
  | .div p d a b u => Sys2Proof.Machine.execDiv p d a b u s
  | .rem p d a b u => Sys2Proof.Machine.execRem p d a b u s
  | .and p d a b => Sys2Proof.Machine.execAnd p d a b s
  | .or p d a b => Sys2Proof.Machine.execOr p d a b s
  | .xor p d a b => Sys2Proof.Machine.execXor p d a b s
  | .andn p d a b => Sys2Proof.Machine.execAndn p d a b s
  | .shl p d a b => Sys2Proof.Machine.execShl p d a b s
  | .shr p d a b => Sys2Proof.Machine.execShr p d a b s
  | .sar p d a b => Sys2Proof.Machine.execSar p d a b s
  | .rol p d a b => Sys2Proof.Machine.execRol p d a b s
  | .min p d a b u => Sys2Proof.Machine.execMin p d a b u s
  | .max p d a b u => Sys2Proof.Machine.execMax p d a b u s
  | .addi p d a imm => Sys2Proof.Machine.execAddi p d a imm s
  | .andi p d a imm => Sys2Proof.Machine.execAndi p d a imm s
  | .ori p d a imm => Sys2Proof.Machine.execOri p d a imm s
  | .xori p d a imm => Sys2Proof.Machine.execXori p d a imm s
  | .shli p d a imm => Sys2Proof.Machine.execShli p d a imm s
  | .shri p d a imm => Sys2Proof.Machine.execShri p d a imm s
  | .sari p d a imm => Sys2Proof.Machine.execSari p d a imm s
  | .movi p d imm => Sys2Proof.Machine.execMovi p d imm s
  | .mov p d a => Sys2Proof.Machine.execMov p d a s
  | .cmpeq p pd a b ne => Sys2Proof.Machine.execCmpeq p pd a b ne s
  | .cmplt p pd a b u => Sys2Proof.Machine.execCmplt p pd a b u s
  | .cmple p pd a b u => Sys2Proof.Machine.execCmple p pd a b u s
  | .cmpieq p pd a imm => Sys2Proof.Machine.execCmpieq p pd a imm s
  | .cmpilt p pd a imm => Sys2Proof.Machine.execCmpilt p pd a imm s
  | .clz p d a tz => Sys2Proof.Machine.execClz p d a tz s
  | .popc p d a => Sys2Proof.Machine.execPopc p d a s
  | .ext p d a w z => Sys2Proof.Machine.execExt p d a w z s
  | .ldB p d a imm o sc => Sys2Proof.Machine.execLdB p d a imm o sc s
  | .ldH p d a imm o sc => Sys2Proof.Machine.execLdH p d a imm o sc s
  | .ldW p d a imm o sc => Sys2Proof.Machine.execLdW p d a imm o sc s
  | .ldD p d a imm o sc => Sys2Proof.Machine.execLdD p d a imm o sc s
  | .ldQ p d a imm o sc => Sys2Proof.Machine.execLdQ p d a imm o sc s
  | .stB p d a imm o sc => Sys2Proof.Machine.execStB p d a imm o sc s
  | .stH p d a imm o sc => Sys2Proof.Machine.execStH p d a imm o sc s
  | .stW p d a imm o sc => Sys2Proof.Machine.execStW p d a imm o sc s
  | .stD p d a imm o sc => Sys2Proof.Machine.execStD p d a imm o sc s
  | .stQ p d a imm o sc => Sys2Proof.Machine.execStQ p d a imm o sc s
  | .ldp p d a imm o sc => Sys2Proof.Machine.execLdp p d a imm o sc s
  | .stp p d a imm o sc => Sys2Proof.Machine.execStp p d a imm o sc s
  | .br p pp n off => Sys2Proof.Machine.execBr p pp n off s
  | .jmp p off => Sys2Proof.Machine.execJmp p off s
  | .call p off => Sys2Proof.Machine.execCall p off s
  | .jr p a => Sys2Proof.Machine.execJr p a s
  | .callr p a => Sys2Proof.Machine.execCallr p a s
  | .ret p => Sys2Proof.Machine.execRet p s
  | .rds p d n => Sys2Proof.Machine.execRds p d n s
  | .wrs p d n => Sys2Proof.Machine.execWrs p d n s
  | .yield p => Sys2Proof.Machine.execYield p s
  | .trap p code => Sys2Proof.Machine.execTrap p code s
  | .lea p d imm => Sys2Proof.Machine.execLea p d imm s
  | .cadd p d a b => Sys2Proof.Machine.execCadd p d a b s
  | .caddi p d a imm => Sys2Proof.Machine.execCaddi p d a imm s
  | .unassignedOpcode page base pos => Sys2Proof.Machine.execUnassignedOpcode page base pos s
  | .pand p pd pa pb => Sys2Proof.Machine.execPand p pd pa pb s
  | .por p pd pa pb => Sys2Proof.Machine.execPor p pd pa pb s
  | .pxor p pd pa pb => Sys2Proof.Machine.execPxor p pd pa pb s
  | .pnot p pd pa => Sys2Proof.Machine.execPnot p pd pa s
  | .pmov p pd pa => Sys2Proof.Machine.execPmov p pd pa s
  | .cset p d a b => Sys2Proof.Machine.execCset p d a b s
  | .cgetb p d a => Sys2Proof.Machine.execCgetb p d a s
  | .cgetl p d a => Sys2Proof.Machine.execCgetl p d a s
  | .cperm p d a b => Sys2Proof.Machine.execCperm p d a b s
  | .ctag p pd a => Sys2Proof.Machine.execCtag p pd a s
  | .cclr p d a => Sys2Proof.Machine.execCclr p d a s
  | .cgeta p d a => Sys2Proof.Machine.execCgeta p d a s
  | .cfrom p d a b => Sys2Proof.Machine.execCfrom p d a b s
  | .ldc p d a imm o sc => Sys2Proof.Machine.execLdc p d a imm o sc s
  | .stc p d a imm o sc => Sys2Proof.Machine.execStc p d a imm o sc s
  | .lds p d a imm o sc => Sys2Proof.Machine.execLds p d a imm o sc s
  | .ldk p d a imm o sc => Sys2Proof.Machine.execLdk p d a imm o sc s
  | .sts p d a imm o sc => Sys2Proof.Machine.execSts p d a imm o sc s
  | .fes p a full => Sys2Proof.Machine.execFes p a full s
  | .fer p pd a o sc => Sys2Proof.Machine.execFer p pd a o sc s
  | .aadd p a b w o sc => Sys2Proof.Machine.execAadd p a b w o sc s
  | .aor p a b w o sc => Sys2Proof.Machine.execAor p a b w o sc s
  | .aand p a b w o sc => Sys2Proof.Machine.execAand p a b w o sc s
  | .axor p a b w o sc => Sys2Proof.Machine.execAxor p a b w o sc s
  | .amin p a b w u o sc => Sys2Proof.Machine.execAmin p a b w u o sc s
  | .amax p a b w u o sc => Sys2Proof.Machine.execAmax p a b w u o sc s
  | .aaddf p a b o sc => Sys2Proof.Machine.execAaddf p a b o sc s
  | .fadd p d a b w o sc => Sys2Proof.Machine.execFadd p d a b w o sc s
  | .fswp p d a b w o sc => Sys2Proof.Machine.execFswp p d a b w o sc s
  | .fcas p d a b w o sc => Sys2Proof.Machine.execFcas p d a b w o sc s
  | .fior p d a b w o sc => Sys2Proof.Machine.execFior p d a b w o sc s
  | .home p d a => Sys2Proof.Machine.execHome p d a s
  | .fence p o sc => Sys2Proof.Machine.execFence p o sc s
  | .migr p a => Sys2Proof.Machine.execMigr p a s
  | .pin p => Sys2Proof.Machine.execPin p s
  | .unpin p => Sys2Proof.Machine.execUnpin p s
  | .spawn p a b off => Sys2Proof.Machine.execSpawn p a b off s
  | .tend p => Sys2Proof.Machine.execTend p s
  | .jinit p a b => Sys2Proof.Machine.execJinit p a b s
  | .join p a => Sys2Proof.Machine.execJoin p a s
  | .msend p d a => Sys2Proof.Machine.execMsend p d a s
  | .recv p d a => Sys2Proof.Machine.execRecv p d a s
  | .send p d a b => Sys2Proof.Machine.execSend p d a b s
  | .waitany p d a => Sys2Proof.Machine.execWaitany p d a s
  | .waitall p a => Sys2Proof.Machine.execWaitall p a s
  | .ffr p d a => Sys2Proof.Machine.execFfr p d a s
  | .tclr p a => Sys2Proof.Machine.execTclr p a s
  | .brk p code => Sys2Proof.Machine.execBrk p code s
  | .eret p => Sys2Proof.Machine.execEret p s
  | .vadd p d a b x fmt => Sys2Proof.Machine.execVadd p d a b x fmt s
  | .vsub p d a b x fmt => Sys2Proof.Machine.execVsub p d a b x fmt s
  | .vmul p d a b x fmt => Sys2Proof.Machine.execVmul p d a b x fmt s
  | .vfma p d a b x fmt => Sys2Proof.Machine.execVfma p d a b x fmt s
  | .vfms p d a b x fmt => Sys2Proof.Machine.execVfms p d a b x fmt s
  | .vmin p d a b x fmt => Sys2Proof.Machine.execVmin p d a b x fmt s
  | .vmax p d a b x fmt => Sys2Proof.Machine.execVmax p d a b x fmt s
  | .vabs p d a x fmt => Sys2Proof.Machine.execVabs p d a x fmt s
  | .vneg p d a x fmt => Sys2Proof.Machine.execVneg p d a x fmt s
  | .vcvt p d a x dst fmt => Sys2Proof.Machine.execVcvt p d a x dst fmt s
  | .vrcp p d a x fmt => Sys2Proof.Machine.execVrcp p d a x fmt s
  | .vrsq p d a x fmt => Sys2Proof.Machine.execVrsq p d a x fmt s
  | .vsqrt p d a x fmt => Sys2Proof.Machine.execVsqrt p d a x fmt s
  | .vexp p d a x fmt => Sys2Proof.Machine.execVexp p d a x fmt s
  | .vlog p d a x fmt => Sys2Proof.Machine.execVlog p d a x fmt s
  | .vsin p d a x fmt => Sys2Proof.Machine.execVsin p d a x fmt s
  | .vcos p d a x fmt => Sys2Proof.Machine.execVcos p d a x fmt s
  | .vtanh p d a x fmt => Sys2Proof.Machine.execVtanh p d a x fmt s
  | .vpswp p d a x fmt => Sys2Proof.Machine.execVpswp p d a x fmt s
  | .vperm p d a b x fmt => Sys2Proof.Machine.execVperm p d a b x fmt s
  | .vsum p d a x fmt => Sys2Proof.Machine.execVsum p d a x fmt s
  | .vrmax p d a x fmt => Sys2Proof.Machine.execVrmax p d a x fmt s
  | .vdot p d a b x fmt => Sys2Proof.Machine.execVdot p d a b x fmt s
  | .vcmp p d a b x c fmt => Sys2Proof.Machine.execVcmp p d a b x c fmt s
  | .vsel p d a b x fmt => Sys2Proof.Machine.execVsel p d a b x fmt s
  | .vscl p d a b x fmt => Sys2Proof.Machine.execVscl p d a b x fmt s
  | .vaxpy p d a b x fmt => Sys2Proof.Machine.execVaxpy p d a b x fmt s
  | .vclmp p d a b x fmt => Sys2Proof.Machine.execVclmp p d a b x fmt s
  | .vqnt p d a b x dst fmt => Sys2Proof.Machine.execVqnt p d a b x dst fmt s
  | .vgth p d a b x fmt => Sys2Proof.Machine.execVgth p d a b x fmt s
  | .vsct p d a b x fmt => Sys2Proof.Machine.execVsct p d a b x fmt s
  | .vset p d b x fmt => Sys2Proof.Machine.execVset p d b x fmt s
  | .vmov p d a x fmt => Sys2Proof.Machine.execVmov p d a x fmt s
  | .vand p d a b x fmt => Sys2Proof.Machine.execVand p d a b x fmt s
  | .vor p d a b x fmt => Sys2Proof.Machine.execVor p d a b x fmt s
  | .vshl p d a b sar post fmt => Sys2Proof.Machine.execVshl p d a b sar post fmt s
  | .mfmt p a => Sys2Proof.Machine.execMfmt p a s
  | .mbld p a b => Sys2Proof.Machine.execMbld p a b s
  | .mmq p a => Sys2Proof.Machine.execMmq p a s
  | .mstat p d => Sys2Proof.Machine.execMstat p d s
  | .mcan p a => Sys2Proof.Machine.execMcan p a s
  | .hrel p => Sys2Proof.Machine.execHrel p s
  | .evset p a => Sys2Proof.Machine.execEvset p a s
  | .evdyn p a b => Sys2Proof.Machine.execEvdyn p a b s
  | .evpost p a b => Sys2Proof.Machine.execEvpost p a b s
  | .evrun p a => Sys2Proof.Machine.execEvrun p a s
  | .evrd p d a => Sys2Proof.Machine.execEvrd p d a s
  | .evwr p a b => Sys2Proof.Machine.execEvwr p a b s
  | .evcnt p d a => Sys2Proof.Machine.execEvcnt p d a s
  | .garr p d a op level => Sys2Proof.Machine.execGarr p d a op level s
  | .gset p a b => Sys2Proof.Machine.execGset p a b s
  | .gstat p d a => Sys2Proof.Machine.execGstat p d a s
  | .dset p a b => Sys2Proof.Machine.execDset p a b s
  | .tlbw p a b => Sys2Proof.Machine.execTlbw p a b s
  | .tlbi p a => Sys2Proof.Machine.execTlbi p a s
  | .ptsync p => Sys2Proof.Machine.execPtsync p s
  | .namei p a => Sys2Proof.Machine.execNamei p a s
  | .rtsw p a => Sys2Proof.Machine.execRtsw p a s
  | .tdm p => Sys2Proof.Machine.execTdm p s
  | .tchk p => Sys2Proof.Machine.execTchk p s
  | .halt p => Sys2Proof.Machine.execHalt p s
  | .cxsv p a => Sys2Proof.Machine.execCxsv p a s
  | .cxld p a => Sys2Proof.Machine.execCxld p a s
  | .qnch p a => Sys2Proof.Machine.execQnch p a s
  | .rcmt p a => Sys2Proof.Machine.execRcmt p a s
  | .rbak p a => Sys2Proof.Machine.execRbak p a s
  | .mwgt p a b => Sys2Proof.Machine.execMwgt p a b s
  | .wfi p => Sys2Proof.Machine.execWfi p s
  | .wfiWake th => Sys2Proof.Machine.execWfiWake th s
  | .slotFill t core => Sys2Proof.Machine.execSlotFill t core s
  | .operandCacheFill th => Sys2Proof.Machine.execOperandCacheFill th s
  | .trapHold th => Sys2Proof.Machine.execTrapHold th s
  | .quarterScrubDone t n => Sys2Proof.Machine.execQuarterScrubDone t n s
  | .bankScrubDone t n => Sys2Proof.Machine.execBankScrubDone t n s
  | .storeBufferLeave th => Sys2Proof.Machine.execStoreBufferLeave th s
  | .remoteStore pk => Sys2Proof.Machine.execRemoteStore pk s
  | .remoteAtomic pk => Sys2Proof.Machine.execRemoteAtomic pk s
  | .proxyRequest pk => Sys2Proof.Machine.execProxyRequest pk s
  | .proxyResponse pk => Sys2Proof.Machine.execProxyResponse pk s
  | .proxySyncResend th => Sys2Proof.Machine.execProxySyncResend th s
  | .acknowledgement pk => Sys2Proof.Machine.execAcknowledgement pk s
  | .sliceFillDone t sb => Sys2Proof.Machine.execSliceFillDone t sb s
  | .snapshotCopyDone t block => Sys2Proof.Machine.execSnapshotCopyDone t block s
  | .rollbackLossNotice t g => Sys2Proof.Machine.execRollbackLossNotice t g s
  | .hostWatermark port home mark => Sys2Proof.Machine.execHostWatermark port home mark s
  | .launch port slot => Sys2Proof.Machine.execLaunch port slot s
  | .migrationDeparture th => Sys2Proof.Machine.execMigrationDeparture th s
  | .contextArrival pk => Sys2Proof.Machine.execContextArrival pk s
  | .stewardMoveToHeap t => Sys2Proof.Machine.execStewardMoveToHeap t s
  | .stewardReplay t => Sys2Proof.Machine.execStewardReplay t s
  | .routerTurn pk => Sys2Proof.Machine.execRouterTurn pk s
  | .relay pk => Sys2Proof.Machine.execRelay pk s
  | .forwardPacket pk => Sys2Proof.Machine.execForwardPacket pk s
  | .nameWalkResponse pk => Sys2Proof.Machine.execNameWalkResponse pk s
  | .linkRetrainDone link => Sys2Proof.Machine.execLinkRetrainDone link s
  | .stealStart t core => Sys2Proof.Machine.execStealStart t core s
  | .stealRequest msg => Sys2Proof.Machine.execStealRequest msg s
  | .stealRefusal msg => Sys2Proof.Machine.execStealRefusal msg s
  | .stealTimeout t core => Sys2Proof.Machine.execStealTimeout t core s
  | .stealBackoffEnd t core => Sys2Proof.Machine.execStealBackoffEnd t core s
  | .taskRecordArrival pk => Sys2Proof.Machine.execTaskRecordArrival pk s
  | .dequeSpill t core => Sys2Proof.Machine.execDequeSpill t core s
  | .dequeRefill t core g => Sys2Proof.Machine.execDequeRefill t core g s
  | .mailboxMessageArrival pk => Sys2Proof.Machine.execMailboxMessageArrival pk s
  | .mailboxSpill t core m => Sys2Proof.Machine.execMailboxSpill t core m s
  | .mailboxReplay t core m => Sys2Proof.Machine.execMailboxReplay t core m s
  | .messageResend t => Sys2Proof.Machine.execMessageResend t s
  | .copyPacketSend t => Sys2Proof.Machine.execCopyPacketSend t s
  | .copyPacketArrival pk => Sys2Proof.Machine.execCopyPacketArrival pk s
  | .bellDelivery w => Sys2Proof.Machine.execBellDelivery w s
  | .gongSweep node slot t => Sys2Proof.Machine.execGongSweep node slot t s
  | .commitRequest t g => Sys2Proof.Machine.execCommitRequest t g s
  | .mirrorWrite t g => Sys2Proof.Machine.execMirrorWrite t g s
  | .shadowAck t g => Sys2Proof.Machine.execShadowAck t g s
  | .commitReport t g => Sys2Proof.Machine.execCommitReport t g s
  | .roundRelease t g level => Sys2Proof.Machine.execRoundRelease t g level s
  | .passStart t => Sys2Proof.Machine.execPassStart t s
  | .panelLoad t => Sys2Proof.Machine.execPanelLoad t s
  | .rowDrain t => Sys2Proof.Machine.execRowDrain t s
  | .handlerStart t core => Sys2Proof.Machine.execHandlerStart t core s
  | .groupShareRequest pk => Sys2Proof.Machine.execGroupShareRequest pk s
  | .groupShareAnswer pk => Sys2Proof.Machine.execGroupShareAnswer pk s
  | .groupStartOrder pk => Sys2Proof.Machine.execGroupStartOrder pk s
  | .groupCompletionReport pk => Sys2Proof.Machine.execGroupCompletionReport pk s
  | .groupCancel pk => Sys2Proof.Machine.execGroupCancel pk s
  | .eventArrival pk => Sys2Proof.Machine.execEventArrival pk s
  | .tick t => Sys2Proof.Machine.execTick t s
  | .hookPushRetry t => Sys2Proof.Machine.execHookPushRetry t s
  | .rollback g => Sys2Proof.Machine.execRollback g s
  | .tandemCompare th => Sys2Proof.Machine.execTandemCompare th s
  | .gangPreempt g => Sys2Proof.Machine.execGangPreempt g s
  | .gangQuench g => Sys2Proof.Machine.execGangQuench g s
  | .nameWalkRequest pk => Sys2Proof.Machine.execNameWalkRequest pk s
  | .gsetNodeConfirm pk => Sys2Proof.Machine.execGsetNodeConfirm pk s
  | .reshelveContinue z => Sys2Proof.Machine.execReshelveContinue z s
  | .nameiRequest req t => Sys2Proof.Machine.execNameiRequest req t s
  | .nameiTileAck req t => Sys2Proof.Machine.execNameiTileAck req t s
  | .nameiComplete req => Sys2Proof.Machine.execNameiComplete req s
  | .tlbiRequest req t => Sys2Proof.Machine.execTlbiRequest req t s
  | .tlbiTileAck req t => Sys2Proof.Machine.execTlbiTileAck req t s
  | .tlbiComplete req => Sys2Proof.Machine.execTlbiComplete req s
  | .bellWindowClose => Sys2Proof.Machine.execBellWindowClose s
  | .trelResume t heap => Sys2Proof.Machine.execTrelResume t heap s
  | .trelDeliver t heap dst => Sys2Proof.Machine.execTrelDeliver t heap dst s
  | .trelDiscard t heap => Sys2Proof.Machine.execTrelDiscard t heap s
  | .trqRetire t n => Sys2Proof.Machine.execTrqRetire t n s
  | .tmqRead d => Sys2Proof.Machine.execTmqRead d s
  | .qownWrite t n v => Sys2Proof.Machine.execQownWrite t n v s
  | .evownWrite t n v => Sys2Proof.Machine.execEvownWrite t n v s
  | .evqbWrite t v => Sys2Proof.Machine.execEvqbWrite t v s
  | .mslotWrite t v => Sys2Proof.Machine.execMslotWrite t v s
  | .cxbaseWrite t v => Sys2Proof.Machine.execCxbaseWrite t v s
  | .rtdhiWrite t v => Sys2Proof.Machine.execRtdhiWrite t v s
  | .patrolScrub t addr symbols => Sys2Proof.Machine.execPatrolScrub t addr symbols s
  | .hostPostedWrite port off data relaxed => Sys2Proof.Machine.execHostPostedWrite port off data relaxed s
  | .hostRead port off n => Sys2Proof.Machine.execHostRead port off n s
  | .windowEntryWrite port w v => Sys2Proof.Machine.execWindowEntryWrite port w v s
  | .armWrite port slot v => Sys2Proof.Machine.execArmWrite port slot v s
  | .lstatWrite port slot v => Sys2Proof.Machine.execLstatWrite port slot v s
  | .managementRegisterWrite m off v => Sys2Proof.Machine.execManagementRegisterWrite m off v s
  | .cmdRestartSlot t core slot => Sys2Proof.Machine.execCmdRestartSlot t core slot s
  | .cmdSetPowerLimit m zone watts => Sys2Proof.Machine.execCmdSetPowerLimit m zone watts s
  | .cmdReadEventQueue m => Sys2Proof.Machine.execCmdReadEventQueue m s
  | .cmdExtendMr m mr digest => Sys2Proof.Machine.execCmdExtendMr m mr digest s
  | .cmdAttestationReport m nonce => Sys2Proof.Machine.execCmdAttestationReport m nonce s
  | .cmdResetModule m => Sys2Proof.Machine.execCmdResetModule m s
  | .boot m => Sys2Proof.Machine.execBoot m s
  | .powerReview m => Sys2Proof.Machine.execPowerReview m s
  | .droopDetected z => Sys2Proof.Machine.execDroopDetected z s
  | .droopCleared z => Sys2Proof.Machine.execDroopCleared z s
  | .zoneLost z => Sys2Proof.Machine.execZoneLost z s
  | .tileLost t => Sys2Proof.Machine.execTileLost t s
  | .moduleUnreachable m peer => Sys2Proof.Machine.execModuleUnreachable m peer s
  | .laneLost link lane => Sys2Proof.Machine.execLaneLost link lane s
  | .hostReadCompletion pk ok data => Sys2Proof.Machine.execHostReadCompletion pk ok data s
  | .launchRecordWrite port slot byte v => Sys2Proof.Machine.execLaunchRecordWrite port slot byte v s

end Sys2Proof.Machine
end

