-- ==== Sys2Proof/Machine/Fetch.lean ====
section
/-! DEFINITION. Fetching an instruction, which slots are ready, and the choice of the slot that issues
(spec/02_encoding.md R26-R28; spec/04_threads_registers.md R71, R72; spec/08_translation.md R183). -/
namespace Sys2Proof.Machine

-- fetching (R26, R183)
/-- What fetching answers: the instruction, with the state after its translations, or a trap taken or a wait begun. -/
inductive Fetched where
  | instr (i : Instr) (s : State)
  | stop (s : State)

/-- Vault address of a word of code under a TLB entry: an RPL page, or a LOCAL one of this tile (R183). -/
def codeHome (e : Nat × Word) (va : VAddr) (own : Ltn) : Option Nat :=
  let d := e.2
  if descType d = 1 && (descRpl d || wbits d 50 32 = own) then some (wbits d 12 0 * 16384 + pageOffset e va) else none

/-- The checks of R26 on the address of a word: tag, permission X, bounds; EVAL is the word's address. -/
def checkFetch (pcc : Reg) (va : VAddr) : Except TrapVal Unit :=
  if !pcc.tag then .error (0x03, va.setWidth 64)
  else if !pcc.can permX then .error (0x05, va.setWidth 64)
  else if va.toNat < pcc.base || pcc.limit < va.toNat + 2 then .error (0x04, va.setWidth 64)
  else .ok ()

/-- Fetch the word at an address and go on with it (R26, R183): poison is checked only where data bytes are read for a consumer (R113), so
a word of a poisoned sector is taken as it stands. -/
def State.fetchWord (s : State) (va : VAddr) (k : Half → State → Fetched) : Fetched :=
  match checkFetch s.thr.pcc va with
  | .error (cause, value) => .stop (s.takeTrap cause value)
  | .ok _ =>
    if inWindow va then .stop (s.pageFault va)
    else
      match s.lookup s.tileNo s.coreNo s.accessAsid va.toNat with
      | (none, s) => .stop (s.tlbMiss 4 s.accessAsid va)
      | (some e, s) =>
        match codeHome e va s.thr.ltn with
        | none => .stop (s.pageFault va)
        | some v =>
          let pa := vaultKey s.tileNo v
          match s.readWaits s.thr.id pa 2 with
          | some p => .stop (s.waitOn p)
          | none => k (BitVec.ofNat 16 (s.nat pa 2)) (s.throughSlice s.thr.id pa 2)

/-- Fetch and decode from the PC, word by word, with the prefixes `c` already fetched (R26, R39): a failure raises 0x01 as soon as its
word is fetched (R40). -/
def State.fetchFrom : Nat → List Half → State → Fetched
  | 0, _, s => .stop s
  | n + 1, c, s =>
    s.fetchWord (s.pc + BitVec.ofNat 48 (2 * c.length)) fun w s =>
      match chainWord c w with
      | .bad e => .stop (s.takeTrap 0x01 e.eval)
      | .more c => State.fetchFrom n c s
      | .done =>
        match decodeBase c w with
        | .ok i _ => .instr i s
        | .bad e => .stop (s.takeTrap 0x01 e.eval)
        | .short => .stop s

/-- Fetch the instruction at the PC: four prefixes and a base word at most. -/
def State.fetch (s : State) : Fetched := State.fetchFrom 5 [] s

-- ready slots (R72)
/-- Whether what a parked thread waits for has come, so that its instruction is executed again; the other waits end by a step of their
own. -/
def State.unparks (s : State) (th : Thread) (c : Park) : Bool :=
  let t := th.loc.site
  let core := th.loc.core
  let x := s.tile t
  match c with
  | .drain => drained th.sb
  | .storeFull => decide (unsent th.sb < 8)
  | .sbEmpty => decide (unsent th.sb = 0)
  | .unacked => decide (unacked th.sb < 32)
  | .miss asid va _ => x.tlb.any (tlbMatch asid va)
  | .name n => x.ncache.any fun e => e.1 = n
  | .fill u sb => (match (s.tile u).super? sb with | some z => !z.filling | none => true)
  | .recv mask => ((x.core core).ready mask.toNat th.asid th.lgen).isSome
  | .tagsAny mask => (assocGet (gangKey th.asid th.lgen) { tags := 0, ovf := 0 } (x.core core).tags : TagMap).tags &&& mask ≠ 0
  | .tagsAll mask => (assocGet (gangKey th.asid th.lgen) { tags := 0, ovf := 0 } (x.core core).tags : TagMap).tags &&& mask = mask
  | .copySlot => decide ((s.copiesOut t).length < 16)
  | .matQueue => decide (s.qlen t core < 4)
  | .evRun => !x.ev.busy th.asid th.lgen
  | .routeSwitch => (s.heldNow t).isEmpty
  | .deque => decide ((x.core core).deque.length < 64)
  | .vector => (s.unitQueue t core).head? = some th.id
  | .acked sc => ackedIn th.ltn sc th.sb
  | .storeAcked seq => entryGone seq th.sb
  | .winStores => !th.groupWaits
  | .scrub q => !qownScrub (x.owner q)
  | .snapshot b => (s.tile (keySite (b * 1024))).snaps.any fun k => k.base = b * 1024
  | .bell _ =>
    (match s.anns.find? fun a => a.ref = th.id with
     | some a => s.bellReady th.id a.pa
     | none => s.mayAnnounce t core)
  | .pairSlot => !(s.freeSlots t (pairCore core)).isEmpty
  | .operand => false
  | .migrate _ _ => false
  | .sync _ => false
  | .proxy _ _ => false
  | .proxyRefused _ => false
  | .garr _ _ _ _ _ => false
  | .matGroup _ => false
  | .matCancel _ => false
  | .request _ _ => false
  | .wfi _ => false
  | .follower => false
  | .fault _ => false
  | .trapHold _ _ => false
  | .rollback => false
  | .stopped => false

/-- Whether a thread's gang lets it issue on its tile: running there, or completing a page-2 instruction (R128, R139), not being rolled back,
its stripe group not reshelving; a thread of no gang always may. -/
def State.gangIssues (s : State) (th : Thread) : Bool :=
  match s.gang? th.asid th.lgen with
  | none => true
  | some g =>
    !g.stopped &&
    (match (s.tile th.loc.site).residFor th.asid th.lgen th.ltn with | some r => r.running | none => true) &&
    !(s.zones.any fun z => z.2.reshelving && s.usesGroup z.1 g)

/-- Whether the thread of a slot is ready to issue (R72): cores run from boot phase 7 on (R390), and a slot with a page-2 instruction under way is
parked (R128). -/
def State.ready (s : State) (th : Thread) : Bool :=
  (s.module (siteModule th.loc.site)).phase = 7 && !th.vec.begun && s.gangIssues th &&
  (match th.park with
   | none => true
   | some c => s.unparks th c)

/-- The ready threads of a core, by slot. -/
def State.readySlots (s : State) (t core : Nat) : List (Nat × Nat) :=
  (s.threads.filter fun th => (match th.loc with | .slot u c _ => u = t && c = core | _ => false) && s.ready th).map fun th =>
    (th.loc.slotNo, th.id)

-- the slot that issues (R71)
/-- General slots in round-robin order after the last to issue. -/
def slotOrder (last : Nat) : List Nat := (List.range 14).map fun k => (last - 2 + 1 + k) % 14 + 2

/-- The slot of a core that issues in this cycle, with its thread (R71): slot 0, slot 1, else round robin; while a general slot is ready,
slots 0 and 1 take at most 2 of 16 consecutive cycles. -/
def State.choose (s : State) (t core : Nat) : Option (Nat × Nat) :=
  let c := (s.tile t).core core
  let rs := s.readySlots t core
  let special := (rs.find? fun r => r.1 = 0).orElse fun _ => rs.find? fun r => r.1 = 1
  let general := (slotOrder c.lastSlot).findSome? fun n => rs.find? fun r => r.1 = n
  let throttled := decide (2 ≤ (c.recent.filter id).length)
  match special, general with
  | some x, some g => if throttled then some g else some x
  | some x, none => some x
  | none, g => g

/-- A cycle of a core is over: which slot issued, and whether it was slot 0 or 1; 15 cycles are remembered. -/
def Core.issued (c : Core) (slot : Option Nat) : Core :=
  let special := match slot with | some n => decide (n < 2) | none => false
  { c with lastSlot := match slot with | some n => if 2 ≤ n then n else c.lastSlot | none => c.lastSlot,
           recent := (special :: c.recent).take 15 }

-- what else may move (log 5)
/-- Steps that a thread may be due. -/
def threadMoves (th : Thread) : List Instr :=
  [.storeBufferLeave th.id, .operandCacheFill th.id, .migrationDeparture th.id, .trapHold th.id, .tandemCompare th.id, .proxySyncResend th.id,
   .wfiWake th.id]

/-- Steps that a packet may be due, by where it is and what it carries. -/
def packetMoves (p : Packet) : List Instr :=
  match p.pos with
  | .source _ => [.routerTurn p.id]
  | .router _ _ _ => [.routerTurn p.id]
  | .relayed _ => [.relay p.id]
  | .discarded => []
  | .aside _ => [.groupShareRequest p.id]
  | .arrived _ =>
    [.forwardPacket p.id] ++
    (match p.body with
     | .context _ => [.contextArrival p.id]
     | .task _ _ _ => [.taskRecordArrival p.id]
     | .store _ _ _ _ _ => [.remoteStore p.id, .remoteAtomic p.id]
     | .proxyLoad _ _ _ _ => [.proxyRequest p.id]
     | .proxySync _ _ _ _ _ _ => [.proxyRequest p.id]
     | .proxyFer _ _ _ => [.proxyRequest p.id]
     | .proxyAtomic _ _ _ _ _ _ _ _ => [.proxyRequest p.id]
     | .hostLoad _ _ _ _ _ => []
     | .response _ _ _ _ _ _ _ => [.proxyResponse p.id]
     | .ack _ _ _ => [.acknowledgement p.id]
     | .events _ => [.eventArrival p.id]
     | .copy _ _ _ _ _ _ _ _ _ _ => [.copyPacketArrival p.id]
     | .msg _ _ _ _ _ => [.mailboxMessageArrival p.id]
     | .walk _ => [.nameWalkRequest p.id]
     | .walkReply _ _ _ => [.nameWalkResponse p.id]
     | .gset _ _ _ => [.gsetNodeConfirm p.id]
     | .shareRequest _ _ _ _ _ => [.groupShareRequest p.id]
     | .shareAnswer _ _ _ => [.groupShareAnswer p.id]
     | .shareStart _ _ => [.groupStartOrder p.id]
     | .shareReport _ _ _ _ => [.groupCompletionReport p.id]
     | .shareCancel _ _ => [.groupCancel p.id]
     | .mirror t g => [.mirrorWrite t g]
     | .steal m => [.stealRequest m, .stealRefusal m])

/-- Steps that a core of a site may be due. -/
def coreMoves (x : Tile) (t core : Nat) : List Instr :=
  [.slotFill t core, .stealStart t core, .stealTimeout t core, .stealBackoffEnd t core, .dequeSpill t core, .handlerStart t core] ++
  (x.resid.map fun r => .dequeRefill t core (gangKey r.asid r.lgen)) ++
  (List.range 8).flatMap fun m => [.mailboxSpill t core m, .mailboxReplay t core m]

/-- Steps that a site may be due. -/
def tileMoves (t : Nat) (x : Tile) : List Instr :=
  ((x.slice.filter fun z => z.filling).map fun z => .sliceFillDone t z.sb) ++
  (x.snapping.map fun b => .snapshotCopyDone t b) ++
  ((List.range 8).flatMap fun c => coreMoves x t c) ++
  [.stewardMoveToHeap t, .stewardReplay t, .messageResend t, .copyPacketSend t, .passStart t, .panelLoad t, .rowDrain t, .tick t, .hookPushRetry t] ++
  ((List.range 4).flatMap fun n => [.quarterScrubDone t n, .bankScrubDone t n]) ++
  ((x.resid.map fun r => gangKey r.asid r.lgen) ++ (x.slice.flatMap fun z => z.lines.filterMap fun l => l.round) ++
    (x.phase.map fun p => p.g)).eraseDups.flatMap fun g =>
    [.rollbackLossNotice t g, .commitRequest t g, .mirrorWrite t g, .shadowAck t g, .commitReport t g] ++
    (List.range 4).map fun k => .roundRelease t g k

/-- Stages of requests across tiles that may be due. -/
def reqStages : Req → List Move
  | .tlbi id _ _ todo waits =>
    todo.map (fun t => .request .tlbiRequest id t) ++ waits.map (fun w => .request .tlbiTileAck id w.1) ++ [.request .tlbiComplete id 0]
  | .namei id _ _ todo waits =>
    todo.map (fun t => .request .nameiRequest id t) ++ waits.map (fun w => .request .nameiTileAck id w.1) ++ [.request .nameiComplete id 0]
  | _ => []

/-- Steps of requests to the cox. -/
def coxMoves : Req → List Instr
  | .preempt _ _ g => [.gangPreempt g]
  | .quench _ _ g => [.gangQuench g]
  | .commit _ _ _ => []
  | .rollback _ _ g _ => [.rollback g]
  | .tlbi _ _ _ _ _ => []
  | .namei _ _ _ _ _ => []

/-- Slots of the gong and the sites their nodes may sample. -/
def State.gongMoves (s : State) : List Instr :=
  s.gong.flatMap fun k =>
    let node := k.1 / 64
    let slot := k.1 % 64
    (if node % 128 = 127 then [node, node - 1] else [node]).flatMap fun n =>
      match s.roundLevel n slot with
      | some l => (s.members n slot l).map fun t => .gongSweep n slot t
      | none => []

/-- Steps of a port: watermarks to the homes that hold writes, under the bindings of now (R262), and the launch at the head. -/
def State.portMoves (s : State) (n : Nat) (p : Port) : List Instr :=
  ((p.held.map fun w => (s.heldAt w).getD 0).eraseDups.map fun h => .hostWatermark n h p.mark) ++
    p.armed.map fun k => .launch n k

/-- Every step of the machine's own, but for stages of requests, that may be due. -/
def State.due (s : State) : List Instr :=
  (s.threads.flatMap threadMoves) ++ (s.packets.flatMap packetMoves) ++ (s.tiles.flatMap fun (x : Nat × Tile) => tileMoves x.1 x.2) ++
  (s.steals.map fun (m : StealMsg) => if m.refusal then Instr.stealRefusal m.id else Instr.stealRequest m.id) ++
  (s.reqs.flatMap coxMoves) ++
  (s.gangs.flatMap fun (g : Gang) => let k := gangKey g.asid g.lgen; [Instr.rollback k, Instr.gangPreempt k]) ++
  s.gongMoves ++ (s.ports.flatMap fun (p : Nat × Port) => s.portMoves p.1 p.2) ++
  ((s.links.filter fun (l : Nat × Link) => l.2.retraining).map fun l => Instr.linkRetrainDone l.1) ++
  ((s.zones.filter fun (z : Nat × Zone) => z.2.reshelving).map fun z => Instr.reshelveContinue z.1) ++
  [.bellWindowClose, .bellDelivery s.bellDone]

/-- The turns of the cores that hold another thread in a slot. -/
def State.otherTurns (s : State) : List Move :=
  (s.others.filterMap fun (th : Thread) => match th.loc with | .slot t c _ => some (Move.turn t c) | _ => none).eraseDups

/-- Page-2 instructions under way, each to be completed (R128). -/
def State.vectorMoves (s : State) : List Move :=
  (s.threads.filter fun th => th.vec.begun && th.loc.inSlot).map fun th => .vectorStep th.id .finish

/-- Host requests held at the ingress of a port, each to be tried (R262). -/
def State.ingressMoves (s : State) : List Move := s.ports.flatMap fun p => p.2.ingress.map fun r => .ingress p.1 r.id

/-- What moves between two turns when nothing else is scheduled (log 5). -/
def State.background (s : State) : List Move :=
  s.due.map Move.event ++ s.reqs.flatMap reqStages ++ s.ingressMoves ++ s.vectorMoves ++ s.otherTurns

end Sys2Proof.Machine
end

