-- ==== Sys2Proof/Machine/Issue.lean ====
section
/-! DEFINITION. A core's turn: the slot chosen, its instruction fetched and executed; and placing an instruction where the next step
fetches it (spec/04_threads_registers.md R71; spec/02_encoding.md R26, R28). -/
namespace Sys2Proof.Machine

/-- Fetch and execute the instruction of the issuing thread. -/
def State.issue (s : State) : Out :=
  match s.fetch with
  | .instr i s => exec i s
  | .stop s => .next s

/-- The issuing thread stops waiting: its instruction is executed again (R8). -/
def State.unpark (s : State) : State := s.withThr fun th => { th with park := none }

/-- The turn of a core (R71): one instruction of the slot chosen, or none. -/
def State.turn (s : State) (t core : Nat) : Out :=
  match s.choose t core with
  | none => .next (s.modCore t core fun c => c.issued none)
  | some (n, id) => ((s.modCore t core fun c => c.issued (some n)).focus id).unpark.issue

-- parts of a page-2 instruction (R137; log 39)
/-- What is next for a page-2 instruction is all that is left of it, and its slot is parked meanwhile (R128); nothing is under way where none has
begun. -/
def State.settleVec (s : State) (id : Nat) : State :=
  s.modThread id fun th =>
    if th.vec.begun then { th with vec := { th.vec with act := .finish }, park := some .vector } else { th with vec := .idle }

/-- A step after which the vector instruction of a thread is settled. -/
def Out.settleVec (id : Nat) : Out → Out
  | .next s => .next (s.settleVec id)
  | .fault f => .fault f
  | .refused r => .refused r

/-- The turn of a core in which a page-2 instruction only starts; any other instruction is executed. -/
def State.vectorStart (s : State) (t core : Nat) : Out :=
  match s.choose t core with
  | none => .next (s.modCore t core fun c => c.issued none)
  | some (n, id) =>
    let s := ((s.modCore t core fun c => c.issued (some n)).focus id).unpark
    match s.fetch with
    | .stop s => .next s
    | .instr i s => Out.settleVec id (exec i (s.withThr fun th => { th with vec := { VRun.idle with act := .start, instr := some i } }))

/-- A part of the page-2 instruction that a thread has under way: the reading of a bank word, its results, or all that is left of it. -/
def State.vectorStep (s : State) (id : Nat) (act : VAct) : Out :=
  if !(s.thread? id).any fun th => th.loc.inSlot && th.vec.begun then .next s
  else
    let s := (s.focus id).withThr fun th => { th with vec := { th.vec with act := act }, park := none }
    match s.thr.vec.instr with
    | some i => Out.settleVec id (exec i s)
    | none => .next s

/-- An element write of the page-2 instruction that a thread has under way lands. -/
def State.vectorLand (s : State) (id k : Nat) : State :=
  if (s.thread? id).any fun th => th.loc.inSlot && th.vec.begun then (s.focus id).vecLand k else s

/-- Whether a bank of a site has its bypass queue full. -/
def State.blockedNow (s : State) (t : Nat) : Bool := (List.range 4).any fun b => s.bypassFull t b

/-- A step takes a cycle, and as many more as it may (R5; log 5); SLBLOCK (50) counts them where a bypass queue is full (R169). -/
def State.advanceTime (s : State) : State :=
  let n := 1 + Config.extraCycles s.free
  { s with time := s.time + n, free := s.free + 1,
           tiles := s.tiles.map fun x =>
             if !x.2.sliceq.isEmpty && s.blockedNow x.1 then (x.1, { x.2 with ctr := assocSet 50 (x.2.count 50 + BitVec.ofNat 64 n) x.2.ctr })
             else x }

/-- The turn of the core in whose slot the focused thread is, if it is in one. -/
def State.focusTurn (s : State) : Out :=
  match s.thr.loc with
  | .slot t c _ => s.turn t c
  | _ => .next s

/-- A stage of a request across tiles. -/
def State.requestStage (s : State) (k : ReqStage) (req t : Nat) : Out :=
  match k with
  | .tlbiRequest => execTlbiRequest req t s
  | .tlbiTileAck => execTlbiTileAck req t s
  | .tlbiComplete => execTlbiComplete req s
  | .nameiRequest => execNameiRequest req t s
  | .nameiTileAck => execNameiTileAck req t s
  | .nameiComplete => execNameiComplete req s

/-- What moves next: the head of the schedule; with nothing scheduled, the focused thread's core takes its turn, and everything else may
move before its next (log 5). -/
def State.move (s : State) : Out :=
  match s.schedule with
  | .event i :: rest => exec i { s with schedule := rest }
  | .request k req t :: rest => State.requestStage { s with schedule := rest } k req t
  | .turn t c :: rest => State.turn { s with schedule := rest } t c
  | .symbolError pa symbols :: rest => .next (State.symbolError { s with schedule := rest } pa symbols)
  | .routeEntry t sel v :: rest => .next (State.coxRoute { s with schedule := rest } t sel v)
  | .serviceAsid t asid :: rest =>
    .next (State.modTile { s with schedule := rest } t fun x => { x with svcAsid := asid % 4096 })
  | .egressError asid lgen port i :: rest => .next (State.egressError { s with schedule := rest } asid lgen port i)
  | .vectorStart t c :: rest => State.vectorStart { s with schedule := rest } t c
  | .vectorStep th act :: rest => State.vectorStep { s with schedule := rest } th act
  | .vectorLand th k :: rest => .next (State.vectorLand { s with schedule := rest } th k)
  | .matRead t cmd pass off n :: rest => .next (State.matRead { s with schedule := rest } t cmd pass off n)
  | .operandMiss th :: rest => .next (State.missOperand { s with schedule := rest } th)
  | .laneError link lane :: rest => .next (State.laneError { s with schedule := rest } link lane)
  | .retirePort link :: rest => .next (State.retirePort { s with schedule := rest } link)
  | .forward name site :: rest => .next (State.setForward { s with schedule := rest } name site)
  | .bindName name :: rest => .next (State.bindName { s with schedule := rest } name)
  | .forwardEnd name :: rest => .next (State.endForward { s with schedule := rest } name)
  | .stripeCreate zone page base :: rest => .next (State.stripeCreate { s with schedule := rest } zone page base)
  | .stripeDelete zone page :: rest => .next (State.stripeDelete { s with schedule := rest } zone page)
  | .indexReturn zone index site :: rest => .next (State.returnIndex { s with schedule := rest } zone index site)
  | .peerLinkLost m k :: rest => .next (State.peerLinkLost { s with schedule := rest } m k)
  | .ingress port id :: rest => .next (State.tryIngress { s with schedule := rest } port id)
  | .bar0Read port off n :: rest => .next (State.bar0Read { s with schedule := rest } port off n)
  | .mailboxWrite port off data :: rest => .next (State.mailboxWrite { s with schedule := rest } port off data)
  | .commandPath m path :: rest => .next (State.modModule { s with schedule := rest } m fun x => { x with path := path })
  | [] => State.focusTurn { s with schedule := s.background }

-- placing an instruction
/-- Address, and vault address, at which an instruction is placed. -/
def placedPc : Nat := 0x10000
def placedAt : Nat := 0x4000

/-- The code capability of a placed instruction: R and X over the page, its cursor at the address. -/
def placedCode : Reg := mkCap 0x10000 0 16384 (permR ||| permX) (BitVec.ofNat 48 placedPc)

/-- The thread that runs a placed instruction: the focused one, or, where that is in no slot, one in slot 2 of core 0 of site 0. -/
def Thread.placed (th : Thread) : Thread :=
  { th with pcc := placedCode, park := none, tandem := none, after := none, vec := .idle, loc := if th.loc.inSlot then th.loc else .slot 0 0 2 }

/-- The words of an instruction in memory order with the zeros above them, as 32 bytes. -/
def placedBytes (nbits w : Nat) : List Byte :=
  let bs := (tableWords nbits w).flatMap fun h => bytesOf 2 h.toNat
  bs ++ List.replicate (32 - bs.length) 0

/-- The page that holds a placed instruction, as a TLB entry: 16 KiB, RPL. -/
def placedPage (asid : Nat) : Nat × Word :=
  (asid * 2 ^ 34 + placedPc / 2 ^ 14, BitVec.ofNat 64 (2 ^ 62 + 2 ^ 58 + placedAt / 16384))

/-- A site whose TLBs map the placed page and whose slice holds its first line. -/
def Tile.placed (x : Tile) (asid : Nat) : Tile :=
  let e := placedPage asid
  { x with
    tlb := e :: x.tlb.filter (fun k => !tlbMatch asid placedPc k),
    cores := x.cores.map (fun c => (c.1, { c.2 with utlb := c.2.utlb.filter fun k => !tlbMatch asid placedPc k })),
    slice := { sb := superOf placedAt, filling := false, lines := List.replicate 4 { valid := true, dirty := false, round := none, old := none } } ::
      x.slice.filter fun z => superSet z.sb ≠ superSet (superOf placedAt) }

/-- An instruction stored where the next step fetches it: the focused thread stands at it, in a slot of a core that has left reset, alone on
that core, and nothing is scheduled before it (log 10). -/
def State.place' (s : State) (nbits w : Nat) : State :=
  let th := s.thr.placed
  let t := th.loc.site
  let s : State :=
    { s with thr := th, schedule := [],
             others := s.others.filter fun o => !(o.loc.inSlot && o.loc.site = t && o.loc.core = th.loc.core) }
  let s := (s.poke (vaultKey t placedAt) (placedBytes nbits w)).modTile t fun x => x.placed (if th.loc.core = 8 then x.svcAsid else th.asid)
  s.modModule (siteModule t) fun m => { m with phase := 7 }

end Sys2Proof.Machine
end

