-- ==== Sys2Proof/Machine/Step.lean ====
section
/-! DEFINITION. One step of the load-store domain, and an instruction placed where the next step fetches it. -/
namespace Sys2Proof.Machine

/-- One step: a cycle passes, and what is to move next moves (log 5). -/
def step (s : State) : Host.Outcome State Fault Refusal := s.advanceTime.move

/-- The state with an instruction stored where the next step fetches it. -/
def State.withFetchWord (s : State) (nbits w : Nat) : State := s.place' nbits w

end Sys2Proof.Machine
end

