-- ==== Sys2Proof/Safety.lean ====
section
/-! DEFINITION. The terms claims use: the canonical form of a state's memory, what an instruction leaves as it was, and how it
retires. -/
namespace Sys2Proof.Machine

-- the canonical form (INVENTORY.md, Memory and ordering)
/-- A sorted set of numbers. -/
def Keys.wf (l : List Nat) : Prop := l.Pairwise (· < ·)

/-- Memory and its metadata in canonical form: equal contents are equal data. -/
structure State.Canonical (s : State) : Prop where
  mem  : Memory.wf s.mem = true
  tags : Keys.wf s.tags
  full : Keys.wf s.full
  psn  : Keys.wf s.psn
  bits : Keys.wf s.psnBits

/-- A step of a safe run: it answers a next state. -/
def State.Runs (s : State) : Prop := ∃ t, step s = .next t

-- frames
/-- Every register but those named reads as before. -/
def State.RegsKept (s t : State) (ds : List RegNo) : Prop := ∀ r, r ∉ ds → t.reg r = s.reg r

/-- Every predicate but those named reads as before. -/
def State.PredsKept (s t : State) (ps : List PredNo) : Prop := ∀ q, q ∉ ps → t.pred q = s.pred q

/-- Every byte of memory, with its tag, full/empty bit and poison, reads as before. -/
def State.MemoryKept (s t : State) : Prop :=
  ∀ a, Memory.get t.mem a = Memory.get s.mem a ∧ t.tagAt a = s.tagAt a ∧ t.fullAt a = s.fullAt a ∧ t.psnAt a = s.psnAt a

/-- Every byte of memory outside [pa, pa + n) reads as before, and outside the granules, words and sectors it touches so do tags,
full/empty bits and poison. -/
def State.MemoryKeptBut (s t : State) (pa n : Nat) : Prop :=
  ∀ a, (a < pa ∨ pa + n ≤ a → Memory.get t.mem a = Memory.get s.mem a) ∧
    (a / 16 ∉ unitsOf 16 pa n → t.tagAt a = s.tagAt a) ∧ (a / 8 ∉ unitsOf 8 pa n → t.fullAt a = s.fullAt a) ∧
    (a / 32 ∉ unitsOf 32 pa n → t.psnAt a = s.psnAt a)

/-- The special registers that a thread carries (R74), but for STAT, RETC and the predicates. -/
structure Specials where
  tid    : BitVec 32
  vl     : BitVec 15
  fmt    : BitVec 19
  carry  : BitVec 16
  mbxn   : BitVec 3
  jc     : Reg
  migt   : BitVec 8
  ecause : BitVec 8
  eval   : Word
  epc    : VAddr
  estat  : BitVec 9
  seed   : BitVec 32
  fflg   : BitVec 5
  gval   : Word
  deriving DecidableEq, Repr

/-- The special registers of a thread. -/
def Arch.specials (a : Arch) : Specials :=
  { tid := a.tid, vl := a.vl, fmt := a.fmt, carry := a.carry, mbxn := a.mbxn, jc := a.jc, migt := a.migt, ecause := a.ecause,
    eval := a.eval, epc := a.epc, estat := a.estat, seed := a.seed, fflg := a.fflg, gval := a.gval }

/-- The whole machine but the issuing thread and memory. -/
structure Surroundings where
  psnBits : List Nat
  others  : List Thread
  tiles   : List (Nat × Tile)
  gangs   : List Gang
  zones   : List (Nat × Zone)
  modules : List (Nat × Module)
  ports   : List (Nat × Port)
  packets : List Packet
  gong    : List (Nat × GongSlot)
  reqs    : List Req
  anns    : List Ann
  links   : List (Nat × Link)
  hostOut : List (Nat × HostWrite)
  replies : List Reply
  deriving DecidableEq, Repr

/-- What surrounds the issuing thread. -/
def State.surroundings (s : State) : Surroundings :=
  { psnBits := s.psnBits, others := s.others, tiles := s.tiles, gangs := s.gangs, zones := s.zones, modules := s.modules, ports := s.ports,
    packets := s.packets, gong := s.gong, reqs := s.reqs, anns := s.anns, links := s.links, hostOut := s.hostOut,
    replies := s.replies }

/-- The thread keeps its identity, place and gang. -/
def Thread.SameSelf (a b : Thread) : Prop :=
  b.id = a.id ∧ b.kind = a.kind ∧ b.asid = a.asid ∧ b.lgen = a.lgen ∧ b.loc = a.loc ∧ b.ltn = a.ltn

/-- An instruction retires with the PC at an address: PCC but for its cursor stays, RETC counts it, and of STAT only PIN may clear,
when a pinned count runs out (R27, R204). -/
structure State.Retires (s t : State) (pc : VAddr) : Prop where
  at_pc : t.pc = pc
  pcc  : t.thr.pcc = s.thr.pcc.withCursor pc
  retc : t.thr.retc = s.thr.retc + 1
  stat : ∀ k, k ≠ 3 → t.thr.stat.getLsbD k = s.thr.stat.getLsbD k
  pin  : t.thr.pinned = true → s.thr.pinned = true

/-- An instruction completes: it retires at `pc`, and of the thread's registers, predicates and special registers and of memory only the
registers `ds` and the predicates `ps` may change. -/
structure State.Completes (s t : State) (ds : List RegNo) (ps : List PredNo) (pc : VAddr) : Prop where
  retires  : s.Retires t pc
  regs     : s.RegsKept t ds
  preds    : s.PredsKept t ps
  specials : t.thr.specials = s.thr.specials
  memory   : s.MemoryKept t
  self     : s.thr.SameSelf t.thr

/-- An instruction of registers only: it completes, and the store buffer and everything around the thread are as before. -/
structure State.RegisterOnly (s t : State) (ds : List RegNo) (ps : List PredNo) (pc : VAddr) : Prop
    extends State.Completes s t ds ps pc where
  sb     : t.thr.sb = s.thr.sb
  around : t.surroundings = s.surroundings

/-- Control goes to a capability: PCC becomes it, the instruction retires, and but for the registers `ds` everything is as before (R95). -/
structure State.GoesTo (s t : State) (c : Reg) (ds : List RegNo) : Prop where
  pcc      : t.thr.pcc = c
  retc     : t.thr.retc = s.thr.retc + 1
  regs     : s.RegsKept t ds
  preds    : s.PredsKept t []
  specials : t.thr.specials = s.thr.specials
  stat     : ∀ k, k ≠ 3 → t.thr.stat.getLsbD k = s.thr.stat.getLsbD k
  memory   : s.MemoryKept t
  sb       : t.thr.sb = s.thr.sb
  around   : t.surroundings = s.surroundings

/-- What register d reads after a write of v: c0 reads zero (R31). -/
def readBack (d : RegNo) (v : Reg) : Reg := if d = 0 then .zero else v

/-- What predicate pd reads after a write of v: p0 reads true (R31). -/
def predBack (pd : PredNo) (v : Bool) : Bool := pd = 0 || v

/-- The lesser and the greater of two elements (R142): UINT8 unsigned, other integers signed; the canonical NaN where either is a NaN, and −0 below
+0. -/
def lesser (F : Fmt) (u v : Nat) : Nat :=
  if isIntFmt F then (if intValue F v < intValue F u then v else u)
  else if (fv F u).isNan || (fv F v).isNan then (floatFmt F).nan
  else if 0 < (fv F u).cmp (fv F v) ∨ ((fv F u).cmp (fv F v) = 0 ∧ (fv F v).sign = true ∧ (fv F u).sign = false) then v else u
def greater (F : Fmt) (u v : Nat) : Nat :=
  if isIntFmt F then (if intValue F u < intValue F v then v else u)
  else if (fv F u).isNan || (fv F v).isNan then (floatFmt F).nan
  else if (fv F u).cmp (fv F v) < 0 ∨ ((fv F u).cmp (fv F v) = 0 ∧ (fv F u).sign = true ∧ (fv F v).sign = false) then v else u

/-- Whether a comparison of `vcmp` holds between two elements (R149): with a NaN only `.ne` and `.uno` hold. -/
def holds (F : Fmt) (c : VCmp) (u v : Nat) : Bool :=
  let unordered := !isIntFmt F && ((fv F u).isNan || (fv F v).isNan)
  let d : Int := if isIntFmt F then intValue F u - intValue F v else (fv F u).cmp (fv F v)
  match c with
  | .eq => !unordered && decide (d = 0)
  | .ne => unordered || decide (d ≠ 0)
  | .lt => !unordered && decide (d < 0)
  | .le => !unordered && decide (d ≤ 0)
  | .gt => !unordered && decide (0 < d)
  | .ge => !unordered && decide (0 ≤ d)
  | .ord => !unordered
  | .uno => unordered

/-- The instructions of page 3 that the opcode map marks sys (R44, R46). -/
def systemOnly (pg op : Nat) : Bool :=
  pg = 3 && [0x0E, 0x10, 0x11, 0x12, 0x13, 0x14, 0x15, 0x18, 0x19, 0x1A, 0x1B, 0x1C, 0x1D, 0x1E, 0x1F].contains op

/-- A capability that grants an access of n bytes at its cursor: the tests of CheckCap (R8, R77). -/
structure Reg.Covers (r : Reg) (n : Nat) (perm : BitVec 9) : Prop where
  tag     : r.tag = true
  perm    : r.can perm = true
  base    : r.base ≤ r.cursor.toNat
  limit   : r.cursor.toNat + n ≤ r.limit
  top     : r.cursor.toNat + n ≤ 2 ^ 48
  aligned : r.cursor.toNat % n = 0

/-- A capability that control may be transferred to at its cursor (R95). -/
def Reg.Executable (r : Reg) : Prop := r.Covers 2 permX

/-- An address whose n bytes lie in the local window of the issuing thread's gang, which holds quarters of the tile (R107). -/
structure State.InWindow (s : State) (va : VAddr) (n : Nat) : Prop where
  window : inWindow va = true
  bound  : winOffset va + n ≤ windowBytes s.quarters.length
  real   : ∀ q ∈ s.quarters, q < 4

/-- The key of a window address of the issuing thread (R107). -/
def State.windowAt (s : State) (va : VAddr) : Nat := windowKey s.tileNo s.quarters (winOffset va)

/-- A word of code at an address of the issuing thread: within its PCC, under a page of its TLBs that maps code, readable now (R26, R183). -/
structure State.HoldsWord (s : State) (e : Nat × Word) (va : VAddr) (w : Half) : Prop where
  fetchable : checkFetch s.thr.pcc va = .ok ()
  outside   : inWindow va = false
  page      : tlbMatch s.accessAsid va.toNat e = true
  home      : ∃ v, codeHome e va s.thr.ltn = some v ∧ s.readWaits s.thr.id (vaultKey s.tileNo v) 2 = none ∧
    BitVec.ofNat 16 (s.nat (vaultKey s.tileNo v) 2) = w

-- trap entry
/-- A trap's saved registers, whatever level it goes to (R362). -/
structure State.TrapSaved (s t : State) (cause : Nat) (value : Word) : Prop where
  ecause : t.thr.ecause = BitVec.ofNat 8 cause
  eval   : t.thr.eval = value
  epc    : t.thr.epc = s.pc
  estat  : t.thr.estat = s.statNow

/-- A trap taken at TVEC: PCC becomes TVEC, the rounding mode RNE, nothing retires, and registers, predicates and memory are as
before (R361-R363). -/
structure State.EntersTvec (s t : State) (cause : Nat) (value : Word) : Prop where
  saved  : s.TrapSaved t cause value
  pcc    : t.thr.pcc = s.tvec
  stat   : t.thr.stat = s.thr.stat &&& 0x1F8
  regs   : t.thr.regs = s.thr.regs
  preds  : t.thr.preds = s.thr.preds
  retc   : t.thr.retc = s.thr.retc
  memory : s.MemoryKept t
  around : t.surroundings = s.surroundings

/-- A trap whose cause goes to system software (R361, R363, R366): at user level the thread waits to be held, at system level it enters SVEC with PCC in
SPCC, and at firmware level, or where SVEC may not be executed, its slot stops. -/
structure State.GoesToSystem (s t : State) (cause : Nat) (value : Word) : Prop where
  saved  : s.TrapSaved t cause value
  regs   : t.thr.regs = s.thr.regs
  preds  : t.thr.preds = s.thr.preds
  retc   : t.thr.retc = s.thr.retc
  stat   : t.thr.stat = s.thr.stat
  memory : s.MemoryKept t
  held   : s.thr.priv = 0 → t.thr.park = some (.trapHold cause value) ∧ t.thr.pcc = s.thr.pcc ∧ t.surroundings = s.surroundings
  enters : s.thr.priv = 1 → (s.tile s.tileNo).svec.Executable →
    t.thr.pcc = (s.tile s.tileNo).svec ∧ (t.tile s.tileNo).spcc = s.thr.pcc
  stops  : s.thr.priv = 2 ∨ (s.thr.priv = 1 ∧ ¬(s.tile s.tileNo).svec.Executable) → t.thr.park = some .stopped ∧ t.thr.pcc = s.thr.pcc

-- threads and packets, as claims about the machine's own steps name them
/-- Where the thread of a number is. -/
def State.placeOf (s : State) (id : Nat) : Option Loc := (s.thread? id).map fun th => th.loc

/-- What the thread of a number waits for. -/
def State.waitOf (s : State) (id : Nat) : Option (Option Park) := (s.thread? id).map fun th => th.park

/-- A packet has reached the site that hosts its name, and may be taken there in order (R211, R218). -/
def State.Arrives (s : State) (pk : Nat) (p : Packet) (t : Nat) : Prop := s.packet? pk = some p ∧ s.arrivedAt p = some t

/-- A packet taken: it is in the fabric no more, and its acknowledgement with a status has been sent to its source on VC2 (R198). -/
def State.Acknowledged (u : State) (pk : Nat) (p : Packet) (status : Nat) : Prop :=
  u.packet? pk = none ∧ ∃ q ∈ u.packets, q.vc = 2 ∧ q.dst = p.src ∧ ∃ va, q.body = .ack p.id status va

end Sys2Proof.Machine
end

