-- ==== Sys2Proof/Certificates/Slice0/Obligations.lean ====
section
/-! DEFINITION. The statements for the provers. -/
open Sys2Proof Sys2Proof.Machine

-- the machine as a whole

/-- Reset leaves boot phase 0 in every module, no thread in a slot, no gang, no packet, no port window valid, power limits of 300 W a zone
and 24,000 W a module (R390, R384, R396).
Of what the rules leave open, it states the model's choices of log 21. -/
def Obligations.ResetLeavesPhaseZero : Prop :=
  (∀ m, (State.reset.module m).phase = 0 ∧ (State.reset.module m).plim = 24000) ∧
  (∀ z, (State.reset.zone z).limit = 300) ∧
  (∀ th ∈ State.reset.threads, th.loc.inSlot = false) ∧ State.reset.gangs = [] ∧ State.reset.packets = [] ∧
  (∀ n w, assocGet w 0 (State.reset.port n).windows = 0) ∧ (∀ t n, (State.reset.tile t).owner n = 0) ∧ State.reset.Canonical

/-- Memory and its metadata keep their canonical form in every step of every state (the model's own invariant; INVENTORY.md, Memory and
ordering).
Of what the rules leave open, it states the model's choices of log 3. -/
def Obligations.StepKeepsMemoryCanonical : Prop :=
  ∀ s t, s.Canonical → step s = .next t → t.Canonical

/-- Decoding the words of an encoding gives the instruction back, and its number of words: every well-formed instruction, every operand
value, whatever words follow (R26-R39, R130). -/
def Obligations.DecodeOfEncode : Prop :=
  ∀ (i : Instr) (rest : List Half), i.wf = true → decode (encode i ++ rest) = .ok i (encode i).length

/-- What decoding answers is well-formed (R30-R45). -/
def Obligations.DecodedIsWellFormed : Prop :=
  ∀ (ws : List Half) (i : Instr) (n : Nat), decode ws = .ok i n → i.wf = true ∧ n ≤ 5

/-- Words written out from the layouts of R29 and R32 decode to the instructions they stand for, and so does every line of the tables of
encodings of vector instructions (R153), atomics (R177) and the matrix engine (R300). -/
def Obligations.EncodingsDecode : Prop :=
  -- add c1, c2, c3: op6 0x01, dst3 = 1, a3 = 2, b3 = 3, x = 0
  decode [0b000001_001_010_011_0#16] = .ok (.add .none 1 2 3) 1 ∧
  -- addi c1, c2, -1: op6 0x11, the immediate sign-extended
  decode [0b010001_001_010_1111#16] = .ok (.addi .none 1 2 0xFFFFFFFFFFFFFFFF) 1 ∧
  -- XR gives the high bits of the three registers and the guard (p3, inverted): add c9, c10, c11
  decode [0b111101_1_1_1_011_1_000#16, 0b000001_001_010_011_0#16] =
    .ok (.add { Pfx.none with xr := true, guard := 3, neg := true } 9 10 11) 2 ∧
  -- brk 1 on page 1: XP, then op6 0x2F, the code in sub10
  decode [0b111110_01_00000000#16, 0b101111_0000000001#16] = .ok (.brk .none 1) 2 ∧
  ∀ q ∈ ([
      -- R153: vfma.bf16, vcvt.bf16.f32, vsum.bf16, vcmp.lt, vshl.sar.i32, vqnt.f4b.f32
      (.vfma { Pfx.none with xm := true } 4 5 6 true (some .bf16), [0xFA00, 0xFC18, 0x0E5D]),
      (.vcvt { Pfx.none with xm := true } 4 5 true .bf16 (some .f32), [0xFA06, 0xFC14, 0x2651]),
      (.vsum { Pfx.none with xm := true } 7 5 false (some .bf16), [0xFA00, 0xFC18, 0x53D0]),
      (.vcmp .none 4 5 6 false .lt none, [0xFA02, 0x5E5C]),
      (.vshl { Pfx.none with xm := true } 4 5 6 true true (some .i32), [0xFA80, 0xFC0C, 0x8E5D]),
      (.vqnt { Pfx.none with xm := true } 4 5 6 false .f4b (some .f32), [0xFA0A, 0xFC14, 0x725C]),
      -- R177: aadd.w, aadd.sc.f, amin.u, aaddf, fadd, fcas, fior.w, home
      (.aadd .none 4 5 true .plain .tile, [0xF900, 0x504B]),
      (.aadd { Pfx.none with xm := true } 4 5 false .sc .field, [0xF900, 0xFF40, 0x504A]),
      (.amin .none 4 5 false true .plain .tile, [0xF901, 0x604A]),
      (.aaddf .none 4 5 .plain .tile, [0xF900, 0x684A]),
      (.fadd .none 6 2 7 false .plain .tile, [0xF900, 0x6F2E]),
      (.fcas .none 6 2 7 false .plain .tile, [0xF900, 0x772E]),
      (.fior .none 6 2 7 true .plain .tile, [0xF900, 0x7B2F]),
      (.home .none 3 4, [0xF900, 0x7DC0]),
      -- R300: mfmt, mbld, mmq, mstat, mcan, hrel, mwgt
      (.mfmt .none 4, [0xFB00, 0x0040]), (.mbld .none 4 5, [0xFB00, 0x044A]), (.mmq .none 4, [0xFB00, 0x0840]),
      (.mstat .none 6, [0xFB00, 0x0F00]), (.mcan .none 4, [0xFB00, 0x1040]), (.hrel .none, [0xFB00, 0x1400]),
      (.mwgt .none 4 5, [0xFB00, 0x784A]) ] : List (Instr × List Half)),
    decode q.2 = .ok q.1 q.2.length

/-- A false guard turns an instruction into one that only retires (R35): every instruction of every page, after the checks that come
before the guard: the privilege of R46, the register numbers of `rds` and `wrs` (R99), and the operands of `ldp` (R122); one of page 2 retires
once it has the vector unit of its core (R128). -/
def Obligations.GuardedOffOnlyRetires : Prop :=
  ∀ (s : State) (i : Instr) (pg op : Nat) (f : Fields), fieldsOf i = some (pg, op, f) → i.wf = true →
    s.guardHolds f.p = false → (systemOnly pg op = true → s.thr.priv ≠ 0) →
    (∀ p d n, i = .rds p d n → sregAssigned n.toNat = true ∧ (n.toNat ≤ 27 ∨ s.thr.priv ≠ 0)) →
    (∀ p d n, i = .wrs p d n → sregAssigned n.toNat = true ∧ sregNoWrite n.toNat = false ∧
      (sregUserWrite n.toNat = true ∨ s.thr.priv ≠ 0)) →
    (∀ p d a imm o sc, i = .ldp p d a imm o sc → d ≠ a) →
    (pg = 2 → ∀ id, (s.unitQueue s.tileNo s.coreNo).head? = some id → id = s.thr.id) →
    ∃ t, exec i s = .next t ∧ s.Completes t [] [] (s.nextPc pg f.p) ∧ t.thr.sb = s.thr.sb ∧
      (pg ≠ 2 → s.RegisterOnly t [] [] (s.nextPc pg f.p))

/-- At user level a system-only instruction raises 0x02, whatever its guard: the instructions of page 3 marked sys, and `rds` and `wrs` of
registers 32-127 that exist (R46).  No tandem interval is open.  The trap waits for system software (R361). -/
def Obligations.SystemOnlyTrapsAtUserLevel : Prop :=
  ∀ (s : State) (i : Instr) (pg op : Nat) (f : Fields), fieldsOf i = some (pg, op, f) → s.thr.priv = 0 → s.thr.intervalOpen = false →
    (systemOnly pg op = true ∨ (∃ p d n, (i = .rds p d n ∨ i = .wrs p d n) ∧ 32 ≤ n.toNat ∧ sregAssigned n.toNat = true)) →
    ∃ t, exec i s = .next t ∧ s.TrapSaved t 0x02 (baseEval i) ∧ t.thr.park = some (.trapHold 0x02 (baseEval i)) ∧
      t.thr.pcc = s.thr.pcc ∧ t.thr.regs = s.thr.regs ∧ t.thr.retc = s.thr.retc ∧ s.MemoryKept t ∧
      t.surroundings = s.surroundings

/-- An unassigned base encoding raises 0x01 whose EVAL holds the base word and its position (R45, R40); at user level, with no tandem
interval open. -/
def Obligations.UnassignedEncodingTraps : Prop :=
  ∀ (s : State) (page : BitVec 2) (base : Half) (pos : BitVec 3), (Instr.unassignedOpcode page base pos).wf = true →
    s.thr.priv = 0 → s.thr.intervalOpen = false →
    ∃ t, exec (.unassignedOpcode page base pos) s = .next t ∧
      s.TrapSaved t 0x01 (BitVec.ofNat 64 (base.toNat + 65536 * pos.toNat)) ∧ t.thr.pcc = s.thr.pcc ∧ t.thr.regs = s.thr.regs ∧
      t.thr.retc = s.thr.retc ∧ s.MemoryKept t ∧ t.surroundings = s.surroundings

/-- A step runs the decoded instruction (R8, R26, R39, R71): with nothing scheduled, the focused thread's core chooses a slot; where fetching at that
thread's PC gives an instruction, the step is its `exec`, and a page-2 instruction under way is completed (R128); and where words stand in memory from the PC on, readable under one page that the TLBs
hold, and decode to an instruction, and the thread does not wait at its slice beside others, fetching gives it, with the thread, the other threads and memory as before.  A step also takes a cycle and queues what may
move before the next turn (log 5). -/
def Obligations.StepRunsDecoded : Prop :=
  ∀ (s s1 s2 : State) (t c m n id : Nat), s.schedule = [] → s.thr.loc = .slot t c m →
    s1 = { s.advanceTime with schedule := s.advanceTime.background } → s1.choose t c = some (n, id) →
    s2 = ((s1.modCore t c fun k => k.issued (some n)).focus id).unpark →
    (∀ i, s2.thr.vec.instr = some i → step s = exec i s2) ∧
    (∀ i s3, s2.thr.vec.instr = none → s2.fetch = .instr i s3 → step s = exec i s3) ∧
    ∀ (ws : List Half) (i : Instr) (k : Nat) (e : Nat × Word), decode ws = .ok i k → s2.thr.vec.instr = none →
      ((∀ r ∈ (s2.tile s2.tileNo).sliceq, r.who ≠ s2.thr.id) ∨ ∀ r ∈ (s2.tile s2.tileNo).sliceq, r.who = s2.thr.id) →
      (s2.lookup s2.tileNo s2.coreNo s2.accessAsid s2.pc.toNat).1 = some e →
      (∀ j w, j < k → ws[j]? = some w → s2.HoldsWord e (s2.pc + BitVec.ofNat 48 (2 * j)) w) →
      ∃ s3, step s = exec i s3 ∧ s3.thr = s2.thr ∧ s3.others = s2.others ∧ s3.mem = s2.mem ∧ s3.gangs = s2.gangs ∧
        s3.packets = s2.packets

-- integers, compares, capabilities (R83-R94)

/-- The three-register integer instructions (R83): their words, with every register and guard that XR gives, and no word with XI, XP or XM;
the result in d, c0 as destination included, registers, predicates, flags, special registers and memory otherwise as before.
The integer instructions with an immediate, `movi`, `mov`, `ext` and `nop` (R84, R85, R87): `mov` copies all 128 bits and the tag. -/
def Obligations.IntegerResults : Prop :=
  ((∀ q ∈ ([ (1, 0, .add), (2, 0, .sub), (3, 0, .mul), (4, 0, fun p d a b => .mulh p d a b false), (4, 1, fun p d a b => .mulh p d a b true),
            (5, 0, fun p d a b => .div p d a b false), (5, 1, fun p d a b => .div p d a b true),
            (6, 0, fun p d a b => .rem p d a b false), (6, 1, fun p d a b => .rem p d a b true), (7, 0, .and), (8, 0, .or), (9, 0, .xor),
            (10, 0, .andn), (11, 0, .shl), (12, 0, .shr), (13, 0, .sar), (14, 0, .rol),
            (15, 0, fun p d a b => .min p d a b false), (15, 1, fun p d a b => .min p d a b true),
            (16, 0, fun p d a b => .max p d a b false), (16, 1, fun p d a b => .max p d a b true) ] :
          List (BitVec 6 × BitVec 1 × (Pfx → RegNo → RegNo → RegNo → Instr))),
    ∀ (d a b g : BitVec 3) (hd ha hb n : BitVec 1),
      decode [q.1 ++ (d ++ a ++ b ++ q.2.1)] = .ok (q.2.2 .none (0#1 ++ d) (0#1 ++ a) (0#1 ++ b)) 1 ∧
      decode [0x3D#6 ++ (hd ++ ha ++ hb ++ g ++ n ++ 0#3), q.1 ++ (d ++ a ++ b ++ q.2.1)] =
        .ok (q.2.2 { Pfx.none with xr := true, guard := g, neg := n = 1 } (hd ++ d) (ha ++ a) (hb ++ b)) 2 ∧
      ∀ (w : Half) (p : Pfx) (d' a' b' : RegNo) (k : Nat), op6 w ∈ [0x3C#6, 0x3E, 0x3F] →
        decode [w, q.1 ++ (d ++ a ++ b ++ q.2.1)] ≠ .ok (q.2.2 p d' a' b') k) ∧
  (∀ (s : State) (p : Pfx) (d a b : RegNo), s.guardHolds p = true →
    ∀ q ∈ [ (Instr.add p d a b, s.x a + s.x b), (.sub p d a b, s.x a - s.x b), (.mul p d a b, s.x a * s.x b),
            (.mulh p d a b false, BitVec.ofInt 64 ((s.x a).toInt * (s.x b).toInt / 2 ^ 64)),
            (.mulh p d a b true, BitVec.ofNat 64 ((s.x a).toNat * (s.x b).toNat / 2 ^ 64)),
            (.div p d a b false, if s.x b = 0 then BitVec.allOnes 64 else BitVec.ofInt 64 ((s.x a).toInt.tdiv (s.x b).toInt)),
            (.div p d a b true, if s.x b = 0 then BitVec.allOnes 64 else BitVec.ofNat 64 ((s.x a).toNat / (s.x b).toNat)),
            (.rem p d a b false, if s.x b = 0 then s.x a else BitVec.ofInt 64 ((s.x a).toInt.tmod (s.x b).toInt)),
            (.rem p d a b true, if s.x b = 0 then s.x a else BitVec.ofNat 64 ((s.x a).toNat % (s.x b).toNat)),
            (.and p d a b, s.x a &&& s.x b), (.or p d a b, s.x a ||| s.x b), (.xor p d a b, s.x a ^^^ s.x b),
            (.andn p d a b, s.x a &&& ~~~(s.x b)),
            (.shl p d a b, BitVec.ofNat 64 ((s.x a).toNat * 2 ^ ((s.x b).toNat % 64))),
            (.shr p d a b, BitVec.ofNat 64 ((s.x a).toNat / 2 ^ ((s.x b).toNat % 64))),
            (.sar p d a b, BitVec.ofInt 64 ((s.x a).toInt / 2 ^ ((s.x b).toNat % 64))),
            (.rol p d a b, (s.x a <<< ((s.x b).toNat % 64)) ||| (s.x a >>> (64 - (s.x b).toNat % 64))),
            (.min p d a b false, if (s.x a).toInt ≤ (s.x b).toInt then s.x a else s.x b),
            (.min p d a b true, if (s.x a).toNat ≤ (s.x b).toNat then s.x a else s.x b),
            (.max p d a b false, if (s.x a).toInt ≤ (s.x b).toInt then s.x b else s.x a),
            (.max p d a b true, if (s.x a).toNat ≤ (s.x b).toNat then s.x b else s.x a) ],
      ∃ t, exec q.1 s = .next t ∧ t.reg d = readBack d (.int q.2) ∧ s.RegisterOnly t [d] [] (s.nextPc 0 p))) ∧
  (∀ (s : State) (p : Pfx) (d a : RegNo) (imm : Word), s.guardHolds p = true →
    (∀ q ∈ [ (Instr.addi p d a imm, Reg.int (s.x a + imm)), (.andi p d a imm, .int (s.x a &&& imm)), (.ori p d a imm, .int (s.x a ||| imm)),
             (.xori p d a imm, .int (s.x a ^^^ imm)),
             (.shli p d a imm, .int (BitVec.ofNat 64 ((s.x a).toNat * 2 ^ imm.toNat))),
             (.shri p d a imm, .int (BitVec.ofNat 64 ((s.x a).toNat / 2 ^ imm.toNat))),
             (.sari p d a imm, .int (BitVec.ofInt 64 ((s.x a).toInt / 2 ^ imm.toNat))),
             (.movi p d imm, .int imm), (.mov p d a, s.reg a),
             (.ext p d a .b false, .int (((s.x a).setWidth 8).signExtend 64)), (.ext p d a .h false, .int (((s.x a).setWidth 16).signExtend 64)),
             (.ext p d a .w false, .int (((s.x a).setWidth 32).signExtend 64)), (.ext p d a .b true, .int (s.x a &&& 0xFF)),
             (.ext p d a .h true, .int (s.x a &&& 0xFFFF)), (.ext p d a .w true, .int (s.x a &&& 0xFFFFFFFF)) ],
       ∃ t, exec q.1 s = .next t ∧ t.reg d = readBack d q.2 ∧ s.RegisterOnly t [d] [] (s.nextPc 0 p)) ∧
    ∃ t, exec (.nop p) s = .next t ∧ s.RegisterOnly t [] [] (s.nextPc 0 p))

/-- `clz` counts the zero bits above the highest set bit and `clz.tz` those below the lowest, 64 where none is set; `popc` counts the set
bits (R87).
Compares write one predicate and nothing else (R86), and predicate logic too (R88), with the words of predicate logic, its guard and the
fields it refuses; p0 as destination included. -/
def Obligations.CountsComparesAndPredicates : Prop :=
  (∀ (s : State) (p : Pfx) (d a : RegNo), s.guardHolds p = true →
    (∃ t n, exec (.clz p d a false) s = .next t ∧ n ≤ 64 ∧ t.reg d = readBack d (.int (BitVec.ofNat 64 n)) ∧
      (∀ k, k < n → (s.x a).getLsbD (63 - k) = false) ∧ (n < 64 → (s.x a).getLsbD (63 - n) = true) ∧
      s.RegisterOnly t [d] [] (s.nextPc 0 p)) ∧
    (∃ t n, exec (.clz p d a true) s = .next t ∧ n ≤ 64 ∧ t.reg d = readBack d (.int (BitVec.ofNat 64 n)) ∧
      (∀ k, k < n → (s.x a).getLsbD k = false) ∧ (n < 64 → (s.x a).getLsbD n = true) ∧
      s.RegisterOnly t [d] [] (s.nextPc 0 p)) ∧
    ∃ t, exec (.popc p d a) s = .next t ∧
      t.reg d = readBack d (.int (BitVec.ofNat 64 ((List.range 64).countP fun k => (s.x a).getLsbD k))) ∧
      s.RegisterOnly t [d] [] (s.nextPc 0 p)) ∧
  ((∀ (pd pa pb g : BitVec 3) (n : BitVec 1) (h : BitVec 3) (x : BitVec 1),
    ∀ q ∈ [(0#6, pb, Instr.pand .none pd pa pb, Instr.pand { Pfx.none with xr := true, guard := g, neg := n = 1 } pd pa pb),
           (1, pb, .por .none pd pa pb, .por { Pfx.none with xr := true, guard := g, neg := n = 1 } pd pa pb),
           (2, pb, .pxor .none pd pa pb, .pxor { Pfx.none with xr := true, guard := g, neg := n = 1 } pd pa pb),
           (3, 0, .pnot .none pd pa, .pnot { Pfx.none with xr := true, guard := g, neg := n = 1 } pd pa),
           (4, 0, .pmov .none pd pa, .pmov { Pfx.none with xr := true, guard := g, neg := n = 1 } pd pa)],
      decode [0xF900, q.1 ++ (pd ++ pa ++ q.2.1 ++ 0#1)] = .ok q.2.2.1 2 ∧
      decode [0xF900, 0x3D#6 ++ (0#3 ++ g ++ n ++ 0#3), q.1 ++ (pd ++ pa ++ q.2.1 ++ 0#1)] = .ok q.2.2.2 3 ∧
      (h ≠ 0 → ∃ e, decode [0xF900, 0x3D#6 ++ (h ++ g ++ n ++ 0#3), q.1 ++ (pd ++ pa ++ q.2.1 ++ 0#1)] = .bad e) ∧
      ((q.1 = 3 ∨ q.1 = 4) ∧ pb ≠ 0 ∨ x = 1 → ∃ e, decode [0xF900, q.1 ++ (pd ++ pa ++ pb ++ x)] = .bad e)) ∧
  (∀ (s : State) (p : Pfx) (pd pa pb : PredNo) (a b : RegNo) (imm : Word), s.guardHolds p = true →
    ∀ q ∈ [ (Instr.cmpeq p pd a b false, decide (s.x a = s.x b), 0), (.cmpeq p pd a b true, decide (s.x a ≠ s.x b), 0),
            (.cmplt p pd a b false, decide ((s.x a).toInt < (s.x b).toInt), 0), (.cmplt p pd a b true, decide ((s.x a).toNat < (s.x b).toNat), 0),
            (.cmple p pd a b false, decide ((s.x a).toInt ≤ (s.x b).toInt), 0), (.cmple p pd a b true, decide ((s.x a).toNat ≤ (s.x b).toNat), 0),
            (.cmpieq p pd a imm, decide (s.x a = imm), 0), (.cmpilt p pd a imm, decide ((s.x a).toInt < imm.toInt), 0),
            (.pand p pd pa pb, s.pred pa && s.pred pb, 1), (.por p pd pa pb, s.pred pa || s.pred pb, 1),
            (.pxor p pd pa pb, s.pred pa != s.pred pb, 1), (.pnot p pd pa, !s.pred pa, 1), (.pmov p pd pa, s.pred pa, 1),
            (.ctag p pd a, (s.reg a).tag, 1) ],
      ∃ t, exec q.1 s = .next t ∧ t.pred pd = predBack pd q.2.1 ∧ s.RegisterOnly t [] [pd] (s.nextPc q.2.2 p)))

/-- Reading a capability, moving its cursor, copying it untagged, and `lea` (R91-R93): `cadd` moves the cursor of a capability modulo 2^48
and adds 64-bit integers otherwise; `lea` has the words of R93, with up to four XI.
`cperm` and `cfrom` complete (R90, R94): `cperm` masks the permissions [55:48] with V, adds LOC where V[8] is 1 and never removes it;
`cfrom` places the cursor, and from system level on makes a tagged capability of an untagged image, its bits [63:57] cleared; an untagged source of
`cperm`, and of `cfrom` at user level, traps with 0x03. -/
def Obligations.CapabilityFields : Prop :=
  ((∀ (d : BitVec 3) (i : BitVec 7) (xs : List (BitVec 10)), xs.length ≤ 4 →
    decode (xs.map (fun e => 0x3C#6 ++ e) ++ [0x38#6 ++ (d ++ i)]) =
      .ok (.lea { Pfx.none with xi := xs.length } (0#1 ++ d)
        ((BitVec.ofNat (10 * xs.length + 7) (xs.foldl (fun v e => v * 1024 + e.toNat) 0 * 128 + i.toNat)).signExtend 64)) (xs.length + 1)) ∧
  (∀ (s : State) (p : Pfx) (d a b : RegNo) (imm : Word), s.guardHolds p = true →
    ∀ q ∈ [ (Instr.cgetb p d a, Reg.int (if (s.reg a).tag then BitVec.ofNat 64 (s.reg a).base else 0), 1),
            (.cgetl p d a, .int (if (s.reg a).tag then BitVec.ofNat 64 (((s.reg a).base + (s.reg a).length) % 2 ^ 49) else 0), 1),
            (.cgeta p d a, .int ((s.reg a).cursor.setWidth 64), 1),
            (.cclr p d a, { tag := false, bits := (s.reg a).bits }, 1),
            (.cadd p d a b, if (s.reg a).tag then (s.reg a).withCursor ((s.reg a).cursor + (s.x b).setWidth 48) else .int (s.x a + s.x b), 0),
            (.caddi p d a imm, if (s.reg a).tag then (s.reg a).withCursor ((s.reg a).cursor + imm.setWidth 48) else .int (s.x a + imm), 0),
            (.lea p d imm, s.thr.pcc.withCursor (s.pc + imm.setWidth 48), 0) ],
      ∃ t, exec q.1 s = .next t ∧ t.reg d = readBack d q.2.1 ∧ s.RegisterOnly t [d] [] (s.nextPc q.2.2 p))) ∧
  (∀ (s : State) (p : Pfx) (d a b : RegNo), s.guardHolds p = true →
    ((s.reg a).tag = true → ∃ t r, exec (.cperm p d a b) s = .next t ∧ t.reg d = readBack d r ∧ r.tag = true ∧ r.cursor = (s.reg a).cursor ∧
      r.base = (s.reg a).base ∧ r.length = (s.reg a).length ∧
      (∀ k, k < 8 → r.perms.getLsbD k = ((s.reg a).perms.getLsbD k && (s.x b).getLsbD k)) ∧
      r.perms.getLsbD 8 = ((s.reg a).perms.getLsbD 8 || (s.x b).getLsbD 8) ∧ s.RegisterOnly t [d] [] (s.nextPc 1 p)) ∧
    ((s.reg a).tag = true →
      ∃ t, exec (.cfrom p d a b) s = .next t ∧ t.reg d = readBack d ((s.reg a).withCursor (addrOf (s.x b))) ∧
        s.RegisterOnly t [d] [] (s.nextPc 1 p)) ∧
    ((s.reg a).tag = false → s.thr.priv ≠ 0 →
      ∃ t r, exec (.cfrom p d a b) s = .next t ∧ t.reg d = readBack d r ∧ r.tag = true ∧
        (∀ k, k < 128 → r.bits.getLsbD k =
          if k < 48 then (s.x b).getLsbD k else if 57 ≤ k ∧ k ≤ 63 then false else (s.reg a).bits.getLsbD k) ∧
        s.RegisterOnly t [d] [] (s.nextPc 1 p)) ∧
    ((s.reg a).tag = false → s.thr.priv = 0 → s.thr.intervalOpen = false → s.tvec.Executable →
      (∃ t, exec (.cfrom p d a b) s = .next t ∧ s.EntersTvec t 0x03 0) ∧ ∃ t, exec (.cperm p d a b) s = .next t ∧ s.EntersTvec t 0x03 0))

/-- `cset` narrows (R89, R78): with E and M = L + 1 the representation of the length asked for (1 for 0), the result starts at the cursor, is
tagged, has the source's permissions and M × 2^E bytes, and p7 says whether that is another length than the one asked for.
No capability instruction widens (R77, R89-R94): below system level, what `cset`, `cperm`, `cadd`, `caddi`, `cclr`, `cfrom` and `lea`
leave tagged in d has no byte outside the span of a tagged source (PCC or a) and no permission more than that but LOC. -/
def Obligations.CapabilitiesOnlyNarrow : Prop :=
  (∀ (s : State) (p : Pfx) (d a b : RegNo) (e m : Nat), s.guardHolds p = true → (s.reg a).tag = true →
    (s.reg a).cursor.toNat % 16 = 0 → (s.x b).toNat ≤ 2 ^ 46 →
    max 1 (s.x b).toNat ≤ m * 2 ^ e → (m - 1) * 2 ^ e < max 1 (s.x b).toNat → m ≤ 32768 → (e = 0 ∨ 16384 < m) →
    (s.reg a).base ≤ (s.reg a).cursor.toNat → (s.reg a).cursor.toNat + m * 2 ^ e ≤ (s.reg a).limit →
    ∃ t r, exec (.cset p d a b) s = .next t ∧ t.reg d = readBack d r ∧ r.tag = true ∧ r.base = (s.reg a).cursor.toNat ∧
      r.length = m * 2 ^ e ∧ r.cursor = (s.reg a).cursor ∧ r.perms = (s.reg a).perms ∧
      t.pred 7 = decide (m * 2 ^ e ≠ (s.x b).toNat) ∧ s.RegisterOnly t [d] [7] (s.nextPc 1 p)) ∧
  (∀ (s t : State) (p : Pfx) (d a b : RegNo) (imm : Word) (i : Instr),
    i ∈ [Instr.cset p d a b, .cperm p d a b, .cadd p d a b, .caddi p d a imm, .cclr p d a, .cfrom p d a b, .lea p d imm] →
    s.guardHolds p = true → s.thr.priv = 0 → d ≠ 0 → exec i s = .next t → t.thr.retc = s.thr.retc + 1 → (t.reg d).tag = true →
    ∃ r, (r = s.thr.pcc ∨ r = s.reg a) ∧ r.tag = true ∧ r.base ≤ (t.reg d).base ∧ (t.reg d).limit ≤ r.limit ∧
      ∀ k, k < 8 → (t.reg d).perms.getLsbD k = true → r.perms.getLsbD k = true)

-- the machine's own steps: contexts (R196-R209, R363-R365, R377)

/-- MIGRATION_DEPARTURE, CONTEXT_ARRIVAL and the steward (R196, R197, R201, R207, R208): a drained migrating thread's context leaves on VC0
with the registers that CARRY or the instruction keeps, and no other; an arriving context of a running gang is queued, counted in MIGIN and
acknowledged; a queue of 28 or more keeps its first 16; a queue below 16 takes the oldest replayable context of the heap whose gang runs there.
TRAP_HOLD, the acts on TREL and TRQ (R363-R365, R377): the drained context goes to the lowest free heap index, trap-held, and a record is
queued; a held context is resumed to the queue's tail, sent to another tile on VC0, or ends; n records leave the trap queue from its head.
That the index is the lowest is the model's choice of log 38; of what else the rules leave open, it states the choices of log 37. -/
def Obligations.ContextsMove : Prop :=
  ((∀ (s : State) (th : Nat) (x : Thread) (dst : Ltn) (keep : BitVec 16) (t c n : Nat),
    s.thread? th = some x → x.park = some (.migrate dst keep) → x.loc = .slot t c n → drained x.sb = true →
    ((s.tile t).resid? x.asid x.lgen).any (·.preempted) = false →
    ∃ u y pk, exec (.migrationDeparture th) s = .next u ∧ u.thread? th = some y ∧ y.loc = .fabric ∧ y.pcc = x.pcc ∧ y.preds = x.preds ∧
      (∀ k : Fin 16, y.regs[k] = if x.carry.getLsbD k.val || keep.getLsbD k.val then x.regs[k] else .zero) ∧
      u.packets = s.packets ++ [pk] ∧ pk.vc = 0 ∧ pk.dst = dst ∧ pk.body = .context th) ∧
  (∀ (s : State) (pk id t : Nat) (p : Packet) (th : Thread) (r : Resid),
    s.Arrives pk p t → p.id = pk → pk < s.nextId → p.body = .context id → s.thread? id = some th → th.inGang p.asid p.lgen = true →
    s.residentAt t p.asid p.lgen p.dst = some r → r.running = true → s.replayable t = [] → (s.tile t).ctxq.length < 32 →
    (s.heapFree t).isSome = true →
    ∃ u, exec (.contextArrival pk) s = .next u ∧ (u.tile t).ctxq = (s.tile t).ctxq ++ [id] ∧ u.placeOf id = some (.queue t) ∧
      (u.tile t).count 59 = (s.tile t).count 59 + 1 ∧ u.Acknowledged pk p 0) ∧
  (∀ (s : State) (t : Nat), 28 ≤ (s.tile t).ctxq.length → s.replayable t = [] → (s.tile t).ctxq.Nodup →
    (∀ id ∈ (s.tile t).ctxq, (s.thread? id).isSome) → (s.heapFree t).isSome →
    ∃ u, exec (.stewardMoveToHeap t) s = .next u ∧ (∀ id ∈ (s.tile t).ctxq.take 16, id ∈ (u.tile t).ctxq) ∧
      ∀ id, (s.tile t).ctxq[16]? = some id → id ∉ (u.tile t).ctxq) ∧
  (∀ (s : State) (t id : Nat) (rest : List Nat), (s.tile t).ctxq.length < 16 → s.replayable t = id :: rest →
    (∀ th, s.thread? id = some th → ∃ r, s.residentAt t th.asid th.lgen th.ltn = some r ∧ r.preempted = false) →
    ∃ u more, exec (.stewardReplay t) s = .next u ∧ (u.tile t).ctxq = (s.tile t).ctxq ++ id :: more ∧ (u.tile t).ctxq.length ≤ 24)) ∧
  ((∀ (s : State) (th : Nat) (x : Thread) (cause i : Nat) (value : Word) (t c n : Nat),
    s.thread? th = some x → x.park = some (.trapHold cause value) → x.loc = .slot t c n → drained x.sb = true → s.heapFree t = some i →
    (s.tile t).trapq.length < 64 → (s.tile t).trapWait = [] → s.trappedEarlier t x = false →
    ∃ u r, exec (.trapHold th) s = .next u ∧ u.placeOf th = some (.heap t i false true) ∧ (u.tile t).trapq = (s.tile t).trapq ++ [r] ∧
      r.cause = cause ∧ r.eval = value ∧ r.epc = x.epc ∧ r.held = some i ∧ r.slot = n ∧ r.core = c ∧ r.tid = x.tid) ∧
  (∀ (s : State) (t i : Nat) (th : Thread) (h : Bool), th ∈ s.threads → th.loc = .heap t i h true →
    (∀ x ∈ s.threads, x.id = th.id ∨ (∃ h', x.loc = .heap t i h' true) → x = th) →
    (∀ r, s.residentAt t th.asid th.lgen th.ltn = some r → r.running = true → s.replayable t = [] → (s.tile t).ctxq.length < 32 →
      ∃ u, exec (.trelResume t i) s = .next u ∧ u.placeOf th.id = some (.queue t) ∧ (u.tile t).ctxq = (s.tile t).ctxq ++ [th.id]) ∧
    (∀ dst, ∃ u pk, exec (.trelDeliver t i dst) s = .next u ∧ u.packets = s.packets ++ [pk] ∧ pk.vc = 0 ∧ pk.dst = dst ∧
      pk.body = .context th.id ∧ u.placeOf th.id = some .fabric) ∧
    ∃ u, exec (.trelDiscard t i) s = .next u ∧ u.placeOf th.id = some .ended) ∧
  (∀ (s : State) (t n : Nat), n ≤ (s.tile t).trapq.length → (s.tile t).trapWait = [] →
    ∃ u, exec (.trqRetire t n) s = .next u ∧ (u.tile t).trapq = (s.tile t).trapq.drop n ∧
      (u.tile t).trapHead = ((s.tile t).trapHead + n) % 64))

-- slots, tasks and stealing (R69-R75, R228-R235)

/-- SLOT_FILL and OPERAND_CACHE_FILL (R70, R73, R75, R228): the lowest free general slot takes the gang's oldest queued context, in the core's turn, or else its
newest record, whose task starts at the record's PC under the gang's code with c1, c2 and c3 from the record; a filled operand ends the wait.
That the slot is the lowest is the model's choice of log 53, and that the task's number is the tile's count of tasks before it, the choice of log 58.
`spawn` pushes a record as the newest of its core's deque, with the target's address, its two operands and JC (R235); the two events of
the spill move the oldest 32 records of a full deque out for a push that waits, each with the stroke number it then carries (R334), and the newest back
for a pop that finds none (R230). -/
def Obligations.TasksAreScheduled : Prop :=
  ((∀ (s : State) (t core n credit : Nat) (more : List Nat) (r : Resid) (th : Thread),
    core < 8 → s.slotOwed t core = false → s.freeSlots t core = n :: more → s.chooseGang t core = some (r, credit) →
    s.queuedFor t core r = some th → s.fedNext t core = true →
    ∃ u, exec (.slotFill t core) s = .next u ∧ u.placeOf th.id = some (.slot t core n) ∧
      (u.tile t).ctxq = (s.tile t).ctxq.filter (· ≠ th.id) ∧ ((u.tile t).core core).rrPtr = r.idx ∧
      ((u.tile t).core core).credit = credit) ∧
  (∀ (s : State) (t core n credit : Nat) (more : List Nat) (r e : Resid) (g : Gang) (x : TaskRec) (rest : List TaskRec),
    core < 8 → s.slotOwed t core = false → s.freeSlots t core = n :: more → s.chooseGang t core = some (r, credit) →
    s.queuedFor t core r = none →
    takeNewest (fun x => x.inGang r.asid r.lgen) ((s.tile t).core core).deque = some (x, rest) → s.isPending x = false →
    s.gang? x.asid x.lgen = some g → (s.tile t).resid? x.asid x.lgen = some e →
    ∃ u y, exec (.slotFill t core) s = .next u ∧ ((u.tile t).core core).deque = rest ∧ u.others = s.others ++ [y] ∧
      y.loc = .slot t core n ∧ y.pcc = g.code.withCursor x.pc ∧ y.regs[1] = x.arg1 ∧ y.regs[2] = x.arg2 ∧ y.regs[3] = x.jc ∧
      y.tid = BitVec.ofNat 32 (0x80000000 + (s.tile t).tasks % 2 ^ 31) ∧ y.stat = 0 ∧ y.vl = 16 ∧ y.asid = g.asid ∧ y.ltn = e.ltn) ∧
  (∀ (s : State) (th : Nat), s.waitOf th = some (some .operand) →
    ∃ u, exec (.operandCacheFill th) s = .next u ∧ u.waitOf th = some none ∧ u.placeOf th = s.placeOf th)) ∧
  ((∀ (s : State) (p : Pfx) (a b : RegNo) (off : Word) (pc : VAddr), s.guardHolds p = true → s.thr.intervalOpen = false →
    checkCap (s.codeAt (s.target off)) 2 permX = .ok pc → ((s.tile s.tileNo).core s.coreNo).deque.length < 64 →
    ∃ t r, exec (.spawn p a b off) s = .next t ∧
      ((t.tile s.tileNo).core s.coreNo).deque = ((s.tile s.tileNo).core s.coreNo).deque ++ [r] ∧ r.pc = s.target off ∧ r.arg1 = s.reg a ∧
      r.arg2 = s.reg b ∧ r.jc = s.thr.jc ∧ r.asid = s.thr.asid ∧ r.lgen = s.thr.lgen ∧ s.Completes t [] [] (s.nextPc 1 p)) ∧
  (∀ (s : State) (t core : Nat), s.pushWaits t core = true → 64 ≤ ((s.tile t).core core).deque.length → ((s.tile t).core core).spill.length + 32 ≤ 4096 →
    ∃ u, exec (.dequeSpill t core) s = .next u ∧ ((u.tile t).core core).deque = ((s.tile t).core core).deque.drop 32 ∧
      ((u.tile t).core core).spill = ((s.tile t).core core).spill ++
        (((s.tile t).core core).deque.take 32).map (fun r => { r with stk := s.stkOf r.asid r.lgen }) ∧
      ((u.tile t).core core).count 70 = ((s.tile t).core core).count 70 + 32) ∧
  (∀ (s : State) (t core g : Nat), (∀ r ∈ ((s.tile t).core core).deque, gangKey r.asid r.lgen ≠ g) →
    (∃ r ∈ ((s.tile t).core core).spill, gangKey r.asid r.lgen = g) → ((s.tile t).core core).deque.length ≤ 32 →
    s.popFails t core g ((s.chooseGang t core).map (·.1)) (fun r => (s.queuedFor t core r).isSome) = true →
    ∃ u back, exec (.dequeRefill t core g) s = .next u ∧ back.length = min 32 ((s.tile t).core core).spill.length ∧
      ((u.tile t).core core).deque = back.map (fun r => { r with stk := 0 }) ++ ((s.tile t).core core).deque ∧
      ((u.tile t).core core).spill ++ back = ((s.tile t).core core).spill))

/-- Stealing (R229, R231, R232, R234): an idle core sends one request; the victim serves its oldest record over VC0 or refuses; a refusal, or
8,192 cycles without an answer, lets the next victim be asked; 256 cycles end a back-off; a record that arrives unasked is pushed, and one
that is awaited starts in the reserved slot.
Of what the rules leave open, it states the model's choices of log 53. -/
def Obligations.StealingRounds : Prop :=
  (∀ (s : State) (t core n : Nat) (more : List Nat) (r : Resid) (g : Gang) (x y : Steal) (victim : Ltn) (vc : Option Nat),
    core < 8 → ((s.tile t).core core).steal.waiting = none → ((s.tile t).core core).steal.backoff = none → (s.tile t).ctxq = [] →
    s.poppable t core = false → s.freeSlots t core = n :: more → s.roundGang t ((s.tile t).core core).steal = some (r, x) →
    s.gang? r.asid r.lgen = some g → nextVictim core g r x = (y, some (victim, vc)) →
    ∃ u m, exec (.stealStart t core) s = .next u ∧ u.steals = s.steals ++ [m] ∧ m.refusal = false ∧ m.thief = r.ltn ∧ m.thiefCore = core ∧
      m.victim = victim ∧ m.victimCore = vc ∧ m.asid = r.asid ∧ m.lgen = r.lgen ∧
      ((u.tile t).core core).steal.waiting = some m.id ∧ ((u.tile t).core core).steal.slot = n) ∧
  (∀ (s : State) (msg : Nat) (m : StealMsg), s.steals.find? (fun m => m.id = msg) = some m → m.refusal = false →
    s.stealInOrder m = true → s.stealWaits m = false →
    (s.victimCore m = none → ∃ u, exec (.stealRequest msg) s = .next u ∧
      u.steals = s.steals.filter (fun x => x.id ≠ m.id) ++ [{ m with refusal := true }]) ∧
    (∀ v c r rest, s.victimCore m = some (v, c, r, rest) → m.thief ≠ m.victim →
      ∃ u pk, exec (.stealRequest msg) s = .next u ∧ u.steals = s.steals.filter (fun x => x.id ≠ m.id) ∧
        u.packets = s.packets.filter (fun q => !q.carries m.id) ++ [pk] ∧ pk.vc = 0 ∧ pk.dst = m.thief ∧ 
        pk.body = .task { r with stk := 0 } m.thiefCore m.id ∧
        ((u.tile v).core c).deque = rest.deque ∧ ((u.tile v).core c).spill = rest.spill)) ∧
  (∀ (s : State) (msg t : Nat) (m : StealMsg), s.steals.find? (fun m => m.id = msg) = some m → m.refusal = true →
    s.stealInOrder m = true → s.siteOf m.thief = t → ((s.tile t).core m.thiefCore).steal.waiting = some m.id →
    ∃ u, exec (.stealRefusal msg) s = .next u ∧ ((u.tile t).core m.thiefCore).steal.waiting = none ∧
      ((u.tile t).core m.thiefCore).steal.asked = ((s.tile t).core m.thiefCore).steal.asked + 1) ∧
  (∀ (s : State) (t core : Nat), ((s.tile t).core core).steal.waiting.isSome = true →
    8192 ≤ s.time - ((s.tile t).core core).steal.sentAt →
    ∃ u, exec (.stealTimeout t core) s = .next u ∧ ((u.tile t).core core).steal.waiting = none ∧
      ((u.tile t).core core).steal.asked = ((s.tile t).core core).steal.asked + 1) ∧
  (∀ (s : State) (t core b : Nat), ((s.tile t).core core).steal.backoff = some b → 256 ≤ s.time - b →
    ∃ u, exec (.stealBackoffEnd t core) s = .next u ∧ ((u.tile t).core core).steal.backoff = none) ∧
  (∀ (s : State) (pk core req t : Nat) (p : Packet) (r : TaskRec) (e : Resid), s.Arrives pk p t → p.id = pk → pk < s.nextId →
    p.body = .task r core req → s.residentAt t p.asid p.lgen p.dst = some e → e.quenching = false →
    (s.heapFree t).isSome = true →
    (((s.tile t).core core).steal.waiting ≠ some req → ((s.tile t).core core).deque.length < 64 →
      ∃ u, exec (.taskRecordArrival pk) s = .next u ∧ ((u.tile t).core core).deque = ((s.tile t).core core).deque ++ [r] ∧
        ((u.tile t).core core).count 68 = ((s.tile t).core core).count 68 + 1 ∧ u.Acknowledged pk p 0) ∧
    (∀ g, ((s.tile t).core core).steal.waiting = some req →
      ((s.tile t).runners.any fun e => e.asid = r.asid && e.lgen = r.lgen) = true → s.gang? r.asid r.lgen = some g →
      ∃ u y, exec (.taskRecordArrival pk) s = .next u ∧ u.others = s.others ++ [y] ∧
        y.loc = .slot t core ((s.tile t).core core).steal.slot ∧ y.pcc = g.code.withCursor r.pc ∧ y.regs[1] = r.arg1 ∧
        y.regs[2] = r.arg2 ∧ y.regs[3] = r.jc ∧ u.Acknowledged pk p 0))

-- homes and store buffers (R110, R118, R164-R174, R206, R218, R256-R264, R335-R337)

/-- STORE_BUFFER_LEAVE (R256, R264, R337): a plain write homed on its own tile, whose conditions hold, is performed at its home: its bytes, no
other byte, and the entry is gone; one homed elsewhere leaves in a packet on VC1; a host write of a gang goes into its egress hold, once
no load of its tile is on its way to the same bridge (R417).
REMOTE_STORE, REMOTE_ATOMIC and PROXY_REQUEST at their home (R118, R164, R171, R173, R206): the write or the atomic is performed on the
word that the packet names, an atomic clears the tag of its granule and leaves the full/empty bit, no other byte changes, AOPS counts it and it is
acknowledged; a proxied load, state read or atomic is answered
with what the word held, and a synchronising operation whose condition does not hold joins the wait list. -/
def Obligations.StoresReachTheirHomes : Prop :=
  (∀ (s : State) (th seq n : Nat) (x : Thread) (pre rest : List SbItem) (data : Quad) (tag win : Bool) (va : VAddr) (h : Home) (o : Order)
    (sc : Scope), s.thread? th = some x → x.loc.onTile = true → s.bellEntry x = none → 0 < n → n ≤ 16 →
    splitUnsent x.sb = some (pre, .entry seq (.write n data tag) va h win o sc none, rest) →
    mayLeave x pre (.entry seq (.write n data tag) va h win o sc none) = true → unacked pre < 32 →
    (∀ t pa, h = .tile t pa x.ltn → s.writeWaits seq x.asid x.lgen pa n = none →
      (isVaultKey pa = true ∨ (s.tile (keySite pa)).owns (quarterOf pa) x.asid x.lgen = true) →
      ∃ u y, exec (.storeBufferLeave th) s = .next u ∧ u.bytes pa n = bytesOf n data.toNat ∧ s.MemoryKeptBut u pa n ∧
        u.thread? th = some y ∧ entryGone seq y.sb = true ∧ y.regs = x.regs ∧ y.pcc = x.pcc) ∧
    (∀ t pa name, h = .tile t pa name → name ≠ x.ltn →
      ∃ u y pk, exec (.storeBufferLeave th) s = .next u ∧ u.packets = s.packets ++ [pk] ∧ pk.vc = 1 ∧ pk.dst = name ∧
        pk.body = .store x.id seq (.write n data tag) va pa ∧ u.thread? th = some y ∧ unsent y.sb < unsent x.sb ∧ s.MemoryKept u) ∧
    (∀ port hpa g, h = .host port hpa → (s.packets.any fun q => q.src = x.ltn && q.dst = bridgeName port) = false →
      s.gang? x.asid x.lgen = some g → g.heldAt port + n ≤ 65536 →
      ∃ u y g', exec (.storeBufferLeave th) s = .next u ∧ u.gang? x.asid x.lgen = some g' ∧
        assocGet port [] g'.egress = assocGet port [] g.egress ++ [{ hpa := hpa, data := bytesOf n data.toNat, ep := false }] ∧
        u.thread? th = some y ∧ entryGone seq y.sb = true ∧ s.MemoryKept u)) ∧
  (∀ (s : State) (pk t th n pa : Nat) (p : Packet) (va : VAddr), s.Arrives pk p t → p.id = pk → pk < s.nextId → 0 < n → n ≤ 16 →
    (∀ r, s.residentAt t p.asid p.lgen p.dst = some r → r.quenching = false) → s.poisoned pa n = false →
    (isVaultKey pa = true ∨ (s.tile (keySite pa)).owns (quarterOf pa) p.asid p.lgen = true) →
    (∀ seq data tag, p.body = .store th seq (.write n data tag) va pa → s.writeWaits pk p.asid p.lgen pa n = none →
      ∃ u, exec (.remoteStore pk) s = .next u ∧ u.bytes pa n = bytesOf n data.toNat ∧ s.MemoryKeptBut u pa n ∧
        (u.tile t).count 52 = (s.tile t).count 52 + 1 ∧ u.Acknowledged pk p 0) ∧
    (∀ seq op b, op ≠ .cas → p.body = .store th seq (.atom op n b false) va pa → s.writeWaits pk p.asid p.lgen pa n = none →
      ∃ u, exec (.remoteAtomic pk) s = .next u ∧
        u.bytes pa n = bytesOf n (op.apply n (s.nat pa n) (b.toNat % 2 ^ (8 * n)) 0) ∧ s.MemoryKeptBut u pa n ∧
        u.tagAt pa = false ∧ u.fullAt pa = s.fullAt pa ∧
        (u.tile t).count 52 = (s.tile t).count 52 + 1 ∧ u.Acknowledged pk p 0) ∧
    (p.body = .proxyLoad th n va pa → s.readWaits pk pa n = none →
      ∃ u q, exec (.proxyRequest pk) s = .next u ∧ u.packet? pk = none ∧ q ∈ u.packets ∧ q.vc = 2 ∧ q.dst = p.src ∧
        q.body = .response th pk 0 (BitVec.ofNat 128 (s.nat pa n)) (s.tagAt pa) false va ∧ s.MemoryKept u) ∧
    (p.body = .proxyFer th va pa → s.readWaits pk pa 8 = none →
      ∃ u q, exec (.proxyRequest pk) s = .next u ∧ u.packet? pk = none ∧ q ∈ u.packets ∧ q.vc = 2 ∧ q.dst = p.src ∧
        q.body = .response th pk 0 (if s.fullAt pa then 1 else 0) false false va ∧ s.MemoryKept u) ∧
    (∀ op b cmp, op ≠ .cas → p.body = .proxyAtomic th op n va pa b cmp false → s.writeWaits pk p.asid p.lgen pa n = none →
      ∃ u q, exec (.proxyRequest pk) s = .next u ∧ u.packet? pk = none ∧ q ∈ u.packets ∧ q.vc = 2 ∧ q.dst = p.src ∧
        q.body = .response th pk 0 (BitVec.ofNat 128 (s.nat pa n)) false false va ∧
        u.bytes pa n = bytesOf n (op.apply n (s.nat pa n) (b.toNat % 2 ^ (8 * n)) (cmp.toNat % 2 ^ (8 * n))) ∧ s.MemoryKeptBut u pa n ∧
        u.tagAt pa = false ∧ u.fullAt pa = s.fullAt pa) ∧
    (∀ op data races, op < 4 → p.body = .proxySync th op va pa data races → keySite pa = t → s.readWaits pk pa 8 = none →
      s.writeWaits pk p.asid p.lgen pa 8 = none → s.fullAt pa = decide (op = 2) →
      (∀ w ∈ (s.tile t).waiters, w.pa = pa → (w.op = 2 ↔ op = 2)) → ((s.tile t).waiters.filter fun w => w.proxy.isSome).length < 128 →
      ∃ u w, exec (.proxyRequest pk) s = .next u ∧ (u.tile t).waiters = (s.tile t).waiters ++ [w] ∧ w.pa = pa ∧ w.th = th ∧
        w.proxy = some pk ∧ w.op = op ∧ s.MemoryKept u))

/-- PROXY_RESPONSE, PROXY_SYNC_RESEND and ACKNOWLEDGEMENT at the thread (R118, R174, R206, R207, R218): the data of a proxied integer load
reach its register and it retires; a refused request is issued again 64 cycles later; an acknowledged entry leaves the store buffer; what a
tile discarded is reported as 0x09.
SLICE_FILL_DONE, SNAPSHOT_COPY_DONE, ROLLBACK_LOSS_NOTICE and PATROL_SCRUB (R164, R167, R335, R336): two bad symbols poison the vault's
sector, beneath the line that the slice may hold.
Of what the rules leave open, it states the model's choices of log 51, log 54. -/
def Obligations.AnswersAndSlice : Prop :=
  ((∀ (s : State) (pk t th req : Nat) (p : Packet) (x : Thread) (w : Await) (data : Quad) (tag psn : Bool) (va : VAddr),
    s.Arrives pk p t → p.body = .response th req 0 data tag psn va → s.thread? th = some x → x.park = some (.proxy req w) → w.how = 0 →
    w.inc = none → x.tandem = none → (s.threads.map fun th => th.id).Nodup →
    ∃ u y, exec (.proxyResponse pk) s = .next u ∧ u.thread? th = some y ∧ (w.d ≠ 0 → y.regs[w.d.toNat] = .int (data.setWidth 64)) ∧
      y.pcc = x.pcc.withCursor (x.pc + BitVec.ofNat 48 w.len) ∧ y.retc = x.retc + 1 ∧ y.park = none ∧ u.packet? pk = none) ∧
  (∀ (s : State) (th since : Nat), s.waitOf th = some (some (.proxyRefused since)) → 64 ≤ s.time - since →
    ∃ u, exec (.proxySyncResend th) s = .next u ∧ u.waitOf th = some none) ∧
  (∀ (s : State) (pk t sent seq : Nat) (p : Packet) (x : Thread) (va : VAddr), s.Arrives pk p t → p.body = .ack sent 0 va →
    s.sender sent = some (x, seq) →
    ∃ u y, exec (.acknowledgement pk) s = .next u ∧ u.thread? x.id = some y ∧ entryGone seq y.sb = true ∧ u.packet? pk = none) ∧
  (∀ (s : State) (pk t sent : Nat) (p : Packet) (va : VAddr), s.Arrives pk p t → p.body = .ack sent 3 va → s.sender sent = none →
    (s.tile t).trapq.length < 64 → (s.tile t).trapWait = [] →
    ∃ u r, exec (.acknowledgement pk) s = .next u ∧ (u.tile t).trapq = (s.tile t).trapq ++ [r] ∧ r.cause = 0x09 ∧
      r.eval = BitVec.ofNat 64 p.src ∧ r.asid = p.asid ∧ r.lgen = p.lgen ∧ r.held = none)) ∧
  ((∀ (s : State) (t sb : Nat) (z : Super), (s.tile t).super? sb = some z → z.filling = true →
    ∃ u z', exec (.sliceFillDone t sb) s = .next u ∧ (u.tile t).super? sb = some z' ∧ z'.filling = false ∧
      z'.lines.length = z.lines.length ∧ (∀ l ∈ z'.lines, l.valid = true) ∧ s.MemoryKept u) ∧
  (∀ (s : State) (t block : Nat), (s.tile t).snapping.contains block = true → keySite (block * 1024) = t →
    ∃ u, exec (.snapshotCopyDone t block) s = .next u ∧ (u.tile t).snaps = (s.tile t).snaps ++ [s.block (block * 1024) 1024] ∧
      block ∉ (u.tile t).snapping ∧ s.MemoryKept u) ∧
  (∀ (s : State) (t asid lgen : Nat) (x : Nat × Tile) (r e : Resid), lgen < 65536 → x ∈ s.tiles → x.2.resid? asid lgen = some e →
    e.nrb = true → (s.tile t).resid? asid lgen = some r →
    ∃ u, exec (.rollbackLossNotice t (gangKey asid lgen)) s = .next u ∧
      (u.tile t).resid? asid lgen = some { r with nrb := true }) ∧
  (∀ (s : State) (t a n : Nat), a < 2 ^ 27 →
    ∃ u, exec (.patrolScrub t a n) s = .next u ∧ (n = 0 → u = s) ∧
      (n = 1 → (u.tile t).count 47 = (s.tile t).count 47 + 1 ∧ s.MemoryKept u) ∧
      (2 ≤ n → (u.tile t).count 48 = (s.tile t).count 48 + 1 ∧
        (((s.tile t).line a).valid = false → u.psnAt (vaultKey t a) = true ∧ s.MemoryKeptBut u (vaultKey t (a / 32 * 32)) 32) ∧
        (((s.tile t).line a).valid = true → s.MemoryKept u ∧
          (((s.tile t).line a).old = none → ∃ b, ((u.tile t).line a).old = some b ∧ b.psn[a % 128 / 32]? = some true)))))

-- special registers (R81, R82, R99, R108, R110, R169, R185, R216, R308, R311, R329, R377)

/-- `rds` reads a register into d and changes nothing else (R81, R82, R99, R108, R377): the thread's own registers at every level, those
numbered 32-127 from system level on; capability registers whole.  Every register but TMQ (54), whose read is TMQ_READ's, reads so.
`wrs` of the thread's own registers (R81, R82, R99): VL is clamped to 1-16,384, CARRY keeps bit 0 clear, and STAT and ESTAT change only in
bits [8] and [2:0]; every other special register, register, predicate and byte of memory is as before.  RETC counts the `wrs` that writes
it, the model's choice (log 37). -/
def Obligations.SpecialRegistersReadAndWritten : Prop :=
  (∀ (s : State) (p : Pfx) (d : RegNo), s.guardHolds p = true →
    (∀ n : BitVec 7, sregAssigned n.toNat = true → n.toNat ≠ 54 → (32 ≤ n.toNat → s.thr.priv ≠ 0) →
      ∃ t, exec (.rds p d n) s = .next t ∧
        t.reg d = readBack d (match s.capSreg n.toNat with | some r => r | none => .int (BitVec.ofNat 64 (s.sreg n.toNat))) ∧
        s.RegisterOnly t [d] [] (s.nextPc 0 p)) ∧
    ∀ q ∈ [ ((0 : Nat), Reg.int (s.statNow.setWidth 64)), (1, .int (s.thr.tid.setWidth 64)),
            (2, .int (BitVec.ofNat 64 (s.coreNo % 8 + s.thr.loc.slotNo * 256))), (3, .int (BitVec.ofNat 64 s.thr.ltn)),
            (10, .int (s.thr.vl.setWidth 64)), (11, .int (s.thr.fmt.setWidth 64)), (12, .int s.myTags.tags),
            (13, .int (s.thr.carry.setWidth 64)), (14, .int (s.thr.mbxn.setWidth 64)), (15, s.thr.jc), (16, .int (s.thr.migt.setWidth 64)),
            (18, .int s.thr.retc), (20, .int (s.thr.ecause.setWidth 64)), (21, .int s.thr.eval), (22, .int (s.thr.epc.setWidth 64)),
            (23, .int (s.thr.estat.setWidth 64)), (24, s.tvec), (25, .int (s.thr.seed.setWidth 64)), (26, .int (s.thr.fflg.setWidth 64)),
            (27, .int s.thr.gval), (40, .int ((s.tile s.tileNo).owner 0)), (41, .int ((s.tile s.tileNo).owner 1)),
            (42, .int ((s.tile s.tileNo).owner 2)), (43, .int ((s.tile s.tileNo).owner 3)), (47, .int ((s.tile s.tileNo).count 47)),
            (55, .int ((s.tile s.tileNo).count 55)), (61, .int ((s.tile s.tileNo).count 61)),
            (46, .int (((s.tile s.tileNo).core s.coreNo).count 46)), (72, .int s.myTags.ovf), (79, .int (s.tile s.tileNo).mat.mslot),
            (85, .int (s.tile s.tileNo).ev.qb), (93, (s.tile s.tileNo).svec), (94, (s.tile s.tileNo).spcc),
            (95, .int (s.tile s.tileNo).cxbase) ],
      (32 ≤ q.1 → s.thr.priv ≠ 0) →
      ∃ t, exec (.rds p d (BitVec.ofNat 7 q.1)) s = .next t ∧ t.reg d = readBack d q.2 ∧ s.RegisterOnly t [d] [] (s.nextPc 0 p)) ∧
  (∀ (s : State) (p : Pfx) (d : RegNo), s.guardHolds p = true →
    (∀ q ∈ [ ((10 : Nat), { s.thr.specials with vl := BitVec.ofNat 15 (min 16384 (max 1 (s.x d).toNat)) }),
             (11, { s.thr.specials with fmt := (s.x d).setWidth 19 }), (13, { s.thr.specials with carry := (s.x d).setWidth 16 &&& 0xFFFE }),
             (15, { s.thr.specials with jc := s.reg d }), (16, { s.thr.specials with migt := (s.x d).setWidth 8 }),
             (20, { s.thr.specials with ecause := (s.x d).setWidth 8 }), (21, { s.thr.specials with eval := s.x d }),
             (22, { s.thr.specials with epc := (s.x d).setWidth 48 }),
             (23, { s.thr.specials with estat := (s.thr.estat &&& 0x0F8) ||| ((s.x d).setWidth 9 &&& 0x107) }),
             (25, { s.thr.specials with seed := (s.x d).setWidth 32 }), (26, { s.thr.specials with fflg := (s.x d).setWidth 5 }),
             (14, { s.thr.specials with mbxn := (s.x d).setWidth 3 }), (27, { s.thr.specials with gval := s.x d }) ],
       (sregUserWrite q.1 = false → s.thr.priv ≠ 0) →
       ∃ t, exec (.wrs p d (BitVec.ofNat 7 q.1)) s = .next t ∧ t.thr.specials = q.2 ∧ s.Retires t (s.nextPc 0 p) ∧ s.RegsKept t [] ∧
         s.PredsKept t [] ∧ s.MemoryKept t ∧ t.thr.sb = s.thr.sb ∧ t.surroundings = s.surroundings) ∧
    ((sregUserWrite 18 = false → s.thr.priv ≠ 0) → ∃ t, exec (.wrs p d 18) s = .next t ∧ t.thr.retc = s.x d + 1 ∧ t.pc = s.nextPc 0 p ∧
      s.RegsKept t [] ∧ s.PredsKept t [] ∧ s.MemoryKept t ∧ t.thr.specials = s.thr.specials ∧ t.surroundings = s.surroundings) ∧
    (∃ t, exec (.wrs p d 0) s = .next t ∧ t.pc = s.nextPc 0 p ∧ t.thr.retc = s.thr.retc + 1 ∧ s.RegsKept t [] ∧ s.PredsKept t [] ∧
      s.MemoryKept t ∧ t.thr.specials = s.thr.specials ∧ t.surroundings = s.surroundings ∧
      ∀ k, k < 9 → k ≠ 3 → t.thr.stat.getLsbD k = if k ≤ 2 || k = 8 then (s.x d).getLsbD k else s.thr.stat.getLsbD k))

/-- A number that no rule assigns raises 0x01 at every level, for `rds` and `wrs`, and at user level 0x02 comes from a write of a register that R81
marks read and from either of those numbered from 32 on; from system level on, a write of one that no level may write raises 0x01 (R99, R40).  Every
such trap goes to system software: at user level the thread waits to be held for it, at system level it enters SVEC, and at firmware level the slot
stops.  No tandem interval is open. -/
def Obligations.SpecialRegisterTraps : Prop :=
  ∀ (s : State) (p : Pfx) (d : RegNo) (n : BitVec 7), s.thr.intervalOpen = false →
    (sregAssigned n.toNat = false → ∀ i ∈ [Instr.rds p d n, .wrs p d n], ∃ t, exec i s = .next t ∧ s.GoesToSystem t 0x01 (baseEval i)) ∧
    (n.toNat ≤ 27 → sregUserWrite n.toNat = false → s.thr.priv = 0 →
      ∃ t, exec (.wrs p d n) s = .next t ∧ s.GoesToSystem t 0x02 (baseEval (.wrs p d n))) ∧
    (sregAssigned n.toNat = true → 32 ≤ n.toNat → s.thr.priv = 0 →
      ∀ i ∈ [Instr.rds p d n, .wrs p d n], ∃ t, exec i s = .next t ∧ s.GoesToSystem t 0x02 (baseEval i)) ∧
    (sregAssigned n.toNat = true → sregNoWrite n.toNat = true → s.thr.priv ≠ 0 →
      ∃ t, exec (.wrs p d n) s = .next t ∧ s.GoesToSystem t 0x01 (baseEval (.wrs p d n)))

/-- QOWN_WRITE, QUARTER_SCRUB_DONE, EVOWN_WRITE and BANK_SCRUB_DONE (R106, R108-R110, R311): the fields written read back, a new owner starts a
scrub, which runs to its end, other units keep their records; the scrub leaves every byte of the quarter zero and its words empty, and no byte outside it changes.
That a write of an owner makes the gang resident is the model's choice of log 23; of what else the rules leave open, it states the choices of log 54.
EVQB_WRITE, MSLOT_WRITE, CXBASE_WRITE, RTDHI_WRITE to each of the three tables, and TMQ_READ where they are not refused (R185, R216, R308, R329,
R377).  That a miss which found TMQ full enters it as one leaves is the inference of log 52; of what else the rules leave open, it states the choices of
log 54. -/
def Obligations.TileRegisters : Prop :=
  ((∀ (s : State) (t n : Nat) (v : Word), n < 4 →
    ∃ u, exec (.qownWrite t n v) s = .next u ∧ (u.tile t).owner n &&& ownerMask = v &&& ownerMask ∧
      qownScrub ((u.tile t).owner n) = (qownScrub ((s.tile t).owner n) ||
        (qownV v && (qownAsid ((s.tile t).owner n) ≠ qownAsid v || qownGen ((s.tile t).owner n) ≠ qownGen v))) ∧
      (∀ m, m ≠ n → (u.tile t).owner m = (s.tile t).owner m) ∧
      (qownV v = true → ((u.tile t).resid? (qownAsid v) (qownGen v)).isSome = true) ∧ s.MemoryKept u) ∧
  (∀ (s : State) (t n : Nat), n < 4 → qownScrub ((s.tile t).owner n) = true →
    ∃ u, exec (.quarterScrubDone t n) s = .next u ∧ qownScrub ((u.tile t).owner n) = false ∧
      (∀ k b, k < 8 → b < 24576 → Memory.get u.mem (scratchKey t k (n * 768) b) = 0 ∧
        u.fullAt (scratchKey t k (n * 768) b) = false ∧ u.tagAt (scratchKey t k (n * 768) b) = false) ∧
      ∀ a, (∀ k, k < 8 → a < scratchKey t k (n * 768) 0 ∨ scratchKey t k (n * 768) 0 + 24576 ≤ a) → Memory.get u.mem a = Memory.get s.mem a) ∧
  (∀ (s : State) (t n : Nat) (v : Word), n < 4 →
    ∃ u, exec (.evownWrite t n v) s = .next u ∧ (u.tile t).ev.owner n &&& ownerMask = v &&& ownerMask ∧
      (∀ m, m ≠ n → (u.tile t).ev.owner m = (s.tile t).ev.owner m) ∧ s.MemoryKept u) ∧
  (∀ (s : State) (t n : Nat), n < 4 → qownScrub ((s.tile t).ev.owner n) = true →
    ∃ u, exec (.bankScrubDone t n) s = .next u ∧ qownScrub ((u.tile t).ev.owner n) = false ∧
      (∀ j, j / 16384 = n → assocGet j 0 (u.tile t).ev.acc = 0) ∧
      ∀ j, j / 16384 ≠ n → assocGet j 0 (u.tile t).ev.acc = assocGet j 0 (s.tile t).ev.acc)) ∧
  ((∀ (s : State) (t : Nat) (v : Word), (s.tile t).ev.queue = [] → (∀ n, n < 4 → qownV ((s.tile t).ev.owner n) = false) →
    wbits v 12 0 + 256 ≤ 7168 →
    ∃ u, exec (.evqbWrite t v) s = .next u ∧ (u.tile t).ev.qb = v &&& 0x8000000000001FFF ∧ s.MemoryKept u) ∧
  (∀ (s : State) (t : Nat) (v : Word) (r : Resid), (s.tile t).residOf (wbits v 27 16) = some r → wbits v 13 8 + wbits v 6 0 ≤ 64 →
    ∃ u e, exec (.mslotWrite t v) s = .next u ∧ (u.tile t).mat.mslot = v &&& 0x0FFF3F7F ∧ (u.tile t).resid? r.asid r.lgen = some e ∧
      e.slotFirst = wbits v 13 8 ∧ e.slotCount = wbits v 6 0 ∧ e.quarters = r.quarters) ∧
  (∀ (s : State) (t : Nat) (v : Word) (r : Resid), (s.tile t).residOf (wbits v 27 16) = some r →
    ∃ u e, exec (.cxbaseWrite t v) s = .next u ∧ (u.tile t).cxbase = v &&& 0x0FFF1FFF ∧ (u.tile t).resid? r.asid r.lgen = some e ∧
      e.cxbase = some (wbits v 12 0)) ∧
  (∀ (s : State) (t k : Nat) (v : Word) (g : Bool), ((s.tile t).count 62).getLsbD 9 = g → (s.tile t).gen ≠ g →
    wbits ((s.tile t).count 62) 8 7 = k → k < 3 → wbits ((s.tile t).count 62) 6 0 < tableSize k →
    ((s.tile t).banks.find? fun b => b.1 = g).isSome = true →
    ∃ u, exec (.rtdhiWrite t v) s = .next u ∧ (u.tile t).count 64 = v ∧ (u.tile t).gen = (s.tile t).gen ∧
      (u.tile t).bank (s.tile t).gen = (s.tile t).bank (s.tile t).gen ∧
      ((u.tile t).bank g).entry k (wbits ((s.tile t).count 62) 6 0) = (v ++ (s.tile t).count 63) &&& routeMask k ∧
      ∀ j i, (j ≠ k ∨ i ≠ wbits ((s.tile t).count 62) 6 0) → j < 3 →
        ((u.tile t).bank g).entry j i = ((s.tile t).bank g).entry j i) ∧
  (∀ (s : State) (d : RegNo) (m : Miss) (rest : List Miss), (s.tile s.tileNo).missq = m :: rest →
    ∃ u, exec (.tmqRead d) s = .next u ∧
      u.reg d = readBack d (.int (BitVec.ofNat 64 (2 ^ 63 + m.kind * 2 ^ 60 + m.asid * 2 ^ 48 + m.va))) ∧
      (u.tile s.tileNo).missq = rest ++ ((s.tile s.tileNo).missWait.filter (s.missAlive s.tileNo)).take 1 ∧ s.RegsKept u [d]) ∧
  (∀ (s : State) (d : RegNo), (s.tile s.tileNo).missq = [] →
    ∃ u, exec (.tmqRead d) s = .next u ∧ u.reg d = readBack d (.int 0) ∧ s.RegsKept u [d]))

-- control, traps and returns (R95-R98, R100, R101, R361-R369)

/-- `br`, `jmp` and `call` complete (R95-R97): taken, PCC's cursor becomes the instruction's address plus twice the offset, where code may
run; `call` leaves the next instruction's address, as PCC with that cursor, in c15; a branch not taken goes on.  The words of `br`, with up to four XI.
`jr`, `callr` and `ret` complete (R95, R98): to a register's capability, or to PCC with the cursor of an untagged register. -/
def Obligations.Transfers : Prop :=
  ((∀ (pp : BitVec 3) (n : BitVec 1) (o : BitVec 6) (xs : List (BitVec 10)), xs.length ≤ 4 →
    decode (xs.map (fun e => 0x3C#6 ++ e) ++ [0x2E#6 ++ (pp ++ n ++ o)]) =
      .ok (.br { Pfx.none with xi := xs.length } pp (decide (n = 1))
        ((BitVec.ofNat (10 * xs.length + 6) (xs.foldl (fun v e => v * 1024 + e.toNat) 0 * 64 + o.toNat)).signExtend 64)) (xs.length + 1)) ∧
  (∀ (s : State) (p : Pfx) (pp : PredNo) (n : Bool) (off : Word), s.guardHolds p = true →
    ((s.pred pp != n) = false → ∃ t, exec (.br p pp n off) s = .next t ∧ s.RegisterOnly t [] [] (s.nextPc 0 p)) ∧
    ((s.thr.pcc.withCursor (s.pc + 2 * off.setWidth 48)).Executable →
      ((s.pred pp != n) = true →
        ∃ t, exec (.br p pp n off) s = .next t ∧ s.RegisterOnly t [] [] (s.pc + 2 * off.setWidth 48)) ∧
      (∃ t, exec (.jmp p off) s = .next t ∧ s.RegisterOnly t [] [] (s.pc + 2 * off.setWidth 48)) ∧
      ∃ t, exec (.call p off) s = .next t ∧ s.RegisterOnly t [15] [] (s.pc + 2 * off.setWidth 48) ∧
        t.reg 15 = s.thr.pcc.withCursor (s.nextPc 0 p)))) ∧
  (∀ (s : State) (p : Pfx) (a : RegNo) (c : Reg), s.guardHolds p = true → c.Executable →
    (c = (if (s.reg a).tag then s.reg a else s.thr.pcc.withCursor (s.reg a).cursor) →
      (∃ t, exec (.jr p a) s = .next t ∧ s.GoesTo t c []) ∧
      ∃ t, exec (.callr p a) s = .next t ∧ s.GoesTo t c [15] ∧ t.reg 15 = s.thr.pcc.withCursor (s.nextPc 0 p)) ∧
    (c = (if (s.reg 15).tag then s.reg 15 else s.thr.pcc.withCursor (s.reg 15).cursor) →
      ∃ t, exec (.ret p) s = .next t ∧ s.GoesTo t c []))

/-- A transfer to a place where code may not run traps with CheckCap's cause, and nothing else happens, c15 included (R95-R98): every transfer, a
`br` where it is taken, through a tagged register, through PCC with the cursor of an untagged one, or relative to PCC; at user level with an executable
TVEC, the causes in CheckCap's order. -/
def Obligations.TransferChecksInOrder : Prop :=
  ∀ (s : State) (p : Pfx) (i : Instr) (c : Reg), s.guardHolds p = true → s.thr.priv = 0 → s.thr.intervalOpen = false → s.tvec.Executable →
    ((∃ a, (i = .jr p a ∨ i = .callr p a) ∧ c = (if (s.reg a).tag then s.reg a else s.thr.pcc.withCursor (s.reg a).cursor)) ∨
     (i = .ret p ∧ c = (if (s.reg 15).tag then s.reg 15 else s.thr.pcc.withCursor (s.reg 15).cursor)) ∨
     (∃ off, (i = .jmp p off ∨ i = .call p off ∨ ∃ pp n, i = .br p pp n off ∧ (s.pred pp != n) = true) ∧
       c = s.thr.pcc.withCursor (s.pc + 2 * off.setWidth 48))) →
    (c.tag = false → ∃ t, exec i s = .next t ∧ s.EntersTvec t 0x03 0) ∧
    (c.tag = true → c.can permX = false → ∃ t, exec i s = .next t ∧ s.EntersTvec t 0x05 (c.cursor.setWidth 64)) ∧
    (c.tag = true → c.can permX = true → (c.cursor.toNat < c.base ∨ c.limit < c.cursor.toNat + 2 ∨ 2 ^ 48 < c.cursor.toNat + 2) →
      ∃ t, exec i s = .next t ∧ s.EntersTvec t 0x04 (c.cursor.setWidth 64)) ∧
    (c.tag = true → c.can permX = true → c.base ≤ c.cursor.toNat → c.cursor.toNat + 2 ≤ c.limit → c.cursor.toNat + 2 ≤ 2 ^ 48 →
      c.cursor.toNat % 2 = 1 → ∃ t, exec i s = .next t ∧ s.EntersTvec t 0x06 (c.cursor.setWidth 64))

/-- `trap` and `brk` are taken at TVEC from user level, with ECAUSE 0x10 or 0x0F, the code in EVAL, EPC at the instruction, ESTAT = STAT
(R101, R361, R362, R368); at system level at SVEC, PCC saved in SPCC (R366).  The words of `trap`, with up to four XI.
`eret` (R369): to the gang's code, or SPCC's where ESTAT.PRIV is not 0, with the cursor EPC, where code may run; PRIV, MTRAP, SR and the
rounding mode come from ESTAT and of the rest of STAT only PIN may change; it never raises the level. -/
def Obligations.TrapsEnterAndReturn : Prop :=
  ((∀ (c : BitVec 10) (xs : List (BitVec 10)), xs.length ≤ 4 →
    decode (xs.map (fun e => 0x3C#6 ++ e) ++ [0x37#6 ++ c]) =
      .ok (.trap { Pfx.none with xi := xs.length } (BitVec.ofNat 64 (xs.foldl (fun v e => v * 1024 + e.toNat) 0 * 1024 + c.toNat)))
        (xs.length + 1)) ∧
  (∀ (s : State) (p : Pfx) (code : Word), s.guardHolds p = true → s.thr.intervalOpen = false →
    (s.thr.priv = 0 → s.tvec.Executable →
      (∃ t, exec (.trap p code) s = .next t ∧ s.EntersTvec t 0x10 code) ∧ ∃ t, exec (.brk p code) s = .next t ∧ s.EntersTvec t 0x0F code) ∧
    (s.thr.priv = 1 → (s.tile s.tileNo).svec.Executable →
      ∀ q ∈ [(Instr.trap p code, 0x10), (.brk p code, 0x0F)],
        ∃ t, exec q.1 s = .next t ∧ s.TrapSaved t q.2 code ∧ t.thr.pcc = (s.tile s.tileNo).svec ∧
          (t.tile s.tileNo).spcc = s.thr.pcc ∧ t.thr.stat = s.thr.stat ∧ t.thr.regs = s.thr.regs ∧ t.thr.preds = s.thr.preds ∧
          t.thr.retc = s.thr.retc ∧ s.MemoryKept t))) ∧
  (∀ (s : State) (p : Pfx), s.guardHolds p = true →
    ((s.thr.estat.extractLsb' 6 2).toNat ≤ s.thr.priv →
      ((if s.thr.estat.extractLsb' 6 2 = 0 then s.codeCap else (s.tile s.tileNo).spcc).withCursor s.thr.epc).Executable →
      ∃ t, exec (.eret p) s = .next t ∧
        t.thr.pcc = (if s.thr.estat.extractLsb' 6 2 = 0 then s.codeCap else (s.tile s.tileNo).spcc).withCursor s.thr.epc ∧
        t.thr.priv = (s.thr.estat.extractLsb' 6 2).toNat ∧
        (∀ k, k < 9 → k ≠ 3 → t.thr.stat.getLsbD k = if k = 4 || k = 5 then s.thr.stat.getLsbD k else s.thr.estat.getLsbD k) ∧
        s.RegsKept t [] ∧ s.PredsKept t [] ∧ t.thr.specials = s.thr.specials ∧ s.MemoryKept t ∧ t.surroundings = s.surroundings ∧
        t.thr.retc = s.thr.retc + 1) ∧
    (s.thr.priv < (s.thr.estat.extractLsb' 6 2).toNat → s.thr.priv = 0 → s.thr.intervalOpen = false →
      ∃ t, exec (.eret p) s = .next t ∧ s.TrapSaved t 0x02 (baseEval (.eret p)) ∧ t.thr.stat = s.thr.stat ∧ t.thr.retc = s.thr.retc))

/-- `yield` (R100): with no context of a resident gang queued, and for a coupled thread or one outside a compute core's general slots also with one,
it only retires; otherwise the thread goes to the queue's tail with its whole state, which the model lets it do at any length of the queue, the
choice of log 37.
`pin`, `unpin` and `fence` (R222, R223, R259): STAT.PIN is set or cleared, but a handler stays pinned; an acquire fence retires, a release
fence leaves a marker of its scope behind the store buffer's entries, and an SC fence retires once every entry of its scope is acknowledged
(with no XM: every entry), and parks the thread until then.  The words of `pin` and `unpin`, with a guard and no other prefix; PINX, PINC and SHORT
(R223): nothing that retires counts PINC under PINX, and `pin` and `unpin` leave the store buffer and every packet on its way as they are. -/
def Obligations.YieldPinsAndFences : Prop :=
  (∀ (s : State) (p : Pfx), s.guardHolds p = true → s.thr.intervalOpen = false →
    ((∀ id ∈ (s.tile s.tileNo).ctxq, ∀ th, s.thread? id = some th → (s.tile s.tileNo).resid? th.asid th.lgen = none) →
      ∃ t, exec (.yield p) s = .next t ∧ s.RegisterOnly t [] [] (s.nextPc 0 p)) ∧
    (s.thr.tandem ≠ none ∨ (∀ u c n, s.thr.loc = .slot u c n → 8 ≤ c ∨ n < 2) →
      ∃ t, exec (.yield p) s = .next t ∧ s.RegisterOnly t [] [] (s.nextPc 0 p)) ∧
    (∀ u c n id th, s.thr.loc = .slot u c n → c < 8 → 2 ≤ n → s.thr.tandem = none → id ∈ (s.tile u).ctxq → s.thread? id = some th →
      ((s.tile u).resid? th.asid th.lgen).isSome = true →
      ∃ t, exec (.yield p) s = .next t ∧ t.thr.loc = .queue u ∧ (t.tile u).ctxq = (s.tile u).ctxq ++ [s.thr.id] ∧
        t.pc = s.nextPc 0 p ∧ t.thr.retc = s.thr.retc + 1 ∧ s.RegsKept t [] ∧ s.PredsKept t [] ∧ t.thr.specials = s.thr.specials ∧
        t.thr.sb = s.thr.sb ∧ s.MemoryKept t)) ∧
  ((∀ (g : BitVec 3) (n : BitVec 1) (c : BitVec 10), ∀ q ∈ [(0x22#6, Instr.pin), (0x23, Instr.unpin)],
    decode [0xF900, q.1 ++ 0#10] = .ok (q.2 .none) 2 ∧
    decode [0xF900, 0x3D#6 ++ (0#3 ++ g ++ n ++ 0#3), q.1 ++ 0#10] = .ok (q.2 { Pfx.none with xr := true, guard := g, neg := decide (n = 1) }) 3 ∧
    (c ≠ 0 → ∃ e, decode [0xF900, q.1 ++ c] = .bad e) ∧
    (∀ h l : BitVec 3, (h ≠ 0 ∨ l ≠ 0) → ∃ e, decode [0xF900, 0x3D#6 ++ (h ++ g ++ n ++ l), q.1 ++ 0#10] = .bad e) ∧
    (∃ e, decode [0xF900, 0x3C#6 ++ c, q.1 ++ 0#10] = .bad e) ∧ ∃ e, decode [0xF900, 0x3F#6 ++ c, q.1 ++ 0#10] = .bad e) ∧
  (∀ (th : Thread), (th.pinx = true → th.countRetired.pinc = th.pinc ∧ th.countRetired.stat = th.stat) ∧
    (th.pinx = false → th.pinned = true → th.pinc ≠ 0 →
      th.countRetired.pinc = th.pinc - 1 ∧ (th.countRetired.pinned = false ↔ th.pinc = 1))) ∧
  (∀ (s : State) (pg : Nat) (p : Pfx) (c : Reg), s.thr.pinx = true → (s.retire pg p).thr.pinc = s.thr.pinc ∧
    (checkCap c 2 permX = .ok c.cursor → (s.transfer c).thr.pinc = s.thr.pinc)) ∧
  (∀ (s : State) (p : Pfx) (sc : Scope), s.guardHolds p = true →
    (∃ t, exec (.pin p) s = .next t ∧ t.thr.pinned = true ∧ t.thr.pinx = true ∧ t.thr.short = 0 ∧
      (∀ k, k ≠ 3 → t.thr.stat.getLsbD k = s.thr.stat.getLsbD k) ∧ t.thr.sb = s.thr.sb ∧ t.pc = s.nextPc 1 p ∧ t.thr.retc = s.thr.retc + 1 ∧ s.RegsKept t [] ∧
      s.PredsKept t [] ∧ t.thr.specials = s.thr.specials ∧ s.MemoryKept t ∧ t.surroundings = s.surroundings) ∧
    (∃ t, exec (.unpin p) s = .next t ∧ (s.thr.isHandler = false → t.thr.pinned = false ∧ t.thr.pinx = false ∧ t.thr.pinc = 0) ∧
      (s.thr.isHandler = true → t.thr.pinx = s.thr.pinx ∧ (s.thr.pinx = true → t.thr.pinned = s.thr.pinned ∧ t.thr.pinc = s.thr.pinc)) ∧
      t.thr.short = 0 ∧ (∀ k, k ≠ 3 → t.thr.stat.getLsbD k = s.thr.stat.getLsbD k) ∧ t.thr.sb = s.thr.sb ∧ t.pc = s.nextPc 1 p ∧
      t.thr.retc = s.thr.retc + 1 ∧ s.RegsKept t [] ∧ s.PredsKept t [] ∧ t.thr.specials = s.thr.specials ∧ s.MemoryKept t ∧
      t.surroundings = s.surroundings) ∧
    (∃ t, exec (.fence p .acquire sc) s = .next t ∧ s.RegisterOnly t [] [] (s.nextPc 1 p)) ∧
    (∃ t, exec (.fence p .release sc) s = .next t ∧ s.Completes t [] [] (s.nextPc 1 p) ∧
      t.thr.sb = s.thr.sb ++ [.marker sc s.tileNo] ∧ t.surroundings = s.surroundings) ∧
    (ackedIn s.thr.ltn sc s.thr.sb = true → ∃ t, exec (.fence p .sc sc) s = .next t ∧ s.RegisterOnly t [] [] (s.nextPc 1 p)) ∧
    (drained s.thr.sb = true → ∃ t, exec (.fence p .plain sc) s = .next t ∧ s.RegisterOnly t [] [] (s.nextPc 1 p)) ∧
    (drained s.thr.sb = false →
      ∃ t, exec (.fence p .plain sc) s = .next t ∧ t.thr.park = some (.acked .system) ∧ t.thr.pcc = s.thr.pcc ∧ t.thr.retc = s.thr.retc) ∧
    (ackedIn s.thr.ltn sc s.thr.sb = false →
      ∃ t, exec (.fence p .sc sc) s = .next t ∧ t.thr.park = some (.acked sc) ∧ t.thr.pcc = s.thr.pcc ∧ t.thr.retc = s.thr.retc)))

-- loads, stores, synchronisation and atomics (R107, R112-R126, R170-R176, R222, R236-R238, R257)

/-- Loads from the local window (R107, R119, R121-R123): with the access granted, no buffered entry touching the bytes and no poison, `ld` reads
the bytes little-endian, zero-extended, `ld.q` all 16 untagged, `ldc` with the granule's tag where LC is held, and `ldp` then moves its address
register; nothing else changes, and no byte of memory does. -/
def Obligations.WindowLoads : Prop :=
  ∀ (s : State) (p : Pfx) (d a : RegNo) (imm : Word) (o : Order) (sc : Scope), s.guardHolds p = true →
    (o = .sc → ackedIn s.thr.ltn sc s.thr.sb = true) →
    (∀ q ∈ [ (Instr.ldB p d a imm o sc, 1), (.ldH p d a imm o sc, 2), (.ldW p d a imm o sc, 4), (.ldD p d a imm o sc, 8) ],
       ((s.reg a).at (imm * BitVec.ofNat 64 q.2)).Covers q.2 permR →
       s.InWindow ((s.reg a).at (imm * BitVec.ofNat 64 q.2)).cursor q.2 →
       (∀ x ∈ s.thr.sb, x.overlaps (s.windowAt ((s.reg a).at (imm * BitVec.ofNat 64 q.2)).cursor) q.2 = false) →
       s.poisoned (s.windowAt ((s.reg a).at (imm * BitVec.ofNat 64 q.2)).cursor) q.2 = false →
       ∃ t, exec q.1 s = .next t ∧
         t.reg d = readBack d (.int (BitVec.ofNat 64 (s.nat (s.windowAt ((s.reg a).at (imm * BitVec.ofNat 64 q.2)).cursor) q.2))) ∧
         s.RegisterOnly t [d] [] (s.nextPc 0 p)) ∧
    (((s.reg a).at (imm * 16)).Covers 16 permR → s.InWindow ((s.reg a).at (imm * 16)).cursor 16 →
      (∀ x ∈ s.thr.sb, x.overlaps (s.windowAt ((s.reg a).at (imm * 16)).cursor) 16 = false) →
      s.poisoned (s.windowAt ((s.reg a).at (imm * 16)).cursor) 16 = false →
      (∃ t, exec (.ldQ p d a imm o sc) s = .next t ∧
        t.reg d = readBack d { tag := false, bits := BitVec.ofNat 128 (s.nat (s.windowAt ((s.reg a).at (imm * 16)).cursor) 16) } ∧
        s.RegisterOnly t [d] [] (s.nextPc 0 p)) ∧
      ∃ t, exec (.ldc p d a imm o sc) s = .next t ∧
        t.reg d = readBack d { tag := s.tagAt (s.windowAt ((s.reg a).at (imm * 16)).cursor) && (s.reg a).can permLC,
                               bits := BitVec.ofNat 128 (s.nat (s.windowAt ((s.reg a).at (imm * 16)).cursor) 16) } ∧
        s.RegisterOnly t [d] [] (s.nextPc 1 p)) ∧
    (d ≠ a → (s.reg a).Covers 8 permR → s.InWindow (s.reg a).cursor 8 →
      (∀ x ∈ s.thr.sb, x.overlaps (s.windowAt (s.reg a).cursor) 8 = false) → s.poisoned (s.windowAt (s.reg a).cursor) 8 = false →
      ∃ t, exec (.ldp p d a imm o sc) s = .next t ∧
        t.reg d = readBack d (.int (BitVec.ofNat 64 (s.nat (s.windowAt (s.reg a).cursor) 8))) ∧
        t.reg a = (s.reg a).withCursor ((s.reg a).cursor + (imm * 8).setWidth 48) ∧ s.RegisterOnly t [d, a] [] (s.nextPc 0 p))

/-- A load whose home, by whatever way its address is translated, is a vault byte of the thread's own tile (R119, R121, R183): where step 7 and 8 of
R119 lead to that home in state s' and its line is in the slice, the value is the memory's; only d changes from s', and in
the slice the order of use (R164). -/
def Obligations.VaultLoads : Prop :=
  ∀ (s s' : State) (p : Pfx) (d a : RegNo) (imm : Word) (sc : Scope) (u pa : Nat), s.guardHolds p = true →
    ∀ q ∈ [ (Instr.ldB p d a imm .plain sc, 1), (.ldH p d a imm .plain sc, 2), (.ldW p d a imm .plain sc, 4), (.ldD p d a imm .plain sc, 8) ],
      ((s.reg a).at (imm * BitVec.ofNat 64 q.2)).Covers q.2 permR →
      (∀ k, s.withHome ((s.reg a).at (imm * BitVec.ofNat 64 q.2)).cursor q.2 0 false .open k = k s' (.tile u pa s'.thr.ltn)) →
      s'.readWaits s'.thr.id pa q.2 = none → (∀ x ∈ s'.thr.sb, x.overlaps pa q.2 = false) → s'.poisoned pa q.2 = false →
      ∃ t, exec q.1 s = .next t ∧ t.reg d = readBack d (.int (BitVec.ofNat 64 (s'.nat pa q.2))) ∧
        (s'.throughSlice s'.thr.id pa q.2).RegisterOnly t [d] [] (s'.nextPc 0 p)

/-- Stores to the local window (R120-R123): the entry with the data goes to the tail of the store buffer while fewer than 8 have not left;
`stc` of a tagged value carries its tag, `stp` then moves its address register; memory is untouched until the entry leaves. -/
def Obligations.WindowStores : Prop :=
  ∀ (s : State) (p : Pfx) (d a : RegNo) (imm : Word) (o : Order) (sc : Scope), s.guardHolds p = true → unsent s.thr.sb < 8 →
    (∀ q ∈ [ (Instr.stB p d a imm o sc, 1), (.stH p d a imm o sc, 2), (.stW p d a imm o sc, 4), (.stD p d a imm o sc, 8),
             (.stQ p d a imm o sc, 16) ],
       ((s.reg a).at (imm * BitVec.ofNat 64 q.2)).Covers q.2 permW →
       s.InWindow ((s.reg a).at (imm * BitVec.ofNat 64 q.2)).cursor q.2 →
       ∃ t seq, exec q.1 s = .next t ∧ s.Completes t [] [] (s.nextPc 0 p) ∧ t.surroundings = s.surroundings ∧
         t.thr.sb = s.thr.sb ++ [.entry seq (.write q.2 (s.reg d).bits false) ((s.reg a).at (imm * BitVec.ofNat 64 q.2)).cursor
           (.tile s.tileNo (s.windowAt ((s.reg a).at (imm * BitVec.ofNat 64 q.2)).cursor) s.thr.ltn) true o sc none]) ∧
    (((s.reg a).at (imm * 16)).Covers 16 (if (s.reg d).tag then permW ||| permSC else permW) →
      s.InWindow ((s.reg a).at (imm * 16)).cursor 16 →
      ∃ t seq, exec (.stc p d a imm o sc) s = .next t ∧ s.Completes t [] [] (s.nextPc 1 p) ∧ t.surroundings = s.surroundings ∧
        t.thr.sb = s.thr.sb ++ [.entry seq (.write 16 (s.reg d).bits (s.reg d).tag) ((s.reg a).at (imm * 16)).cursor
          (.tile s.tileNo (s.windowAt ((s.reg a).at (imm * 16)).cursor) s.thr.ltn) true o sc none]) ∧
    ((s.reg a).Covers 8 permW → s.InWindow (s.reg a).cursor 8 →
      ∃ t seq, exec (.stp p d a imm o sc) s = .next t ∧ s.Completes t [a] [] (s.nextPc 0 p) ∧ t.surroundings = s.surroundings ∧
        t.reg a = (s.reg a).withCursor ((s.reg a).cursor + (imm * 8).setWidth 48) ∧
        t.thr.sb = s.thr.sb ++ [.entry seq (.write 8 (s.reg d).bits false) (s.reg a).cursor
          (.tile s.tileNo (s.windowAt (s.reg a).cursor) s.thr.ltn) true o sc none])

/-- A load after a store of the same 8 bytes by the same thread gives the value stored before the entry has left, whatever other stores wait in the
buffer (R120): for a window address, with no atomic in the buffer. -/
def Obligations.StoreThenLoadForwards : Prop :=
  ∀ (s t u : State) (p q : Pfx) (d e a : RegNo) (imm : Word), s.guardHolds p = true → t.guardHolds q = true → e ≠ 0 → a ≠ 0 →
    unsent s.thr.sb < 8 → (∀ x ∈ s.thr.sb, x.isAtomic = false) → ((s.reg a).at (imm * 8)).Covers 8 (permR ||| permW) → s.InWindow ((s.reg a).at (imm * 8)).cursor 8 →
    exec (.stD p d a imm .plain .tile) s = .next t → exec (.ldD q e a imm .plain .tile) t = .next u →
    u.reg e = .int (s.x d) ∧ ∀ r, r ≠ e → u.reg r = s.reg r

/-- CheckCap's tests for a load and a store come in the order tag, permission, span, alignment, and the first that fails is raised with nothing else
done (R8, R119, R361): at user level, with an executable TVEC. -/
def Obligations.AccessChecksInOrder : Prop :=
  ∀ (s : State) (p : Pfx) (d a : RegNo) (imm : Word) (o : Order) (sc : Scope), s.guardHolds p = true → s.thr.priv = 0 →
    s.thr.intervalOpen = false → s.tvec.Executable →
    ∀ q ∈ [ (Instr.ldB p d a imm o sc, 1, permR), (.ldH p d a imm o sc, 2, permR), (.ldW p d a imm o sc, 4, permR),
            (.ldD p d a imm o sc, 8, permR), (.ldQ p d a imm o sc, 16, permR), (.stB p d a imm o sc, 1, permW),
            (.stH p d a imm o sc, 2, permW), (.stW p d a imm o sc, 4, permW), (.stD p d a imm o sc, 8, permW),
            (.stQ p d a imm o sc, 16, permW) ],
      let c := (s.reg a).at (imm * BitVec.ofNat 64 q.2.1)
      let v : Word := c.cursor.setWidth 64
      ((s.reg a).tag = false → ∃ t, exec q.1 s = .next t ∧ s.EntersTvec t 0x03 0) ∧
      ((s.reg a).tag = true → (s.reg a).can q.2.2 = false → ∃ t, exec q.1 s = .next t ∧ s.EntersTvec t 0x05 v) ∧
      ((s.reg a).tag = true → (s.reg a).can q.2.2 = true →
        (c.cursor.toNat < c.base ∨ c.limit < c.cursor.toNat + q.2.1 ∨ 2 ^ 48 < c.cursor.toNat + q.2.1) →
        ∃ t, exec q.1 s = .next t ∧ s.EntersTvec t 0x04 v) ∧
      ((s.reg a).tag = true → (s.reg a).can q.2.2 = true → c.base ≤ c.cursor.toNat → c.cursor.toNat + q.2.1 ≤ c.limit →
        c.cursor.toNat + q.2.1 ≤ 2 ^ 48 → c.cursor.toNat % q.2.1 ≠ 0 →
        ∃ t, exec q.1 s = .next t ∧ s.EntersTvec t 0x06 v)

/-- Full/empty operations on a word of the local window that the gang owns, with no other waiter for the word and nothing to wait for (R114, R115,
R124, R238): `lds` takes the value of a full word and empties it, `ldk` takes it and leaves it full, `sts` fills an empty word with d, and `join`
goes on when the word is full; no other word changes. -/
def Obligations.SynchronisingAccesses : Prop :=
  ∀ (s : State) (p : Pfx) (d a : RegNo) (imm : Word) (o : Order) (sc : Scope) (c : Reg) (pa : Nat), s.guardHolds p = true →
    s.thr.intervalOpen = false → drained s.thr.sb = true → s.InWindow c.cursor 8 → pa = s.windowAt c.cursor →
    (∀ w ∈ (s.tile s.tileNo).waiters, w.pa ≠ pa) → (s.tile (keySite pa)).owns (quarterOf pa) s.thr.asid s.thr.lgen = true →
    keySite pa = s.tileNo → s.poisoned pa 8 = false → s.writeWaits s.thr.id s.thr.asid s.thr.lgen pa 8 = none →
    (c = (s.reg a).at (imm * 8) → c.Covers 8 (permR ||| permSYN) → s.fullAt pa = true →
      (∃ t, exec (.lds p d a imm o sc) s = .next t ∧ t.reg d = readBack d (.int (BitVec.ofNat 64 (s.nat pa 8))) ∧ t.fullAt pa = false ∧
        s.Retires t (s.nextPc 1 p) ∧ s.RegsKept t [d] ∧ s.PredsKept t [] ∧ t.thr.specials = s.thr.specials ∧ s.MemoryKeptBut t pa 8 ∧
        t.mem = s.mem) ∧
      ∃ t, exec (.ldk p d a imm o sc) s = .next t ∧ t.reg d = readBack d (.int (BitVec.ofNat 64 (s.nat pa 8))) ∧
        s.Completes t [d] [] (s.nextPc 1 p)) ∧
    (c = (s.reg a).at (imm * 8) → c.Covers 8 (permW ||| permSYN) → s.fullAt pa = false →
      ∃ t, exec (.sts p d a imm o sc) s = .next t ∧ t.bytes pa 8 = bytesOf 8 (s.x d).toNat ∧ t.fullAt pa = true ∧
        s.Retires t (s.nextPc 1 p) ∧ s.RegsKept t [] ∧ s.PredsKept t [] ∧ t.thr.specials = s.thr.specials ∧ s.MemoryKeptBut t pa 8) ∧
    (c = (s.reg a).at 0 → c.Covers 8 (permR ||| permSYN) → s.fullAt pa = true →
      ∃ t, exec (.join p a) s = .next t ∧ s.Completes t [] [] (s.nextPc 1 p))

/-- `lds`, `ldk`, `sts` and `join` wait in their word's list while its state is not theirs, having done nothing (R115, R124, R238). -/
def Obligations.SynchronisingAccessesWait : Prop :=
  ∀ (s : State) (p : Pfx) (d a : RegNo) (imm : Word) (o : Order) (sc : Scope) (pa : Nat), s.guardHolds p = true →
    s.thr.intervalOpen = false → drained s.thr.sb = true →
    ∀ q ∈ [ (Instr.lds p d a imm o sc, imm, permR ||| permSYN, false, 0), (.ldk p d a imm o sc, imm, permR ||| permSYN, false, 1),
            (.sts p d a imm o sc, imm, permW ||| permSYN, true, 2), (.join p a, 0, permR ||| permSYN, false, 3) ],
    s.InWindow ((s.reg a).at (q.2.1 * 8)).cursor 8 → pa = s.windowAt ((s.reg a).at (q.2.1 * 8)).cursor → keySite pa = s.tileNo → (∀ w ∈ (s.tile s.tileNo).waiters, w.pa ≠ pa) →
    s.writeWaits s.thr.id s.thr.asid s.thr.lgen pa 8 = none →
      ((s.reg a).at (q.2.1 * 8)).Covers 8 q.2.2.1 → s.fullAt pa = q.2.2.2.1 →
      ∃ t w, exec q.1 s = .next t ∧ t.thr.park = some (.sync pa) ∧ (t.tile s.tileNo).waiters = (s.tile s.tileNo).waiters ++ [w] ∧
        w.th = s.thr.id ∧ w.op = q.2.2.2.2 ∧ w.pa = pa ∧ t.thr.pcc = s.thr.pcc ∧ t.thr.regs = s.thr.regs ∧ t.thr.retc = s.thr.retc ∧
        s.MemoryKept t

/-- `fes`, `jinit` and the fire-and-forget atomics make store-buffer entries (R125, R170-R172, R237), and `fer` samples a word's state (R126), in the
local window.
Returning atomics on a word of the local window that the gang owns, not SC (R170, R171, R173): d takes the old value zero-extended, the word
becomes F(old, b), `fcas` writes only where the old value is d's, and no other byte changes; a write clears the tag of its granule (R112), a failed
`fcas` leaves it, and the full/empty bit and the wait lists stay. -/
def Obligations.AtomicsAndEntries : Prop :=
  (∀ (s : State) (p : Pfx) (pd : PredNo) (a b : RegNo) (w u full : Bool) (o : Order) (sc : Scope), s.guardHolds p = true →
    unsent s.thr.sb < 8 →
    (∀ q ∈ [ (Instr.fes p a full, 8, permW ||| permSYN, StOp.fes full, Order.plain, Scope.tile),
             (.jinit p a b, 8, permW ||| permSYN, .jinit (s.x b), .plain, .tile),
             (.aadd p a b w o sc, atomicSize w, permW ||| permATM, .atom .add (atomicSize w) (s.x b) (o = .sc), o, sc),
             (.aor p a b w o sc, atomicSize w, permW ||| permATM, .atom .or (atomicSize w) (s.x b) (o = .sc), o, sc),
             (.aand p a b w o sc, atomicSize w, permW ||| permATM, .atom .and (atomicSize w) (s.x b) (o = .sc), o, sc),
             (.axor p a b w o sc, atomicSize w, permW ||| permATM, .atom .xor (atomicSize w) (s.x b) (o = .sc), o, sc),
             (.amin p a b w u o sc, atomicSize w, permW ||| permATM, .atom (if u then .minu else .min) (atomicSize w) (s.x b) (o = .sc), o, sc),
             (.amax p a b w u o sc, atomicSize w, permW ||| permATM, .atom (if u then .maxu else .max) (atomicSize w) (s.x b) (o = .sc), o, sc),
             (.aaddf p a b o sc, 4, permW ||| permATM, .atom .addf 4 (s.x b) (o = .sc), o, sc) ],
       (s.reg a).Covers q.2.1 q.2.2.1 → s.InWindow (s.reg a).cursor q.2.1 →
       ∃ t seq, exec q.1 s = .next t ∧ s.Completes t [] [] (s.nextPc 1 p) ∧ t.surroundings = s.surroundings ∧
         t.thr.sb = s.thr.sb ++ [.entry seq q.2.2.2.1 (s.reg a).cursor (.tile s.tileNo (s.windowAt (s.reg a).cursor) s.thr.ltn) true
           q.2.2.2.2.1 q.2.2.2.2.2 none]) ∧
    ((s.reg a).Covers 8 (permR ||| permSYN) → s.InWindow (s.reg a).cursor 8 → s.thr.intervalOpen = false → drained s.thr.sb = true →
      ∃ t, exec (.fer p pd a o sc) s = .next t ∧ t.pred pd = predBack pd (s.fullAt (s.windowAt (s.reg a).cursor)) ∧
        s.RegisterOnly t [] [pd] (s.nextPc 1 p))) ∧
  (∀ (s : State) (p : Pfx) (d a b : RegNo) (w : Bool) (o : Order) (sc : Scope) (n pa : Nat), s.guardHolds p = true →
    s.thr.intervalOpen = false → drained s.thr.sb = true → o ≠ .sc → n = (if w then 4 else 8) →
    (s.reg a).Covers n (permR ||| permW ||| permATM) → s.InWindow (s.reg a).cursor n → pa = s.windowAt (s.reg a).cursor →
    s.poisoned pa n = false → s.writeWaits s.thr.id s.thr.asid s.thr.lgen pa n = none →
    (s.tile (keySite pa)).owns (quarterOf pa) s.thr.asid s.thr.lgen = true →
    ∀ q ∈ [ (Instr.fadd p d a b w o sc, (s.nat pa n + (s.x b).toNat) % 2 ^ (8 * n), true),
            (.fswp p d a b w o sc, (s.x b).toNat % 2 ^ (8 * n), true),
            (.fior p d a b w o sc, Nat.lor (s.nat pa n) ((s.x b).toNat % 2 ^ (8 * n)), true),
            (.fcas p d a b w o sc, if s.nat pa n = (s.x d).toNat % 2 ^ (8 * n) then (s.x b).toNat % 2 ^ (8 * n) else s.nat pa n,
              decide (s.nat pa n = (s.x d).toNat % 2 ^ (8 * n))) ],
      ∃ t, exec q.1 s = .next t ∧ t.reg d = readBack d (.int (BitVec.ofNat 64 (s.nat pa n))) ∧ t.nat pa n = q.2.1 ∧
        t.tagAt pa = (s.tagAt pa && !q.2.2) ∧ t.fullAt pa = s.fullAt pa ∧
        (∀ k, (t.tile k).waiters = (s.tile k).waiters) ∧
        s.MemoryKeptBut t pa n ∧ s.Retires t (s.nextPc 1 p) ∧ s.RegsKept t [d] ∧ s.PredsKept t [] ∧
        t.thr.specials = s.thr.specials)

/-- `home` and `migr` (R176, R222): `home` names the tile of an address, here the thread's own for a window address; `migr` to a name of the gang
that the site's cache holds retires on the tile itself, and otherwise parks the thread until its context leaves for it; a name of no tile of the
gang raises 0x09. -/
def Obligations.HomesAndMigration : Prop :=
  ∀ (s : State) (p : Pfx) (d a : RegNo), s.guardHolds p = true →
    ((s.reg a).Covers 1 0 → s.InWindow (s.reg a).cursor 1 →
      ∃ t, exec (.home p d a) s = .next t ∧ t.reg d = readBack d (.int (BitVec.ofNat 64 s.thr.ltn)) ∧
        s.RegisterOnly t [d] [] (s.nextPc 1 p)) ∧
    (∀ name u, (s.reg a).tag = false → (s.x a).toNat = name → name < 2 ^ 19 → s.badName s.tileNo name = false →
      ltnModule name = siteModule s.tileNo → ((s.tile s.tileNo).ncache.find? fun e => e.1 = name) = some (name, u) →
      (s.gangTile name = true → name = s.thr.ltn → ∃ t, exec (.migr p a) s = .next t ∧ s.Completes t [] [] (s.nextPc 1 p)) ∧
      (s.gangTile name = true → name ≠ s.thr.ltn → s.thr.isHandler = false → s.thr.intervalOpen = false →
        ∃ t, exec (.migr p a) s = .next t ∧ t.thr.park = some (.migrate name (regSet [a])) ∧ t.thr.pcc = s.thr.pcc ∧
          t.thr.regs = s.thr.regs ∧ t.thr.retc = s.thr.retc) ∧
      (s.gangTile name = false → s.thr.priv = 0 → s.thr.intervalOpen = false →
        ∃ t, exec (.migr p a) s = .next t ∧ t.thr.ecause = 0x09 ∧ t.thr.eval = BitVec.ofNat 64 name ∧ t.thr.epc = s.pc ∧
          t.thr.retc = s.thr.retc))

-- messages, copy tags and copies (R239-R249)

/-- `msend` and `recv` (R241, R242): a message for a tile of the gang becomes a store-buffer entry with both source registers; `recv` takes the
oldest message of the gang from the lowest mailbox of its mask that holds one, into d and d + 1, MBXN naming the mailbox; with none it waits, and
with an empty mask it retires.
MAILBOX_MESSAGE_ARRIVAL, MAILBOX_SPILL, MAILBOX_REPLAY and MESSAGE_RESEND (R239): a message of a resident gang goes to the tail of its mailbox,
or to the overflow while that holds one for the mailbox; from 14 messages the mailbox goes down to 8, the newest going ahead of later ones of it there (R240); below 8 the oldest come back.
Of what the rules leave open, it states the model's choices of log 32. -/
def Obligations.Messages : Prop :=
  (∀ (s : State) (p : Pfx) (d a : RegNo), s.guardHolds p = true → d ≠ 15 →
    (∀ name u, wbits (s.x a) 63 25 = 0 → wbits (s.x a) 18 0 = name → s.badName s.tileNo name = false →
      ltnModule name = siteModule s.tileNo → ((s.tile s.tileNo).ncache.find? fun e => e.1 = name) = some (name, u) →
      s.gangTile name = true → unsent s.thr.sb < 8 → unacked s.thr.sb < 32 →
      ∃ t seq, exec (.msend p d a) s = .next t ∧ s.Completes t [] [] (s.nextPc 1 p) ∧
        t.thr.sb = s.thr.sb ++ [.entry seq (.msg name (wbits (s.x a) 21 19) (wbits (s.x a) 24 22) ((s.reg (d + 1)).bits ++ (s.reg d).bits)) 0
          (.tile u 0 name) false .plain .system none]) ∧
    (s.thr.intervalOpen = false → (s.x a).setWidth 8 = (0 : BitVec 8) →
      ∃ t, exec (.recv p d a) s = .next t ∧ s.RegisterOnly t [] [] (s.nextPc 1 p)) ∧
    (∀ m x, s.thr.intervalOpen = false → (s.x a).setWidth 8 ≠ (0 : BitVec 8) → s.recvWaits = false →
      ((s.tile s.tileNo).core s.coreNo).ready ((s.x a).setWidth 8 : BitVec 8).toNat s.thr.asid s.thr.lgen = some m →
      ((((s.tile s.tileNo).core s.coreNo).box m).find? fun x => x.asid = s.thr.asid && x.lgen = s.thr.lgen) = some x →
      ∃ t, exec (.recv p d a) s = .next t ∧ (d ≠ 0 → t.reg d = { tag := false, bits := x.data.setWidth 128 }) ∧
        t.reg (d + 1) = { tag := false, bits := (x.data >>> 128).setWidth 128 } ∧ t.thr.mbxn = BitVec.ofNat 3 m ∧
        ((t.tile s.tileNo).core s.coreNo).box m = (((s.tile s.tileNo).core s.coreNo).box m).erase x ∧
        s.Retires t (s.nextPc 1 p) ∧ s.RegsKept t [d, d + 1] ∧ s.PredsKept t [] ∧ s.MemoryKept t) ∧
    (s.thr.intervalOpen = false → (s.x a).setWidth 8 ≠ (0 : BitVec 8) →
      ((s.tile s.tileNo).core s.coreNo).ready ((s.x a).setWidth 8 : BitVec 8).toNat s.thr.asid s.thr.lgen = none →
      ∃ t, exec (.recv p d a) s = .next t ∧ t.thr.park = some (.recv ((s.x a).setWidth 8)) ∧ t.thr.pcc = s.thr.pcc ∧
        t.thr.regs = s.thr.regs ∧ t.thr.retc = s.thr.retc)) ∧
  ((∀ (s : State) (pk t th seq core mbx : Nat) (p : Packet) (m : Msg) (r : Resid), s.Arrives pk p t → p.id = pk → pk < s.nextId →
    p.body = .msg th seq core mbx m → (s.tile t).residFor p.asid p.lgen p.dst = some r → r.quenching = false → (s.tile t).refused = [] →
    ((∀ o ∈ (s.tile t).mbxOvf, o.1 ≠ boxKey core mbx) → (((s.tile t).core core).box mbx).length < 16 →
      ∃ u, exec (.mailboxMessageArrival pk) s = .next u ∧
        ((u.tile t).core core).box mbx = ((s.tile t).core core).box mbx ++ [m] ∧ u.Acknowledged pk p 0) ∧
    (∀ o ∈ (s.tile t).mbxOvf, o.1 = boxKey core mbx → (s.tile t).mbxOvf.length < 16384 →
      ∃ u, exec (.mailboxMessageArrival pk) s = .next u ∧ 
        (u.tile t).mbxOvf = (s.tile t).mbxOvf ++ [(boxKey core mbx, { m with stk := s.stkOf m.asid m.lgen })] ∧
        (u.tile t).count 71 = (s.tile t).count 71 + 1 ∧ u.Acknowledged pk p 0)) ∧
  (∀ (s : State) (t core m : Nat), core < 8 → m < 8 → 14 ≤ (((s.tile t).core core).box m).length →
    (((s.tile t).core core).box m).length + (s.tile t).mbxOvf.length ≤ 16384 →
    ∃ u, exec (.mailboxSpill t core m) s = .next u ∧ ((u.tile t).core core).box m = (((s.tile t).core core).box m).take 8 ∧
      (u.tile t).mbxOvf = spillInto (boxKey core m)
        (((((s.tile t).core core).box m).drop 8).map fun x => { x with stk := s.stkOf x.asid x.lgen }) (s.tile t).mbxOvf) ∧
  (∀ (s : State) (t core m : Nat), core < 8 → m < 8 → (((s.tile t).core core).box m).length < 8 →
    ∃ u, exec (.mailboxReplay t core m) s = .next u ∧
      ((u.tile t).core core).box m = ((s.tile t).core core).box m ++
        (((s.tile t).mbxOvf.filter fun o => o.1 = boxKey core m).take (12 - (((s.tile t).core core).box m).length)).map
          fun o => { o.2 with stk := 0 }) ∧
  (∀ (s : State) (t id seq since : Nat) (x : Thread) (op : StOp) (va : VAddr) (v pa : Nat) (name : Ltn) (win : Bool) (o : Order) (sc : Scope)
      (st : Option Nat), (s.tile t).resend = [(id, seq, since)] → 64 ≤ s.time - since → s.thread? id = some x →
    x.sb.find? (fun e => e.seq = seq) = some (.entry seq op va (.tile v pa name) win o sc st) →
    ∃ u pk, exec (.messageResend t) s = .next u ∧ u.packets = s.packets ++ [pk] ∧ pk.dst = name ∧ pk.body = op.packet x seq pa va ∧
      (u.tile t).resend = []))

/-- `waitany`, `waitall`, `ffr` and `tclr` on the copy tags of the thread's gang on its core (R245, R248): the lowest tag that is set and asked for
is the result, all ones where none is; `waitany` and `waitall` wait while what they ask for is not there; `tclr` clears the tags asked for. -/
def Obligations.CopyTags : Prop :=
  ∀ (s : State) (p : Pfx) (d a : RegNo), s.guardHolds p = true →
    (∀ k, k < 64 → s.myTags.tags.getLsbD k = true → (s.x a).getLsbD k = true →
      (∀ j, j < k → (s.myTags.tags.getLsbD j && (s.x a).getLsbD j) = false) →
      ∀ i ∈ [Instr.waitany p d a, .ffr p d a],
        ∃ t, exec i s = .next t ∧ t.reg d = readBack d (.int (BitVec.ofNat 64 k)) ∧ s.RegisterOnly t [d] [] (s.nextPc 1 p)) ∧
    ((∀ k, (s.myTags.tags.getLsbD k && (s.x a).getLsbD k) = false) →
      (∃ t, exec (.ffr p d a) s = .next t ∧ t.reg d = readBack d (.int (BitVec.allOnes 64)) ∧ s.RegisterOnly t [d] [] (s.nextPc 1 p)) ∧
      (s.x a ≠ 0 → ∃ t, exec (.waitany p d a) s = .next t ∧ t.thr.park = some (.tagsAny (s.x a)) ∧ t.thr.pcc = s.thr.pcc ∧
        t.thr.regs = s.thr.regs)) ∧
    (s.x a = 0 →
      ∃ t, exec (.waitany p d a) s = .next t ∧ t.reg d = readBack d (.int (BitVec.allOnes 64)) ∧ s.RegisterOnly t [d] [] (s.nextPc 1 p)) ∧
    ((∀ k, (s.x a).getLsbD k = true → s.myTags.tags.getLsbD k = true) →
      ∃ t, exec (.waitall p a) s = .next t ∧ s.RegisterOnly t [] [] (s.nextPc 1 p)) ∧
    ((∃ k, (s.x a).getLsbD k = true ∧ s.myTags.tags.getLsbD k = false) →
      ∃ t, exec (.waitall p a) s = .next t ∧ t.thr.park = some (.tagsAll (s.x a)) ∧ t.thr.pcc = s.thr.pcc ∧ t.thr.regs = s.thr.regs) ∧
    ∃ t, exec (.tclr p a) s = .next t ∧ t.myTags.tags = s.myTags.tags &&& ~~~(s.x a) ∧ t.myTags.ovf = s.myTags.ovf ∧
      s.Completes t [] [] (s.nextPc 1 p)

/-- `send`, COPY_PACKET_SEND and COPY_PACKET_ARRIVAL for copies between windows (R243-R247): the copy is queued with its capability, length and
descriptor; a packet takes up to 8 flits from its source, whose last sets STAG; an arriving flit of 32 bytes is written where the descriptor says,
with FULL fills its words, on which no one waits, and with LAST sets DTAG. -/
def Obligations.CopiesRun : Prop :=
  (∀ (s : State) (p : Pfx) (d a b : RegNo) (u : Nat), s.guardHolds p = true → s.thr.intervalOpen = false →
    (s.reg a).tag = true → (s.reg a).can (permR ||| permENG) = true → (s.x b).toNat ≠ 0 → (s.x b).toNat ≤ 786432 →
    (s.reg a).base ≤ (s.reg a).cursor.toNat → (s.reg a).cursor.toNat + (s.x b).toNat ≤ (s.reg a).limit →
    (s.reg a).cursor.toNat % 32 = 0 → (s.x b).toNat % 32 = 0 →
    (inWindow (s.reg a).cursor = true → winOffset (s.reg a).cursor + (s.x b).toNat ≤ windowBytes s.quarters.length) →
    wbits (s.x d) 47 39 = 0 → copyOff (s.x d) % 32 = 0 → copyOff (s.x d) + (s.x b).toNat ≤ windowBytes s.quarters.length →
    s.badName s.tileNo (copyLtn (s.x d)) = false → ltnModule (copyLtn (s.x d)) = siteModule s.tileNo →
    ((s.tile s.tileNo).ncache.find? fun e => e.1 = copyLtn (s.x d)) = some (copyLtn (s.x d), u) → s.gangTile (copyLtn (s.x d)) = true →
    unsent s.thr.sb = 0 → (s.copiesOut s.tileNo).length < 16 →
    ∃ t c, exec (.send p d a b) s = .next t ∧ c ∈ (t.tile s.tileNo).copies ∧ c.id = s.nextId ∧ c.cap = s.reg a ∧ c.n = (s.x b).toNat ∧
      c.desc = s.x d ∧ c.done = 0 ∧ c.asid = s.thr.asid ∧ c.lgen = s.thr.lgen ∧ c.core = s.coreNo ∧ s.Completes t [] [] (s.nextPc 1 p)) ∧
  (∀ (s : State) (t : Nat) (c : Copy) (r : Resid), (s.tile t).copies.find? Copy.active = some c →
    (s.tile t).residFor c.asid c.lgen c.ltn = some r → inWindow (c.cap.cursor + BitVec.ofNat 48 c.done) = true →
    (∀ q ∈ r.quarters, q < 4) → r.quarters ≠ [] → c.cap.cursor.toNat + c.n ≤ 0xFF0000000000 + windowBytes r.quarters.length → 0 < c.flits →
    ∃ u pk, exec (.copyPacketSend t) s = .next u ∧ u.packets = s.packets ++ [pk] ∧ pk.dst = copyLtn c.desc ∧
      (∃ data tags psn tagged full last core tag, pk.body = .copy c.id (copyOff c.desc + c.done) data tags psn tagged full last core tag ∧
        data.length = 32 * c.flits ∧ full = copyFull c.desc ∧ core = copyDcore c.desc ∧ tag = copyDtag c.desc ∧
        (last = true ↔ c.done + 32 * c.flits = c.n)) ∧
      (c.done + 32 * c.flits = c.n →
        (assocGet (gangKey c.asid c.lgen) { tags := 0, ovf := 0 } ((u.tile t).core c.core).tags : TagMap).tags.getLsbD (copyStag c.desc) = true) ∧
      s.MemoryKept u) ∧
  (∀ (s : State) (pk t cid off core tag pa : Nat) (p : Packet) (data : List Byte) (tags psn : List Bool) (tagged full last : Bool) (r : Resid),
    s.Arrives pk p t → p.id = pk → pk < s.nextId → p.body = .copy cid off data tags psn tagged full last core tag → data.length = 32 →
    s.residentAt t p.asid p.lgen p.dst = some r → r.quenching = false → pa = windowKey t r.quarters off →
    isVaultKey pa = false → s.writeWaits pk p.asid p.lgen pa 32 = none → (s.tile (keySite pa)).owns (quarterOf pa) p.asid p.lgen = true →
    (full = true → ∀ w ∈ (s.tile (keySite pa)).waiters, w.pa < pa ∨ pa + 32 ≤ w.pa) →
    ∃ u, exec (.copyPacketArrival pk) s = .next u ∧ u.bytes pa 32 = data ∧ s.MemoryKeptBut u pa 32 ∧
      (∀ i, i < 4 → u.fullAt (pa + 8 * i) = (full || s.fullAt (pa + 8 * i))) ∧
      (last = true → (s.tile t).resid.any (fun r => gangKey r.asid r.lgen = gangKey p.asid p.lgen) = true → tag < 64 →
        (assocGet (gangKey p.asid p.lgen) { tags := 0, ovf := 0 } ((u.tile t).core core).tags : TagMap).tags.getLsbD tag = true) ∧
      u.Acknowledged pk p 0)

-- translation, names and the fabric (R181-R191, R211-R225, R389)

/-- `tlbw` (R182, R184, R186): a well-formed entry of the current epoch is installed at the front of the tile TLB in place of every entry of the
ASID whose page overlaps it, the misses it answers go on, and p7 is set; one of TYPE 0 sets p7 and installs nothing, here where no miss waits
for it; any other operand pair sets p7 to 0 and changes nothing else.
`tlbi`, `namei`, `ptsync` and `rtsw` at system level (R189, R191, R219, R224, R225): a request for every live tile in its reach is made and the
thread waits for it; `ptsync` retires with the store buffer drained; `rtsw` makes the other bank active where nothing is held. -/
def Obligations.TranslationInstructions : Prop :=
  ((∀ (s : State) (p : Pfx) (a b : RegNo), s.guardHolds p = true → s.thr.priv ≠ 0 → descType (s.x b) = 0 → wbits (s.x a) 63 62 ≠ 3 →
    wbits (s.x a) 47 40 ≠ 0xFF → wbits (s.x a) 47 14 * 16384 % 2 ^ pageBits (wbits (s.x a) 63 62) = 0 → wbits (s.x a) 61 60 = 0 →
    wbits (s.x a) 13 0 = wbits ((s.tile s.tileNo).count 53) 13 0 →
    s.coveredMisses s.tileNo (wbits (s.x a) 59 48) (wbits (s.x a) 63 62) (wbits (s.x a) 47 14 * 16384) = [] →
    ∃ t, exec (.tlbw p a b) s = .next t ∧ t.pred 7 = true ∧ s.Completes t [] [7] (s.nextPc 3 p) ∧
      (t.tile s.tileNo).tlb = (s.tile s.tileNo).tlb) ∧
  ∀ (s : State) (p : Pfx) (a b : RegNo) (ok : Bool), s.guardHolds p = true → s.thr.priv ≠ 0 → descType (s.x b) ≠ 0 →
    ok = (decide (wbits (s.x a) 63 62 ≠ 3) && decide (wbits (s.x a) 47 40 ≠ 0xFF) &&
      decide (wbits (s.x a) 47 14 * 16384 % 2 ^ pageBits (wbits (s.x a) 63 62) = 0) && decide (wbits (s.x a) 61 60 = 0) &&
      s.descOk s.tileNo (s.x b) (wbits (s.x a) 63 62) &&
      decide (wbits (s.x a) 13 0 = wbits ((s.tile s.tileNo).count 53) 13 0)) →
    ∃ t, exec (.tlbw p a b) s = .next t ∧ t.pred 7 = ok ∧ t.pc = s.nextPc 3 p ∧ t.thr.retc = s.thr.retc + 1 ∧ s.RegsKept t [] ∧
      s.PredsKept t [7] ∧ s.MemoryKept t ∧
      (ok = false → t.surroundings = s.surroundings) ∧
      (ok = true → (t.tile s.tileNo).tlb.head? = some ((s.x a).toNat / 16384, s.x b) ∧
        (∀ e ∈ (t.tile s.tileNo).tlb.tail, e ∈ (s.tile s.tileNo).tlb ∧
          ¬(keyAsid e.1 = wbits (s.x a) 59 48 ∧ pagesOverlap (wbits (s.x a) 63 62) (wbits (s.x a) 47 14 * 16384) e.1 = true)) ∧
        ∀ th ∈ s.others, (s.threads.map fun th => th.id).Nodup → th.loc.inSlot = true → th.loc.site = s.tileNo →
          (∃ va k, th.park = some (.miss (wbits (s.x a) 59 48) va k) ∧
            va / 2 ^ pageBits (wbits (s.x a) 63 62) = wbits (s.x a) 47 14 * 16384 / 2 ^ pageBits (wbits (s.x a) 63 62)) →
          t.waitOf th.id = some none)) ∧
  (∀ (s : State) (p : Pfx) (a : RegNo), s.guardHolds p = true → s.thr.priv ≠ 0 →
    (wbits (s.x a) 11 0 = 0 → wbits (s.x a) 61 60 ≠ 3 →
      (wbits (s.x a) 61 60 = 0 → wbits (s.x a) 63 62 ≠ 3 ∧ wbits (s.x a) 47 14 * 16384 % 2 ^ pageBits (wbits (s.x a) 63 62) = 0) →
      ∃ t, exec (.tlbi p a) s = .next t ∧ t.thr.park = some (.request s.nextId (instrBytes 3 p)) ∧
        t.reqs = s.reqs ++ [.tlbi s.nextId s.thr.id (s.x a) (s.reach s.tileNo (wbits (s.x a) 13 12)) []] ∧ t.thr.pcc = s.thr.pcc ∧
        t.thr.regs = s.thr.regs ∧ t.tiles = s.tiles) ∧
    (wbits (s.x a) 63 62 ≠ 3 → wbits (s.x a) 59 19 = 0 →
      ∃ t, exec (.namei p a) s = .next t ∧ t.thr.park = some (.request s.nextId (instrBytes 3 p)) ∧
        t.reqs = s.reqs ++ [.namei s.nextId s.thr.id (s.x a) (s.reach s.tileNo (wbits (s.x a) 61 60)) []] ∧ t.thr.pcc = s.thr.pcc ∧
        t.thr.regs = s.thr.regs ∧ t.tiles = s.tiles) ∧
    (drained s.thr.sb = true → ∃ t, exec (.ptsync p) s = .next t ∧ s.RegisterOnly t [] [] (s.nextPc 3 p)) ∧
    (drained s.thr.sb = false → ∃ t, exec (.ptsync p) s = .next t ∧ t.thr.park = some .drain ∧ t.thr.pcc = s.thr.pcc) ∧
    (wbits (s.x a) 63 1 = 0 → s.packets = [] → (s.tile s.tileNo).heldFields = [] →
      s.switching s.tileNo = none →
      ∃ t, exec (.rtsw p a) s = .next t ∧ (t.tile s.tileNo).gen = (s.x a).getLsbD 0 ∧ s.Completes t [] [] (s.nextPc 3 p)))

/-- The stages of a `tlbi` (R184, R185, R189): at a tile the epoch advances, every entry that the key covers goes from the tile TLB, and what the
tile has under way is noted; the tile acknowledges once all of that is over; with every tile's acknowledgement the thread retires.
Of what the rules leave open, it states the model's choices of log 52.
The stages of a `namei` (R224): the names that the key covers leave the tile's cache, the tile acknowledges once its packets for them are over,
and with every tile's acknowledgement the thread retires. -/
def Obligations.InvalidationStages : Prop :=
  ((∀ (s : State) (req t id th : Nat) (k : Word) (todo : List Nat) (waits : List (Nat × List Nat)),
    s.reqs.find? (fun r => r.id = req) = some (.tlbi id th k todo waits) → t ∈ todo → (s.reqs.map Req.id).Nodup →
    ∃ u, exec (.tlbiRequest req t) s = .next u ∧ (u.tile t).count 53 = (s.tile t).count 53 + 1 ∧
      (∀ e ∈ (u.tile t).tlb, e ∈ (s.tile t).tlb ∧ tlbiHits k e.1 = false) ∧
      (∀ e ∈ (s.tile t).tlb, tlbiHits k e.1 = false → e ∈ (u.tile t).tlb) ∧
      .tlbi id th k (todo.filter (· ≠ t)) (waits ++ [(t, s.heldAccesses t ++ s.runsHeld t k)]) ∈ u.reqs) ∧
  (∀ (s : State) (req t id th : Nat) (k : Word) (todo : List Nat) (waits : List (Nat × List Nat)),
    s.reqs.find? (fun r => r.id = req) = some (.tlbi id th k todo waits) → (assocGet t [] waits).all s.settled = true →
    ∃ u, exec (.tlbiTileAck req t) s = .next u ∧ .tlbi id th k todo (waits.filter fun w => w.1 ≠ t) ∈ u.reqs) ∧
  (∀ (s : State) (req id n len : Nat) (k : Word) (x : Thread),
    s.reqs.find? (fun r => r.id = req) = some (.tlbi id n k [] []) → s.thread? x.id = some x → x.park = some (.request id len) →
    (∀ y ∈ s.threads, (∃ l, y.park = some (.request id l)) → y = x) → x.loc.core ≠ 8 → (s.threads.map fun th => th.id).Nodup →
    ∃ u y, exec (.tlbiComplete req) s = .next u ∧ u.thread? x.id = some y ∧ y.pcc = x.pcc.withCursor (x.pc + BitVec.ofNat 48 len) ∧
      y.retc = x.retc + 1 ∧ y.regs = x.regs ∧ y.preds = x.preds ∧ ∀ r ∈ u.reqs, r.id ≠ id)) ∧
  ((∀ (s : State) (req t id th : Nat) (k : Word) (todo : List Nat) (waits : List (Nat × List Nat)),
    s.reqs.find? (fun r => r.id = req) = some (.namei id th k todo waits) → t ∈ todo →
    ∃ u, exec (.nameiRequest req t) s = .next u ∧ (u.tile t).ncache = ((s.tile t).ncache.filter fun e => !nameiHits k e.1) ∧
      .namei id th k (todo.filter (· ≠ t)) (waits ++ [(t, s.outbound t (nameiHits k))]) ∈ u.reqs) ∧
  (∀ (s : State) (req t id th : Nat) (k : Word) (todo : List Nat) (waits : List (Nat × List Nat)),
    s.reqs.find? (fun r => r.id = req) = some (.namei id th k todo waits) → (assocGet t [] waits).all s.settled = true →
    ∃ u, exec (.nameiTileAck req t) s = .next u ∧ .namei id th k todo (waits.filter fun w => w.1 ≠ t) ∈ u.reqs) ∧
  (∀ (s : State) (req id n len : Nat) (k : Word) (x : Thread),
    s.reqs.find? (fun r => r.id = req) = some (.namei id n k [] []) → s.thread? x.id = some x → x.park = some (.request id len) →
    (∀ y ∈ s.threads, (∃ l, y.park = some (.request id l)) → y = x) → x.loc.core ≠ 8 → (s.threads.map fun th => th.id).Nodup →
    ∃ u y, exec (.nameiComplete req) s = .next u ∧ u.thread? x.id = some y ∧ y.pcc = x.pcc.withCursor (x.pc + BitVec.ofNat 48 len) ∧
      y.retc = x.retc + 1 ∧ y.regs = x.regs ∧ y.preds = x.preds ∧ ∀ r ∈ u.reqs, r.id ≠ id))

/-- ROUTER_TURN, RELAY and FORWARD_PACKET (R211-R217): a waiting packet is injected with the turns its site's active tables compose and their
generation; a router takes the first turn: code 0 ejects to the site on the destination port, 1 hands to the relay buffer of port 0 if it fits, 2, 3
and 4 where there is no such port discard, counted and reported to the cox, 5-13 pass to another router of the quadrant, 14 by the long link of
routers 7-9, and 4, 14 and 15 by a stitch link, whose far zone may be lost and which may be retired; a relay composes anew; a packet at a tile that no
longer hosts its name follows the forward record, at most twice, or is discarded with STATUS 3.
What a discard keeps and reports is the model's choice of log 32, its STATUS 3 the inference of log 57.
NAME_WALK_REQUEST and NAME_WALK_RESPONSE (R211): the table tile, where the source's table-site entry finds it, answers with
the binding; a bound name enters the front of the cache of 64, and
the threads of the tile that wait for it go on. -/
def Obligations.FabricMovesPackets : Prop :=
  (∀ (s : State) (pk : Nat) (p : Packet), s.packet? pk = some p → p.id = pk → pk < s.nextId →
    (∀ t turns port, s.bridgeLeg t p = none → s.compose t p = some (turns, port) →
      ((p.pos = .source t ∧ s.injectWaits t p = false) →
        ∃ u q, exec (.routerTurn pk) s = .next u ∧ u.packet? pk = some q ∧ q.turns = turns ∧ q.dport = port ∧ q.gen = (s.tile t).gen ∧
          q.pos = .router (siteZone t) (siteQuad t) (siteRouter t) ∧ q.body = p.body ∧ q.dst = p.dst) ∧
      (p.pos = .relayed t →
        ∃ u q, exec (.relay pk) s = .next u ∧ u.packet? pk = some q ∧ q.turns = turns ∧ q.dport = port ∧ q.gen = (s.tile t).gen ∧
          q.pos = .router (siteZone t) (siteQuad t) (siteRouter t) ∧ q.body = p.body ∧ q.dst = p.dst)) ∧
    (∀ (f d r home : Nat) (c : BitVec 4) (rest : List (BitVec 4)), p.pos = .router f d r → p.turns = c :: rest → home = f * 256 + d * 64 + 4 * r →
      (∀ t, c = 0 → portSite f d r p.dport = some t →
        ∃ u q, exec (.routerTurn pk) s = .next u ∧ u.packet? pk = some q ∧ q.turns = rest ∧ q.pos = .arrived t ∧ q.body = p.body) ∧
      (c = 1 → s.relayFits home p = true →
        ∃ u q, exec (.routerTurn pk) s = .next u ∧ u.packet? pk = some q ∧ q.turns = rest ∧ q.pos = .relayed home ∧ q.body = p.body) ∧
      (c = 1 → s.relayFits home p = false → exec (.routerTurn pk) s = .next s) ∧
      ((c = 2 ∨ c = 3 ∨ (c = 4 ∧ (r = 0 ∨ r = 5))) →
        ∃ u, exec (.routerTurn pk) s = .next u ∧
          (u.module (f / 128)).misroutes = (s.module (f / 128)).misroutes ++ [(f % 128 * 4 + d) * 10 + r] ∧
          (u.tile home).count 61 = (s.tile home).count 61 + 1 ∧
          (2 ≤ p.vc → u.packet? pk = none) ∧ (p.vc < 2 → ∃ q, u.packet? pk = some q ∧ q.pos = .discarded)) ∧
      (5 ≤ c.toNat → c.toNat ≤ 13 →
        ∃ u q, exec (.routerTurn pk) s = .next u ∧ u.packet? pk = some q ∧ q.turns = rest ∧
          q.pos = .router f d (if c.toNat - 5 < r then c.toNat - 5 else c.toNat - 4) ∧ q.body = p.body) ∧
      (c = 14 → 7 ≤ r →
        ∃ u q, exec (.routerTurn pk) s = .next u ∧ u.packet? pk = some q ∧ q.turns = rest ∧
          q.pos = .router f (longPartner d r) (longRouter (longPartner d r) d) ∧ q.body = p.body) ∧
      (∀ k, k = portKey f d r c.toNat → ((c = 4 ∧ r ≠ 0 ∧ r ≠ 5) ∨ (c = 14 ∧ r < 7) ∨ c = 15) →
        ((s.link k).retired = true → s.relayFits home p = true →
          ∃ u q, exec (.routerTurn pk) s = .next u ∧ u.packet? pk = some q ∧ q.turns = p.turns ∧ q.pos = .relayed home ∧ q.body = p.body) ∧
        ((s.link k).retired = false → ((s.link k).retraining || (s.link k).failed) = true → exec (.routerTurn pk) s = .next s) ∧
        (∀ far, (s.link k).retired = false → (s.link k).retraining = false → (s.link k).failed = false → s.stitchEnd f k = some far →
          ((s.zone (far / 640)).lost = false →
            ∃ u q, exec (.routerTurn pk) s = .next u ∧ u.packet? pk = some q ∧ q.turns = rest ∧
              q.pos = .router (far / 640) (far / 160 % 4) (far / 16 % 10) ∧ q.body = p.body) ∧
          ((s.zone (far / 640)).lost = true → ∃ u, exec (.routerTurn pk) s = .next u ∧ u.packet? pk = none)))) ∧
    (∀ t, p.pos = .arrived t → (∀ n, p.body ≠ .walk n) → p.vc < 2 →
      ((s.forwardOf t p).isSome = true → p.fwdc < 2 →
        ∃ u q, exec (.forwardPacket pk) s = .next u ∧ u.packet? pk = some q ∧ q.fwdc = p.fwdc + 1 ∧ q.pos = .relayed t) ∧
      (((s.forwardOf t p).isSome = true ∧ 2 ≤ p.fwdc) ∨
       (s.forwardOf t p = none ∧ s.siteOf p.dst ≠ t ∧ s.forwardOf (s.siteOf p.dst) p ≠ some t ∧ nameModule p.dst = siteModule t) →
        ∃ u, exec (.forwardPacket pk) s = .next u ∧ (u.tile t).count 61 = (s.tile t).count 61 + 1 ∧ u.Acknowledged pk p 3))) ∧
  (∀ (s : State) (pk t name : Nat) (p : Packet), s.packet? pk = some p → p.id = pk → pk < s.nextId → p.pos = .arrived t →
    (∀ b, p.body = .walk name → b = s.binding name →
      s.tablePlace (ltnField name) = (t, decide (bitsOf (s.tableEntryAt (s.siteOf p.src) (ltnZone name)) 9 9 = 1)) →
      ∃ u q, exec (.nameWalkRequest pk) s = .next u ∧ u.packet? pk = none ∧ q ∈ u.packets ∧ q.vc = 3 ∧ q.dst = p.src ∧
        q.body = .walkReply name b.v ((siteModule t * 128 + b.field % 128) * 256 + b.quad % 4 * 64 + b.site % 64)) ∧
    (∀ site th, p.body = .walkReply name true site → th ∈ s.threads → th.park = some (.name name) → th.loc.site = t →
      (s.threads.map fun th => th.id).Nodup →
      ∃ u, exec (.nameWalkResponse pk) s = .next u ∧
        (u.tile t).ncache = ((name, site) :: (s.tile t).ncache.filter fun e => e.1 ≠ name).take 64 ∧
        u.waitOf th.id = some none ∧ u.packet? pk = none))

-- the gong and the bell (R258, R266-R282)

/-- `garr` (R269, R276, R278): a thread of a gang whose tile has a domain at the level joins the round, and waits there with its operation and
contribution; one of no gang, or on a tile without a domain there, takes 0x15, counted in GFLT (77). -/
def Obligations.GarrJoinsRound : Prop :=
  ∀ (s : State) (p : Pfx) (d a : RegNo) (op : GOp) (level : BitVec 2) (k : Nat), s.guardHolds p = true → s.thr.intervalOpen = false →
    k = s.effLevel s.thr.asid s.thr.lgen level.toNat →
    (∀ r, s.thr.kind = .gang → s.myGang.isSome = true → (s.tile s.tileNo).residFor s.thr.asid s.thr.lgen s.thr.ltn = some r →
      (r.doms.any fun x => x.1 = k) = true → drained s.thr.sb = true →
      (∀ o ∈ s.others, o.inGang s.thr.asid s.thr.lgen = true → o.loc.inSlot = true → o.loc.site = s.tileNo → ∀ x, o.garr = some x →
        s.effLevel s.thr.asid s.thr.lgen x.1 = k ∧ x.2.1 = op) →
      exec (.garr p d a op level) s = .next (s.parkOn (.garr level.toNat op (s.x a) d (instrBytes 3 p)))) ∧
    (∀ sub, s.thr.priv = 0 →
      ((sub = 4 ∧ (s.thr.kind ≠ .gang ∨ s.myGang = none)) ∨
       (sub = 1 ∧ s.thr.kind = .gang ∧ s.myGang.isSome = true ∧
        ∀ r, (s.tile s.tileNo).residFor s.thr.asid s.thr.lgen s.thr.ltn = some r → (r.doms.any fun x => x.1 = k) = false)) →
      ∃ t, exec (.garr p d a op level) s = .next t ∧ s.TrapSaved t 0x15 (s.gongEval s.thr sub op level.toNat) ∧
        t.thr.park = some (.trapHold 0x15 (s.gongEval s.thr sub op level.toNat)) ∧
        (t.tile s.tileNo).count 77 = (s.tile s.tileNo).count 77 + 1)

/-- `gset` and GSET_NODE_CONFIRM (R279), `dset` (R280) and `gstat` (R281): a segment record is asked for and written with p7 set, or refused with
p7 clear where another gang's round is in progress; a tile's domain record is written with p7 set where nothing of the gang waits; `gstat` reads the
word of the thread's level. -/
def Obligations.GongControl : Prop :=
  (∀ (s : State) (p : Pfx) (a b : RegNo), s.guardHolds p = true → s.thr.priv ≠ 0 → wbits (s.x a) 63 8 = 0 → (s.x a).getLsbD 6 = false →
    ((s.x a).getLsbD 7 = true ∨ wbits (s.x a) 5 0 ≤ 15) → segKind (s.x b) ≠ 3 → wbits (s.x b) 62 60 = 0 →
    ∃ t q, exec (.gset p a b) s = .next t ∧ t.thr.park = some (.request s.nextId (instrBytes 3 p)) ∧ t.thr.pcc = s.thr.pcc ∧
      t.thr.regs = s.thr.regs ∧ t.packets = s.packets ++ [q] ∧ q.id = s.nextId ∧
      q.body = .gset s.thr.id
        (gongKey (if (s.x a).getLsbD 7 then rootNode (siteModule s.tileNo) else siteZone s.tileNo) (wbits (s.x a) 5 0)) (s.x b)) ∧
  (∀ (s : State) (pk t n key len : Nat) (w : Word) (p : Packet) (x : Thread) (old : Word), s.Arrives pk p t → p.body = .gset n key w →
    s.thread? x.id = some x → x.park = some (.request pk len) → (∀ y ∈ s.threads, (∃ l, y.park = some (.request pk l)) → y = x) →
    x.loc.core ≠ 8 → (s.threads.map fun th => th.id).Nodup → old = (s.gongSlot key).record →
    (segV old = false ∨ (segAsid old = segAsid w ∧ segGen old = segGen w) →
      ∃ u y, exec (.gsetNodeConfirm pk) s = .next u ∧ u.gongSlot key = { GongSlot.empty with record := w } ∧ u.packet? pk = none ∧
        u.thread? x.id = some y ∧ y.preds = setBit x.preds 7 true ∧ y.regs = x.regs ∧
        y.pcc = x.pcc.withCursor (x.pc + BitVec.ofNat 48 len) ∧ y.retc = x.retc + 1) ∧
    (segV old = true → ¬(segAsid old = segAsid w ∧ segGen old = segGen w) → s.slotBusy (key / 64) (key % 64) = true →
      ∃ u y, exec (.gsetNodeConfirm pk) s = .next u ∧ u.gong = s.gong ∧ u.packet? pk = none ∧
        u.thread? x.id = some y ∧ y.preds = setBit x.preds 7 false ∧ y.regs = x.regs ∧
        y.pcc = x.pcc.withCursor (x.pc + BitVec.ofNat 48 len) ∧ y.retc = x.retc + 1)) ∧
  (∀ (s : State) (p : Pfx) (a b : RegNo), s.guardHolds p = true → s.thr.priv ≠ 0 → wbits (s.x a) 63 14 = 0 → wbits (s.x b) 63 36 = 0 →
    wbits (s.x b) 31 24 = 0 →
    ((s.tile s.tileNo).residOf (wbits (s.x a) 11 0) = none →
      ∃ t, exec (.dset p a b) s = .next t ∧ s.RegisterOnly t [] [7] (s.nextPc 3 p) ∧ t.pred 7 = false) ∧
    (∀ r, (s.tile s.tileNo).residOf (wbits (s.x a) 11 0) = some r → s.parkedAt [s.tileNo] r.asid r.lgen none = [] →
      ((s.tile s.tileNo).phase.any fun f => f.g = gangKey r.asid r.lgen) = false →
      (s.releases.any fun q => q.t = s.tileNo && q.g = gangKey r.asid r.lgen) = false →
      ∃ t, exec (.dset p a b) s = .next t ∧ s.Completes t [] [7] (s.nextPc 3 p) ∧ t.pred 7 = true ∧
        ∀ q ∈ (t.tile s.tileNo).resid, q.asid = r.asid → q.lgen = r.lgen →
          q.doms.find? (fun x => x.1 = wbits (s.x a) 13 12) =
            some (wbits (s.x a) 13 12, wbits (s.x b) 35 32, wbits (s.x b) 23 0))) ∧
  (∀ (s : State) (p : Pfx) (d a : RegNo), s.guardHolds p = true →
    ∃ t, exec (.gstat p d a) s = .next t ∧ s.RegisterOnly t [d] [] (s.nextPc 3 p) ∧
      t.reg d = readBack d (.int (BitVec.ofNat 64 (s.gstat (wbits (s.x a) 1 0)))))

/-- GONG_SWEEP and ROUND_RELEASE (R271, R272, R275): sampling a member records what it drives and clears its RECV; a round completes when two sweeps
in succession find every member arrived, the second finds none that has received and one that has started, and its result combines the members'
contributions; a release gives every thread of the round on the tile the result, and the round is counted.
Of what the rules leave open, it states the model's choices of log 34.
BELL_WINDOW_CLOSE and BELL_DELIVERY (R258; the delays in windows are log 5's reading): a window closes; a window's announcements, and those of
the windows before it, are delivered 4 windows after it opens in a domain of one module, and at no earlier close. -/
def Obligations.RoundsAndBell : Prop :=
  ((∀ (s : State) (node slot t k : Nat) (rs : List Resid), s.roundLevel node slot = some k → s.membersAt node slot k t = rs → rs ≠ [] →
    ((s.gongSlot (gongKey node slot)).sweep.any fun x => x.t = t) = false →
    (∃ m ∈ s.members node slot k, m ≠ t ∧ ∀ x ∈ (s.gongSlot (gongKey node slot)).sweep, x.t ≠ m) →
    ∃ u, exec (.gongSweep node slot t) s = .next u ∧
      (u.gongSlot (gongKey node slot)).sweep =
        (s.gongSlot (gongKey node slot)).sweep ++
          [s.sample (gongKey node slot) k t (segAsid (s.segment node slot)) (segGen (s.segment node slot)) rs] ∧
      (∀ q ∈ (u.tile t).resid, q.asid = segAsid (s.segment node slot) → q.lgen = segGen (s.segment node slot) → q.recv = false) ∧ u.releases = s.releases ∧ u.threads = s.threads) ∧
  (∀ (s : State) (node slot t k : Nat) (rs : List Resid) (xs : List Sample) (op : GOp), s.roundLevel node slot = some k →
    s.membersAt node slot k t = rs → rs ≠ [] →
    ((s.gongSlot (gongKey node slot)).sweep.any fun x => x.t = t) = false →
    xs = (s.gongSlot (gongKey node slot)).sweep ++
      [s.sample (gongKey node slot) k t (segAsid (s.segment node slot)) (segGen (s.segment node slot)) rs] →
    (∀ m ∈ s.members node slot k, ∃ x ∈ xs, x.t = m) → (s.gongSlot (gongKey node slot)).prevArr = true →
    (∀ x ∈ xs, x.arrived = true ∧ x.quiet = true ∧ x.other = false) → (xs.any fun x => x.started) = true →
    (xs.flatMap fun x => x.ops).eraseDups = [op] →
    s.commits (segAsid (s.segment node slot)) (segGen (s.segment node slot)) k = false →
    ∃ u, exec (.gongSweep node slot t) s = .next u ∧ (u.gongSlot (gongKey node slot)).sweep = [] ∧
      u.releases = s.releases ++ (xs.map fun x => x.t).map fun m =>
        { t := m, g := gangKey (segAsid (s.segment node slot)) (segGen (s.segment node slot)), level := k,
          value := gopCombineAll op (xs.filterMap fun x => x.value),
          ths := s.parkedAt [m] (segAsid (s.segment node slot)) (segGen (s.segment node slot)) (some k) }) ∧
  (∀ (s : State) (t asid lgen level len : Nat) (rel : Release) (r : Resid) (x : Thread) (k : Nat) (op : GOp) (v : Word) (d : RegNo),
    lgen < 65536 → s.releases.find? (fun r => r.t = t && r.g = gangKey asid lgen && r.level = level) = some rel →
    (s.tile t).resid? asid lgen = some r → r.preempted = false → s.thread? x.id = some x → x.park = some (.garr k op v d len) →
    x.inGang asid lgen = true → x.loc.inSlot = true → x.loc.site = t → s.effLevel asid lgen k = level → x.id ∈ rel.ths →
    (s.threads.map fun th => th.id).Nodup →
    ∃ u y, exec (.roundRelease t (gangKey asid lgen) level) s = .next u ∧ u.thread? x.id = some y ∧
      y.regs = (if d = 0 then x.regs else x.regs.set d.toNat (.int rel.value)) ∧ y.gval = rel.value ∧ y.preds = x.preds ∧
      y.pcc = x.pcc.withCursor (x.pc + BitVec.ofNat 48 len) ∧ y.retc = x.retc + 1 ∧
      (u.tile t).count 76 = (s.tile t).count 76 + 1 ∧ u.releases = s.releases.erase rel)) ∧
  (∀ (s : State),
    (∃ t, exec .bellWindowClose s = .next t ∧ t.bellWin = s.bellWin + 1 ∧ t.bellDone = s.bellDone ∧ t.threads = s.threads ∧ t.mem = s.mem) ∧
    (∀ w, s.manyModules = false →
      ∃ t, exec (.bellDelivery w) s = .next t ∧ t.bellDone = (if w + 4 ≤ s.bellWin then max s.bellDone (w + 1) else s.bellDone) ∧
        t.bellWin = s.bellWin ∧ t.threads = s.threads ∧ t.mem = s.mem))

-- the matrix engine and the end of threads (R236, R283-R309)

/-- `mfmt` (R286, R287, R301) writes FMT with a combination of formats; `mwgt` (R307) gives one core a weight of 1 to 8 and leaves the others'.
`mbld` (R302), `mmq` (R293, R294, R303), `mstat` (R304) and `mcan` (R305): a load or a single command that passes its checks joins the tail of
the queue while its core has fewer than 4 entries, and otherwise `mmq` waits with the record it has read, which it then takes; a group's waits for its
three partners, each asked; a record that fails a check sets SUB, RTAG and REJ and retires where MTRAP is clear; `mstat` reads the status and clears it; `mcan` with nothing to cancel retires, and otherwise sets CAN. -/
def Obligations.MatrixInstructions : Prop :=
  (∀ (s : State) (p : Pfx) (a b : RegNo), s.guardHolds p = true →
    (wbits (s.x a) 63 19 = 0 → fmtCombo ((s.x a).setWidth 19) = true →
      ∃ t, exec (.mfmt p a) s = .next t ∧ t.thr.fmt = (s.x a).setWidth 19 ∧
        t.thr.specials = { s.thr.specials with fmt := (s.x a).setWidth 19 } ∧ s.Retires t (s.nextPc 3 p) ∧ s.RegsKept t [] ∧
        s.PredsKept t [] ∧ s.MemoryKept t ∧ t.surroundings = s.surroundings) ∧
    (s.thr.priv ≠ 0 → (s.x a).toNat < 8 → 1 ≤ (s.x b).toNat → (s.x b).toNat ≤ 8 →
      ∃ t, exec (.mwgt p a b) s = .next t ∧ s.Completes t [] [] (s.nextPc 3 p) ∧
        (t.tile s.tileNo).mat.weight (s.x a).toNat = (s.x b).toNat ∧
        ∀ k, k < 8 → k ≠ (s.x a).toNat → (t.tile s.tileNo).mat.weight k = (s.tile s.tileNo).mat.weight k)) ∧
  (∀ (s : State) (p : Pfx) (d a b : RegNo), s.guardHolds p = true → s.thr.intervalOpen = false →
    (∀ off sf sc, (sf, sc) = (match s.myResid with | some r => (r.slotFirst, r.slotCount) | none => (0, 0)) →
      mbldCheck (s.reg a) (s.x b) s.quarters.length sf sc = .ok off → unsent s.thr.sb = 0 → s.qlen s.tileNo s.coreNo < 4 →
      ∃ t c, exec (.mbld p a b) s = .next t ∧ s.Completes t [] [] (s.nextPc 3 p) ∧
        (t.tile s.tileNo).mat.queue = (s.tile s.tileNo).mat.queue ++ [c] ∧ c.load = true ∧ c.shape = (s.x b).setWidth 512 ∧ c.src = off ∧
        c.core = s.coreNo ∧ c.asid = s.thr.asid ∧ c.lgen = s.thr.lgen ∧ c.accepted = true) ∧
    (∀ off g res r, (s.thr.mrec = some r ∨ (s.thr.mrec = none ∧ mmqCheck (s.reg a) (permR ||| permENG) s.quarters.length = .ok off ∧
        unsent s.thr.sb = 0 ∧ s.poisonIn off 64 = none ∧ r = BitVec.ofNat 512 (ofBytes (s.vbytes off 64)))) →
      (4 ≤ s.qlen s.tileNo s.coreNo →
        ∃ t, exec (.mmq p a) s = .next t ∧ t.thr.park = some .matQueue ∧ t.thr.mrec = some r ∧ t.thr.pcc = s.thr.pcc ∧ t.thr.regs = s.thr.regs ∧
          (t.tile s.tileNo).mat = (s.tile s.tileNo).mat) ∧
      (s.qlen s.tileNo s.coreNo < 4 → s.myGang = some g → s.myResid = some res →
      (s.leadCheck s.tileNo s.coreNo g res r s.thr.fmt = none → shGrp r = false →
        ∃ t c, exec (.mmq p a) s = .next t ∧ s.Completes t [] [] (s.nextPc 3 p) ∧
          (t.tile s.tileNo).mat.queue = (s.tile s.tileNo).mat.queue ++ [c] ∧ c.load = false ∧ c.shape = r ∧ c.fmt = s.thr.fmt ∧ c.part = 0 ∧
          c.pass = 0 ∧ c.core = s.coreNo ∧ c.asid = s.thr.asid ∧ c.lgen = s.thr.lgen ∧ c.accepted = true) ∧
      (s.leadCheck s.tileNo s.coreNo g res r s.thr.fmt = none → shGrp r = true →
        ∃ t c q1 q2 q3, exec (.mmq p a) s = .next t ∧ t.thr.park = some (.matGroup s.nextId) ∧ t.thr.pcc = s.thr.pcc ∧
          (t.tile s.tileNo).mat.queue = (s.tile s.tileNo).mat.queue ++ [c] ∧ c.seq = s.nextId ∧ c.accepted = false ∧
          t.packets = s.packets ++ [q1, q2, q3] ∧
          (∀ x ∈ [(q1, 1), (q2, 2), (q3, 3)], x.1.dst = shPartner r x.2 ∧ x.1.body = .shareRequest s.nextId r s.thr.fmt s.coreNo x.2)) ∧
      (∀ sub, s.leadCheck s.tileNo s.coreNo g res r s.thr.fmt = some sub → s.thr.mtrap = false →
        ∃ t m, exec (.mmq p a) s = .next t ∧ s.Completes t [] [] (s.nextPc 3 p) ∧
          assocGet s.myKey MStat.zero ((t.tile s.tileNo).core s.coreNo).mstat = m ∧ m.sub = sub ∧ m.rtag = shCtag r ∧ m.part = 0 ∧
          m.rej = min 65535 ((assocGet s.myKey MStat.zero ((s.tile s.tileNo).core s.coreNo).mstat).rej + 1) ∧
          (t.tile s.tileNo).mat = (s.tile s.tileNo).mat))) ∧
    (∃ t, exec (.mstat p d) s = .next t ∧ s.Completes t [d] [] (s.nextPc 3 p) ∧
      t.reg d = readBack d (.int (BitVec.ofNat 64 s.mstatWord)) ∧
      assocGet s.myKey MStat.zero ((t.tile s.tileNo).core s.coreNo).mstat = .zero) ∧
    (wbits (s.x a) 63 1 = 0 → (∀ c ∈ (s.tile s.tileNo).mat.queue, c.core ≠ s.coreNo ∨ c.key ≠ s.myKey) →
      ∃ t, exec (.mcan p a) s = .next t ∧ s.RegisterOnly t [] [] (s.nextPc 3 p)) ∧
    (wbits (s.x a) 63 1 = 0 → ∀ c ∈ (s.tile s.tileNo).mat.queue, c.core = s.coreNo → c.key = s.myKey → c.part = 0 → c.load = false →
      c.accepted = true → c.stopping = false → c.pass = 0 →
      ∃ t, exec (.mcan p a) s = .next t ∧ (assocGet s.myKey MStat.zero ((t.tile s.tileNo).core s.coreNo).mstat).can = true ∧
        (∀ q ∈ (t.tile s.tileNo).mat.queue, q.seq = c.seq → q.stopping = true) ∧ s.MemoryKept t))

/-- PASS_START (R66, R284, R289) and PANEL_LOAD (R285, R302): the granted command's next pass is computed, counted in MXPASS (80) and queued to drain
row by row; a granted load copies its columns from the window to its panel, the columns past its width zero, and leaves the queue.
Of what the rules leave open, it states the model's choices of log 35.
ROW_DRAIN (R287, R295) and HANDLER_START (R296), `hrel` (R306): the oldest row goes to D converted, or with a handler to the lowest free buffer of
its core, as FP32 or INT32 with zeros behind it; a handler thread starts in slot 1 of that core at the entry of its row, pinned; `hrel` writes the row
it holds to D, frees its buffer and ends its thread, whose entries for homes outside the field are still sent.
Of what the rules leave open, it states the model's choices of log 35. -/
def Obligations.MatrixArrayRuns : Prop :=
  (∀ (s : State) (t ptr k credit : Nat) (c : MatCmd) (res : Resid), s.arrayStopped t = false → s.arbitrate t = some (c, ptr, k, credit) →
    (s.tile t).residFor c.asid c.lgen c.ltn = some res →
    (c.load = false → (s.tile t).mat.draining < 2 →
      ∃ u, exec (.passStart t) s = .next u ∧ (u.tile t).count 80 = (s.tile t).count 80 + 1 ∧ u.mem = s.mem ∧
        (u.tile t).mat.rows = (s.tile t).mat.rows ++
          (List.range (min 32 (localM c.shape c.part - 32 * (c.pass % rowBlocks c.shape c.part)))).map (fun i =>
            (s.passRow t res c (32 * (c.pass % rowBlocks c.shape c.part) + i) (c.pass / rowBlocks c.shape c.part)).1) ∧
        (∃ q ∈ (u.tile t).mat.queue, q.seq = c.seq ∧ q.pass = c.pass + 1) ∧
        (u.tile t).mat.ptr = ptr ∧ (u.tile t).mat.grant = some k ∧ (u.tile t).mat.credit = credit) ∧
    (∀ (b : Word) (cb w cs : Nat), c.load = true → b = c.shape.setWidth 64 → cb = rowBytes (wbits b 11 8) (wbits b 28 16) → w = wbits b 57 52 →
      cs = wbits b 51 32 → c.src % 32 = 0 → cs % 32 = 0 → (∀ q ∈ res.quarters, q < 4) →
      c.src + (w - 1) * cs + cb ≤ windowBytes res.quarters.length →
      ∃ u, exec (.panelLoad t) s = .next u ∧ (u.tile t).mat.slots = loadRecords (s.tile t).mat.slots c ∧
        (∀ q ∈ (u.tile t).mat.queue, q.seq ≠ c.seq) ∧
        (∀ j i, j < 48 → i < cb → Memory.get u.mem (panelKey t (wbits b 5 0) j i) =
          if j < w then Memory.get s.mem (windowKey t res.quarters (c.src + j * cs + i)) else 0) ∧
        ∀ x, (∀ j i, j < 48 → i < cb → x ≠ panelKey t (wbits b 5 0) j i) → Memory.get u.mem x = Memory.get s.mem x)) ∧
  ((∀ (s : State) (t : Nat) (r : Row) (rest : List Row) (c : MatCmd) (res : Resid) (o : Nat), (s.tile t).mat.rows = r :: rest →
    (s.tile t).mat.queue.find? (fun c => c.seq = r.cmd) = some c → (s.tile t).residFor c.asid c.lgen c.ltn = some res →
    (shHen c.shape = false → o = shDBase c.shape + r.row * shDStr c.shape + 48 * r.col * fmtBytes (fmtOfCode (fmtDF c.fmt)) →
      s.engineWaits t c.asid c.lgen res.quarters o (drainRow c.fmt r.vals).1.length = none →
      ∃ u, exec (.rowDrain t) s = .next u ∧ (u.tile t).mat.rows = rest ∧
        u.mem = (s.engineWrite t c.asid c.lgen res.quarters o (drainRow c.fmt r.vals).1 r.psn).mem) ∧
    (∀ b free, shHen c.shape = true → s.freeBuffers t c = b :: free →
      s.engineWaits t c.asid c.lgen res.quarters (drainBase res.quarters.length c.core b) 192 = none →
      ∃ u h, exec (.rowDrain t) s = .next u ∧ (u.tile t).mat.rows = rest ∧
        u.mem = (s.engineWrite t c.asid c.lgen res.quarters (drainBase res.quarters.length c.core b)
          ((r.vals ++ List.replicate (48 - r.vals.length) 0).flatMap fun v : BitVec 32 => bytesOf 4 v.toNat) r.psn).mem ∧
        ((u.tile t).core c.core).bufs = ((s.tile t).core c.core).bufs ++ [h] ∧ h.cmd = c.seq ∧ h.buf = b ∧
        h.row = lineRow c.part + r.row ∧ h.col = lineCol c.part + 48 * r.col ∧ h.n = r.vals.length ∧ h.handed = false ∧ h.ltn = c.ltn)) ∧
  (∀ (s : State) (t core : Nat) (h : HeldRow) (g : Gang) (r : Resid), core < 8 → s.slotEmpty t core 1 = true →
    ((s.tile t).core core).bufs.find? (fun h => !h.handed && (s.tile t).runners.any fun r => r.asid = h.asid && r.lgen = h.lgen) = some h →
    s.gang? h.asid h.lgen = some g → (s.tile t).residFor h.asid h.lgen h.ltn = some r → (∀ th ∈ s.threads, th.id < s.nextId) →
    ∃ u th, exec (.handlerStart t core) s = .next u ∧ th ∈ u.threads ∧ th.loc = .slot t core 1 ∧
      th.kind = .handler { h with handed := true } ∧ th.pinned = true ∧ th.fmt = h.fmt ∧ th.priv = 0 ∧ th.asid = g.asid ∧ th.lgen = g.lgen ∧
      th.pc = BitVec.ofNat 48 (g.code.base + h.hent) ∧ th.regs[1] = windowCap (drainBase r.quarters.length core h.buf) 192 ∧
      th.regs[2] = windowCap h.dOff (h.n * fmtBytes (fmtOfCode (fmtDF h.fmt))) ∧
      th.regs[3] = .int (BitVec.ofNat 64 (h.row * 65536 + h.col))) ∧
  (∀ (s : State) (p : Pfx) (h : HeldRow) (r : Resid) (base : Nat) (vs : List (BitVec 32)), s.guardHolds p = true →
    s.thr.heldRow = some h → s.myResid = some r → base = drainBase r.quarters.length h.core h.buf → s.thr.groupWaits = false →
    s.poisonIn base (4 * h.n) = none → vs = (List.range h.n).map (fun j => BitVec.ofNat 32 (ofBytes (s.vbytes (base + 4 * j) 4))) →
    s.engineWaits s.tileNo h.asid h.lgen r.quarters h.dOff (drainRow h.fmt vs).1.length = none →
    ∃ t, exec (.hrel p) s = .next t ∧
      t.placeOf s.thr.id = some (if drained s.thr.sb then .ended else .draining s.thr.loc.site s.thr.loc.core) ∧
      t.mem = (s.engineWrite s.tileNo h.asid h.lgen r.quarters h.dOff (drainRow h.fmt vs).1 false).mem ∧
      ∀ o ∈ ((t.tile s.tileNo).core h.core).bufs, ¬(o.cmd = h.cmd ∧ o.buf = h.buf ∧ o.asid = h.asid ∧ o.lgen = h.lgen)))

/-- The five packets of a group (R294, R297, R305): a partner reserves an entry for its line and answers 0, keeps the
request aside while it has no entry free, or answers the sub-code that fails; with
three answers of 0 and its own line still valid the lead starts its partners and its instruction retires; a start makes the share ready, a report ends the lead's wait for that
partner, and a cancellation stops the share or releases it. -/
def Obligations.MatrixGroups : Prop :=
  ∀ (s : State) (pk t cmd part : Nat) (p : Packet) (res : Resid), s.Arrives pk p t → p.id = pk → pk < s.nextId →
    s.residentAt t p.asid p.lgen p.dst = some res → res.quenching = false →
    (∀ r f core g, p.body = .shareRequest cmd r f core part → s.gang? p.asid p.lgen = some g →
      (lineCheck (s.tile t).mat.seen res g.code core r f part = none → (s.tile t).partnerEntries < 2 →
        ∃ u c q, exec (.groupShareRequest pk) s = .next u ∧ (u.tile t).mat.queue = (s.tile t).mat.queue ++ [c] ∧ c.part = part ∧ c.lead = p.src ∧
          c.leadCmd = cmd ∧ c.shape = r ∧ c.fmt = f ∧ c.accepted = false ∧ q ∈ u.packets ∧ q.dst = p.src ∧
          q.body = .shareAnswer cmd part 0 ∧ u.Acknowledged pk p 0) ∧
      (lineCheck (s.tile t).mat.seen res g.code core r f part = none → 2 ≤ (s.tile t).partnerEntries →
        ∃ u q, exec (.groupShareRequest pk) s = .next u ∧ u.packet? pk = some q ∧ q.pos = .aside t ∧ q.body = p.body ∧ q.dst = p.dst ∧
          (u.tile t).mat = (s.tile t).mat) ∧
      (∀ sub, lineCheck (s.tile t).mat.seen res g.code core r f part = some sub →
        ∃ u q, exec (.groupShareRequest pk) s = .next u ∧ (u.tile t).mat = (s.tile t).mat ∧ q ∈ u.packets ∧ q.dst = p.src ∧
          q.body = .shareAnswer cmd part sub ∧ u.Acknowledged pk p 0)) ∧
    (∀ sub c x, p.body = .shareAnswer cmd part sub → (s.tile t).mat.queue.find? (fun c => c.seq = cmd) = some c → c.accepted = false →
      ((s.tile t).mat.queue.map fun c => c.seq).Nodup → (s.threads.map fun th => th.id).Nodup →
      ((assocSet part sub c.answers).length < 3 →
        ∃ u, exec (.groupShareAnswer pk) s = .next u ∧ u.packet? pk = none ∧
          { c with answers := assocSet part sub c.answers } ∈ (u.tile t).mat.queue) ∧
      ((assocSet part sub c.answers).length = 3 → (∀ k, assocGet k 0 (assocSet part sub c.answers) = 0) → s.thread? c.th = some x →
        x.park = some (.matGroup cmd) →
        (∀ g r, s.gang? x.asid x.lgen = some g → (s.tile t).residFor c.asid c.lgen c.ltn = some r →
          lineCheck (s.tile t).mat.seen r g.code c.core c.shape c.fmt 0 = none) →
        ∃ u y q1 q2 q3, exec (.groupShareAnswer pk) s = .next u ∧ u.thread? c.th = some y ∧
          y.pcc = x.pcc.withCursor (x.pc + BitVec.ofNat 48 c.src) ∧ y.retc = x.retc + 1 ∧ y.regs = x.regs ∧
          { c with answers := assocSet part sub c.answers, accepted := true } ∈ (u.tile t).mat.queue ∧
          u.packets = s.packets.filter (fun q => q.id ≠ pk) ++ [q1, q2, q3] ∧
          ∀ z ∈ [(q1, 1), (q2, 2), (q3, 3)], z.1.dst = shPartner c.shape z.2 ∧ z.1.body = .shareStart cmd z.2)) ∧
    (p.body = .shareStart cmd part →
      ∃ u, exec (.groupStartOrder pk) s = .next u ∧ u.Acknowledged pk p 0 ∧
        ∀ c, s.shareOf t cmd part = some c → ∀ q ∈ (u.tile t).mat.queue, q.seq = c.seq → q.accepted = true) ∧
    (∀ fl psn, p.body = .shareReport cmd part fl psn →
      ∃ u, exec (.groupCompletionReport pk) s = .next u ∧ u.Acknowledged pk p 0 ∧
        ∀ q ∈ (u.tile t).mat.queue, q.seq = cmd → part ∉ q.reports) ∧
    (∀ c, p.body = .shareCancel cmd part → s.shareOf t cmd part = some c →
      ∃ u, exec (.groupCancel pk) s = .next u ∧ u.Acknowledged pk p 0 ∧
        (c.accepted = true → ∀ q ∈ (u.tile t).mat.queue, q.seq = c.seq → q.stopping = true) ∧
        (c.accepted = false → (∀ q ∈ (u.tile t).mat.queue, q.seq ≠ c.seq) ∧
          ∃ q ∈ u.packets, q.dst = c.lead ∧ q.body = .shareReport c.leadCmd part c.flags c.psn))

/-- `tend` (R236): with no full/empty capability in c3 the thread ends once its store buffer is drained; with one to a word of the local window that
the gang owns the word is first decremented, and becomes full when it was 1. -/
def Obligations.TaskEnds : Prop :=
  ∀ (s : State) (p : Pfx), s.guardHolds p = true → s.thr.intervalOpen = false → drained s.thr.sb = true → s.thr.heldRow = none →
    (((s.reg 3).tag && (s.reg 3).can permSYN) = false →
      ∃ t, exec (.tend p) s = .next t ∧ t.placeOf s.thr.id = some .ended ∧ t.thr.regs = s.thr.regs ∧ t.surroundings = s.surroundings ∧
        s.MemoryKept t) ∧
    (∀ pa, (s.reg 3).Covers 8 (permW ||| permSYN) → s.InWindow (s.reg 3).cursor 8 → pa = s.windowAt (s.reg 3).cursor → keySite pa = s.tileNo →
      (∀ w ∈ (s.tile s.tileNo).waiters, w.pa ≠ pa) → (s.tile s.tileNo).owns (quarterOf pa) s.thr.asid s.thr.lgen = true →
      s.poisoned pa 8 = false → s.writeWaits s.thr.id s.thr.asid s.thr.lgen pa 8 = none →
      ∃ t, exec (.tend p) s = .next t ∧ t.placeOf s.thr.id = some .ended ∧ t.nat pa 8 = (s.nat pa 8 + (2 ^ 64 - 1)) % 2 ^ 64 ∧
        t.fullAt pa = (s.fullAt pa || decide (s.nat pa 8 = 1)) ∧ s.MemoryKeptBut t pa 8)

-- the event engine (R310-R329)

/-- The instructions of the event engine, with no run of the gang accepted or in progress (R322-R328): `evset` installs the context its record
describes, `evdyn` a record of dynamics, `evrd` and `evwr` read and write an accumulator's state word, `evpost` makes a store-buffer entry for a tile
of the gang, `evrun` queues a run, and `evcnt` reads a counter of the context and clears it where asked. -/
def Obligations.EventInstructions : Prop :=
  ∀ (s : State) (p : Pfx) (d a b : RegNo), s.guardHolds p = true → s.thr.intervalOpen = false →
    (∀ off r f s' pages, mmqCheck (s.reg a) (permR ||| permENG ||| permLC) s.quarters.length = .ok off → unsent s.thr.sb = 0 →
      (s.tile s.tileNo).ev.busy s.thr.asid s.thr.lgen = false → s.poisonIn off 64 = none → r = ofBytes (s.vbytes off 64) →
      s.evsetCheck ((s.reg a).cursor.setWidth 64) r (s.tagAt (s.winKey (off + 16))) = .ok f →
      (∀ k, s.withPages f.cursor.toNat f.limit 64 k = k s' pages) →
      ∃ t c, exec (.evset p a) s = .next t ∧ s'.Completes t [] [] (s'.nextPc 3 p) ∧
        (t.tile s'.tileNo).ev.ctx? s'.thr.asid s'.thr.lgen s'.thr.ltn = some c ∧ c.first = bitsOf r 15 0 ∧ c.count = bitsOf r 32 16 ∧
        c.look = bitsOf r 45 40 ∧ c.ltrap = decide (bitsOf r 46 46 = 1) ∧ c.hzn = bitsOf r 95 64 ∧ c.fo = f ∧ c.pages = pages ∧
        ∀ q ∈ (t.tile s'.tileNo).ev.queue, q.1 = gangKey s'.thr.asid s'.thr.lgen → q.2.name = s'.thr.ltn → bitsOf r 95 64 ≤ q.2.tick) ∧
    ((s.x a).toNat < 64 → wbits (s.x b) 63 62 = 0 → s.ownsBank ((s.x a).toNat / 16) = true →
      ((s.x b).getLsbD 61 = true → bitsOf (s.reg b).bits.toNat 127 64 % 2 = 0 ∧
        s.codeCap.base + bitsOf (s.reg b).bits.toNat 127 64 + 2 ≤ s.codeCap.limit) →
      (s.tile s.tileNo).ev.busy s.thr.asid s.thr.lgen = false →
      ∃ t, exec (.evdyn p a b) s = .next t ∧ s.Completes t [] [] (s.nextPc 3 p) ∧
        assocGet (s.x a).toNat 0 (t.tile s.tileNo).ev.dyn = (s.reg b).bits ∧
        ∀ n, n ≠ (s.x a).toNat → assocGet n 0 (t.tile s.tileNo).ev.dyn = assocGet n 0 (s.tile s.tileNo).ev.dyn) ∧
    (∀ j, j < 65536 → (s.x a).toNat = j → s.ownsBank (j / 16384) = true → (s.tile s.tileNo).ev.busy s.thr.asid s.thr.lgen = false →
      (∃ t, exec (.evrd p d a) s = .next t ∧ t.reg d = readBack d (.int ((assocGet j 0 (s.tile s.tileNo).ev.acc).setWidth 64)) ∧
        s.RegisterOnly t [d] [] (s.nextPc 3 p)) ∧
      (wbits (s.x b) 63 26 = 0 → s.ownsBank (wbits (s.x b) 21 16 / 16) = true →
        ∃ t, exec (.evwr p a b) s = .next t ∧ s.Completes t [] [] (s.nextPc 3 p) ∧
          assocGet j 0 (t.tile s.tileNo).ev.acc = (s.x b).setWidth 32 ∧
          ∀ n, n ≠ j → assocGet n 0 (t.tile s.tileNo).ev.acc = assocGet n 0 (s.tile s.tileNo).ev.acc)) ∧
    (∀ name u, wbits (s.x a) 63 51 = 0 → wbits (s.x b) 63 32 = 0 → wbits (s.x a) 18 0 = name → s.badName s.tileNo name = false →
      ltnModule name = siteModule s.tileNo → ((s.tile s.tileNo).ncache.find? fun e => e.1 = name) = some (name, u) →
      s.gangTile name = true → unsent s.thr.sb < 8 → unacked s.thr.sb < 32 →
      ∃ t seq, exec (.evpost p a b) s = .next t ∧ s.Completes t [] [] (s.nextPc 3 p) ∧
        t.thr.sb = s.thr.sb ++ [.entry seq
          (.event name { tick := (s.x b).toNat, wt := BitVec.ofNat 16 (wbits (s.x a) 50 35), idx := wbits (s.x a) 34 19 }) 0
          (.tile u 0 name) false .plain .system none]) ∧
    (∀ c, wbits (s.x a) 63 14 = 0 → wbits (s.x a) 7 6 = 0 → (s.tile s.tileNo).ev.ctx? s.thr.asid s.thr.lgen s.thr.ltn = some c →
      1 ≤ wbits (s.x a) 5 0 → wbits (s.x a) 5 0 ≤ c.look → (s.tile s.tileNo).ev.busy s.thr.asid s.thr.lgen = false →
      (∀ q ∈ c.pages, q.stale = false) → unsent s.thr.sb = 0 →
      ∃ t r, exec (.evrun p a) s = .next t ∧ s.Completes t [] [] (s.nextPc 3 p) ∧
        (t.tile s.tileNo).ev.runs = (s.tile s.tileNo).ev.runs ++ [r] ∧ r.asid = s.thr.asid ∧ r.lgen = s.thr.lgen ∧
        r.left = wbits (s.x a) 5 0 ∧ r.tag = wbits (s.x a) 13 8 ∧ r.core = s.coreNo) ∧
    (wbits (s.x a) 63 3 = 0 → (s.tile s.tileNo).ev.ctx? s.thr.asid s.thr.lgen s.thr.ltn = none →
      ∃ t, exec (.evcnt p d a) s = .next t ∧ t.reg d = .zero ∧ s.RegisterOnly t [d] [] (s.nextPc 3 p)) ∧
    (∀ c w, wbits (s.x a) 63 3 = 0 → (s.tile s.tileNo).ev.ctx? s.thr.asid s.thr.lgen s.thr.ltn = some c →
      ((wbits (s.x a) 1 0 = 0 ∧ w = c.fire) ∨ (wbits (s.x a) 1 0 = 1 ∧ w = c.late) ∨ (wbits (s.x a) 1 0 = 2 ∧ w = c.drop) ∨
       (wbits (s.x a) 1 0 = 3 ∧ w = BitVec.ofNat 64 (c.look * 2 ^ 36 + bit ((s.tile s.tileNo).ev.busy s.thr.asid s.thr.lgen) * 2 ^ 35 +
         bit c.sPsn * 2 ^ 34 + bit c.sDrop * 2 ^ 33 + bit c.sLate * 2 ^ 32 + c.hzn))) →
      ∃ t, exec (.evcnt p d a) s = .next t ∧ t.reg d = readBack d (.int w) ∧ s.Completes t [d] [] (s.nextPc 3 p) ∧
        ((s.x a).getLsbD 2 = false → t.surroundings = s.surroundings) ∧
        ((s.x a).getLsbD 2 = true → ∃ c', (t.tile s.tileNo).ev.ctx? s.thr.asid s.thr.lgen s.thr.ltn = some c' ∧
          (wbits (s.x a) 1 0 = 0 → c'.fire = 0) ∧ (wbits (s.x a) 1 0 = 1 → c'.late = 0) ∧ (wbits (s.x a) 1 0 = 2 → c'.drop = 0) ∧
          (wbits (s.x a) 1 0 = 3 → c'.sPsn = false ∧ c'.sDrop = false ∧ c'.sLate = false)))

/-- EVENT_ARRIVAL (R314, R317): an event for an owned accumulator of the active range and at or past the horizon is queued; one behind the horizon
counts as late, one outside the range as dropped; the packet is acknowledged.
TICK and HOOK_PUSH_RETRY (R316, R319): a tick of the run at the head gives every accumulator of the active range its new state word from the
events due, saturated to 32 bits, leaves the others as they were, and moves the horizon to the next tick; the hook record held for the last neuron of a
tick is pushed when its deque has room.
Of what the rules leave open, it states the model's choices of log 36. -/
def Obligations.EventEngineRuns : Prop :=
  (∀ (s : State) (pk t : Nat) (p : Packet) (es : List Event) (c : EvCtx) (res : Resid), s.Arrives pk p t → p.id = pk → pk < s.nextId →
    p.body = .events es → s.residentAt t p.asid p.lgen p.dst = some res → res.quenching = false →
    (s.tile t).ev.ctx? p.asid p.lgen res.ltn = some c → (∀ e ∈ es, (s.tile t).ev.owns (e.idx / 16384) p.asid p.lgen = true) →
    ((∀ e ∈ es, c.first ≤ e.idx ∧ e.idx < c.first + c.count ∧ c.hzn ≤ e.tick) → 
      ((s.tile t).ev.queue.filter fun q => ltnField q.2.name = ltnField res.ltn).length + es.length ≤ 262144 →
      ∃ u, exec (.eventArrival pk) s = .next u ∧ u.Acknowledged pk p 0 ∧
        (u.tile t).ev.queue = (s.tile t).ev.queue ++
          es.map fun e => (gangKey p.asid p.lgen, { e with name := res.ltn, stk := s.stkOf p.asid p.lgen })) ∧
    (∀ e, es = [e] → c.first ≤ e.idx → e.idx < c.first + c.count → e.tick < c.hzn →
      ∃ u c', exec (.eventArrival pk) s = .next u ∧ u.Acknowledged pk p 0 ∧ (u.tile t).ev.queue = (s.tile t).ev.queue ∧
        (u.tile t).ev.ctx? p.asid p.lgen res.ltn = some c' ∧ c'.late = c.late + 1 ∧ c'.sLate = true ∧ c'.drop = c.drop) ∧
    (∀ e, es = [e] → (e.idx < c.first ∨ c.first + c.count ≤ e.idx) →
      ∃ u c', exec (.eventArrival pk) s = .next u ∧ u.Acknowledged pk p 0 ∧ (u.tile t).ev.queue = (s.tile t).ev.queue ∧
        (u.tile t).ev.ctx? p.asid p.lgen res.ltn = some c' ∧ c'.drop = c.drop + 1 ∧ c'.sDrop = true ∧ c'.late = c.late)) ∧
  ((∀ (s : State) (t : Nat) (r : EvRun) (c : EvCtx), (s.tile t).ev.tick = none → s.currentRun t = some r →
    (s.tile t).ev.ctx? r.asid r.lgen r.ltn = some c →
    ∃ u c', exec (.tick t) s = .next u ∧ (u.tile t).ev.ctx? r.asid r.lgen r.ltn = some c' ∧ c'.hzn = (c.hzn + 1) % 2 ^ 32 ∧
      (∀ j, c.first ≤ j → j < c.first + c.count →
        assocGet j 0 (u.tile t).ev.acc =
          (updateCell (assocGet j 0 (s.tile t).ev.acc) ((s.tile t).ev.dynOf (assocGet j 0 (s.tile t).ev.acc))
            (satBits 32 ((((s.tile t).ev.queue.filter fun q => q.1 = gangKey c.asid c.lgen && q.2.name = c.ltn && q.2.tick = c.hzn && q.2.idx = j).map
              fun q => q.2.wt.toInt).sum))).1) ∧
      ∀ j, (j < c.first ∨ c.first + c.count ≤ j) → assocGet j 0 (u.tile t).ev.acc = assocGet j 0 (s.tile t).ev.acc) ∧
  (∀ (s s' : State) (t core : Nat) (r : TaskRec), (s.tile t).ev.hook = [(core, r)] →
    (∀ k, (s.tile t).ev.tick = some k → k.fired = []) → s.push t core r = .done s' →
    ∃ u, exec (.hookPushRetry t) s = .next u ∧ (u.tile t).ev.hook = [] ∧
      ((u.tile t).core core).deque = ((s'.tile t).core core).deque))

-- tandem pairs, commits and rollback (R330-R359)

/-- `tdm`, `tchk` and TANDEM_COMPARE (R353-R357): `tdm` on an even core couples the thread with a follower in the lowest free general slot of the odd
core of its pair; on an odd core the thread goes on in the lowest free general slot of the even core, its follower in the lowest slot left in its own;
the state after it is the checkpoint, and with no free slot in the other core it waits; on a coupled thread at an interval's end it uncouples; `tchk`
closes an open interval before it retires; fingerprints that agree make the state the checkpoint, the thread waiting
on only for what its instruction waits for, and those that do not restore the checkpoint, counted in TDMMIS (89).
Of what the rules leave open, it states the model's choices of log 45. -/
def Obligations.TandemPairs : Prop :=
  (∀ (s : State) (p : Pfx) (m n c t : Nat) (rest : List Nat), s.guardHolds p = true → s.thr.loc = .slot t c n → 2 ≤ n → s.thr.tandem = none →
    s.freeSlots t (pairCore c) = m :: rest →
    ∃ u f, exec (.tdm p) s = .next u ∧ u.thr.tandem = some f ∧
      (c % 2 = 0 → f.slot = m ∧ u.thr.loc = s.thr.loc) ∧
      (c % 2 = 1 → u.thr.loc = .slot t (c - 1) m ∧ f.slot = min n ((s.freeSlots t c).headD n)) ∧ f.count = 0 ∧ f.leadFp = 0xFFFFFFFF ∧ f.followFp = 0xFFFFFFFF ∧
      f.missed = false ∧ f.check = u.thr.toArch ∧ u.thr.stat.getLsbD 4 = true ∧ u.pc = s.nextPc 3 p ∧
      u.thr.retc = s.thr.retc + 1 ∧ s.RegsKept u [] ∧ s.PredsKept u [] ∧ s.MemoryKept u ∧ u.surroundings = s.surroundings) ∧
  (∀ (s : State) (p : Pfx) (n c t : Nat), s.guardHolds p = true → s.thr.loc = .slot t c n → 2 ≤ n → s.thr.tandem = none →
    s.freeSlots t (pairCore c) = [] → exec (.tdm p) s = .next (s.parkOn .pairSlot)) ∧
  (∀ (s : State) (p : Pfx) (f : Tandem), s.guardHolds p = true → 2 ≤ s.thr.loc.slotNo → s.thr.tandem = some f → s.thr.intervalOpen = false →
    ∃ u, exec (.tdm p) s = .next u ∧ u.thr.tandem = none ∧ u.thr.stat.getLsbD 4 = false ∧ u.pc = s.nextPc 3 p ∧
      u.thr.retc = s.thr.retc + 1 ∧ s.RegsKept u [] ∧ s.PredsKept u [] ∧ s.MemoryKept u ∧ u.surroundings = s.surroundings) ∧
  (∀ (s : State) (p : Pfx), s.guardHolds p = true →
    (s.thr.intervalOpen = false → ∃ u, exec (.tchk p) s = .next u ∧ s.RegisterOnly u [] [] (s.nextPc 3 p)) ∧
    (s.thr.intervalOpen = true → exec (.tchk p) s = .next (s.parkOn .follower))) ∧
  (∀ (s : State) (x : Thread) (f : Tandem), s.thread? x.id = some x → x.tandem = some f → x.loc.inSlot = true → x.park = some .follower →
    (s.threads.map fun th => th.id).Nodup →
    (f.leadFp = f.followFp → (∀ va, x.after ≠ some (.fault va)) →
      ∃ u y g, exec (.tandemCompare x.id) s = .next u ∧ u.thread? x.id = some y ∧ y.toArch = x.toArch ∧ y.park = x.after ∧ y.sb = x.sb ∧
        y.tandem = some g ∧ g.check = x.toArch ∧ g.count = 0 ∧ u.mem = s.mem) ∧
    (f.leadFp ≠ f.followFp → f.vector = false → f.missed = false →
      ∃ u y g, exec (.tandemCompare x.id) s = .next u ∧ u.thread? x.id = some y ∧ y.toArch = f.check ∧ y.park = none ∧
        y.sb = dropInterval f.mark x.sb ∧ y.tandem = some g ∧ g.missed = true ∧ g.count = 0 ∧ u.mem = s.mem ∧
        (u.tile x.loc.site).count 89 = (s.tile x.loc.site).count 89 + 1))

/-- COMMIT_REQUEST, MIRROR_WRITE, SHADOW_ACK and COMMIT_REPORT (R331, R338-R341): a site of a committing gang writes back the lines of the round and
captures the gang's items for each of its logical tiles there; under MIRROR a packet for the tile of the same index in the buddy zone leaves on VC3, and where it arrives the items join the
shadow, or count as unmirrored, with the lines and reserve entries, where there is none; the report of the last site is
the commit point: the items are the current copy, undo records go, STK advances but not for an `rcmt`.
Of what the rules leave open, it states the model's choices of log 46. -/
def Obligations.CommitsProceed : Prop :=
  ∀ (s : State) (t g : Nat) (x : Gang) (run : CommitRun), s.gang? (g / 65536) (g % 65536) = some x → x.commit = some run →
    (t ∈ run.todo → (s.tile t).phaseOf g = none →
      ∃ u f, exec (.commitRequest t g) s = .next u ∧ (u.tile t).phaseOf g = some f ∧ f.lines = (s.tile t).roundLines g ∧ f.sent = false ∧
        f.acked = false ∧ f.items ≠ [] ∧
        (∀ c ∈ f.items, c.asid = g / 65536 ∧ c.lgen = g % 65536 ∧ c.live = true ∧ c.stk = (if run.req.isSome then x.stk else x.stk + 1).toNat) ∧
        (∀ r ∈ (s.tile t).resid, r.asid = g / 65536 → r.lgen = g % 65536 → ∃ c ∈ f.items, c.ltn = r.ltn ∧ c.quarters = r.quarters) ∧
        (∀ v ∈ f.lines, ((u.tile t).line v).round ≠ some g) ∧ u.mem = s.mem ∧
        ∀ name w b, x.mir = true → s.mirrorName t g = name → s.shadowSite t name = some w → s.buddy (siteZone t) = some b →
          ∃ q ∈ u.packets, q.vc = 3 ∧ q.dst = ltnOf 0 b (ltnIndex name) ∧ q.body = .mirror t g) ∧
    (∀ f name, (s.tile t).phaseOf g = some f → f.sent = false → (x.mir || f.full) = true → s.mirrorName t g = name →
      (∀ w q, s.shadowSite t name = some w → s.mirrorPacket t g = some q → q.pos = .arrived w →
        ∃ u h f', exec (.mirrorWrite t g) s = .next u ∧ (u.tile w).shadowOf t = some h ∧
          (∀ c ∈ f'.items, c.ltn = name → c ∈ h.pendItems) ∧ (∀ c ∈ f'.items, c.ltn ≠ name → c ∈ f.items) ∧
          f'.items.map (fun c => { c with bmap := [] }) = f.items.map (fun c => { c with bmap := [] }) ∧ (u.tile t).phaseOf g = some f' ∧ f'.sent = true ∧ f'.acked = f.acked) ∧
      (s.shadowSite t name = none →
        ∃ u f', exec (.mirrorWrite t g) s = .next u ∧ (u.tile t).phaseOf g = some f' ∧ f'.sent = true ∧ f'.acked = true ∧
          (u.tile t).count 90 = (s.tile t).count 90 +
            BitVec.ofNat 64 ((f.lines.filter fun v => s.mirFrame t (g / 65536) (v / 16384)).length +
              (s.changedEntries t g name f.full).length + (f.items.map Commit.count).sum) ∧ u.mem = s.mem)) ∧
    (∀ f, (s.tile t).phaseOf g = some f → f.sent = true →
      ∃ u f', exec (.shadowAck t g) s = .next u ∧ (u.tile t).phaseOf g = some f' ∧ f'.acked = true ∧ u.mem = s.mem ∧ u.gangs = s.gangs) ∧
    (∀ f, (s.tile t).phaseOf g = some f → t ∈ run.todo → ((x.mir || f.full) = true → f.acked = true) → x.order = none → x.stopped = false →
      ((∃ w ∈ run.todo, w ≠ t) →
        ∃ u y, exec (.commitReport t g) s = .next u ∧ u.gang? (g / 65536) (g % 65536) = some y ∧
          y.commit = some { run with todo := run.todo.filter fun w => w ≠ t } ∧ y.stk = x.stk ∧ u.tiles = s.tiles) ∧
      ((∀ w ∈ run.todo, w = t) →
        ∃ u y, exec (.commitReport t g) s = .next u ∧ u.gang? (g / 65536) (g % 65536) = some y ∧ y.commit = none ∧
          y.stk = (if run.req.isSome then x.stk else x.stk + 1) ∧ y.committed = true ∧ y.strokeOpen = false ∧
          ((f.items.map fun c => c.ltn).Nodup → ∀ c ∈ f.items, c ∈ (u.tile t).commits) ∧ (u.tile t).phaseOf g = none ∧ u.mem = s.mem ∧
          ∀ e ∈ (u.tile t).undo, ¬(e.asid = g / 65536 ∧ e.lgen = g % 65536)))

/-- `rcmt`, `rbak` and ROLLBACK (R344, R345, R358): a commit or rollback is asked of the cox for a gang that may have it, and is otherwise answered
false in p7; a rollback first ends every thread of the gang, and once nothing of it is in flight leaves no undo record of it and no NRB, its stroke
open again to run from the commit unless it is pre-empted.
Of what the rules leave open, it states the model's choices of log 46. -/
def Obligations.RollbacksProceed : Prop :=
  (∀ (s : State) (p : Pfx) (a : RegNo) (g asid lgen : Nat), s.guardHolds p = true → s.thr.priv ≠ 0 → g = cmdGang (s.x a) → asid = g / 65536 →
    lgen = g % 65536 →
    (∀ x, cmdBad (s.x a) 0 = false → s.gang? asid lgen = some x → x.commit = none → s.mayCommit asid lgen = true →
      ∃ t y, exec (.rcmt p a) s = .next t ∧ t.thr.park = some (.request s.nextId (instrBytes 3 p)) ∧ t.thr.pcc = s.thr.pcc ∧
        t.reqs = s.reqs ++ [.commit s.nextId s.thr.id g] ∧ t.gang? asid lgen = some y ∧
        y.commit = some ({ todo := (s.strokeSites asid lgen), req := (some s.nextId), slot := 0 } : CommitRun) ∧ y.stk = x.stk) ∧
    (cmdBad (s.x a) 0 = false → (s.gang? asid lgen = none ∨ (∃ x, s.gang? asid lgen = some x ∧ x.commit ≠ none) ∨ s.mayCommit asid lgen = false) →
      ∃ t, exec (.rcmt p a) s = .next t ∧ t.pred 7 = false ∧ s.RegisterOnly t [] [7] (s.nextPc 3 p)) ∧
    (cmdBad (s.x a) 1 = false → (s.gang? asid lgen).isSome = true → s.gangNrb asid lgen = false →
      ∃ t, exec (.rbak p a) s = .next t ∧ t.thr.park = some (.request s.nextId (instrBytes 3 p)) ∧ t.thr.pcc = s.thr.pcc ∧
        t.reqs = s.reqs ++ [.rollback s.nextId s.thr.id g (decide (wbits (s.x a) 1 0 = 1))]) ∧
    (cmdBad (s.x a) 1 = false → (s.gang? asid lgen = none ∨ s.gangNrb asid lgen = true) →
      ∃ t, exec (.rbak p a) s = .next t ∧ t.pred 7 = false ∧ s.RegisterOnly t [] [7] (s.nextPc 3 p))) ∧
  (∀ (s : State) (g asid lgen : Nat) (x : Gang), asid = g / 65536 → lgen = g % 65536 → s.gang? asid lgen = some x → s.rollbackDue g x = true →
    (x.stopped = false →
      ∃ u y, exec (.rollback g) s = .next u ∧ u.gang? asid lgen = some y ∧ y.stopped = true ∧ y.commit = none ∧
        ∀ th ∈ u.threads, th.inGang asid lgen = true → th.id = Thread.idle.id) ∧
    (x.stopped = true → s.inFlight asid lgen = false → s.recoverable asid lgen = true →
      ∃ u y, exec (.rollback g) s = .next u ∧ u.gang? asid lgen = some y ∧ y.order = none ∧ y.stopped = false ∧ y.egress = [] ∧
        y.stk = x.stk ∧ (∀ t ∈ s.gangSites asid lgen, ∀ e ∈ (u.tile t).undo, ¬(e.asid = asid ∧ e.lgen = lgen)) ∧
        (∀ t, ∀ r ∈ (u.tile t).resid, r.asid = asid → r.lgen = lgen → r.nrb = false) ∧
        ((∀ q ∈ s.rollbackRequests g, q.2 = false) → (∀ w ∈ s.tiles, ∀ r ∈ w.2.resid, r.asid = asid → r.lgen = lgen → r.preempted = false) →
          x.tiles ≠ [] → y.strokeOpen = true)))

-- stopping, waiting, saving, restoring and ending gangs (R367-R378)

/-- `halt`, `wfi` and WFI_WAKE (R370, R371): `halt` stops its slot past the instruction with management event 5 in the ring; `wfi` retires at once
where a wake source of its slot holds, and otherwise waits until one does. -/
def Obligations.SystemSlotsStopAndWait : Prop :=
  (∀ (s : State) (p : Pfx), s.guardHolds p = true → s.thr.priv ≠ 0 →
    ((s.module (siteModule s.tileNo)).evTail + 1 ≠ (s.module (siteModule s.tileNo)).evHead →
      ∃ t e, exec (.halt p) s = .next t ∧ t.thr.park = some .stopped ∧ s.Completes t [] [] (s.nextPc 3 p) ∧
        (t.module (siteModule s.tileNo)).evTail = (s.module (siteModule s.tileNo)).evTail + 1 ∧
        (t.module (siteModule s.tileNo)).ring =
          assocSet (s.module (siteModule s.tileNo)).evTail.toNat e (s.module (siteModule s.tileNo)).ring ∧ e.code = 5 ∧ e.ltn = s.thr.ltn) ∧
    (s.wakeHolds s.thr.loc = true → ∃ t, exec (.wfi p) s = .next t ∧ s.RegisterOnly t [] [] (s.nextPc 3 p)) ∧
    (s.wakeHolds s.thr.loc = false → exec (.wfi p) s = .next (s.parkOn (.wfi (instrBytes 3 p))))) ∧
  (∀ (s : State) (x : Thread) (len : Nat), s.thread? x.id = some x → x.park = some (.wfi len) → s.wakeHolds x.loc = true →
    (s.threads.map fun th => th.id).Nodup →
    ∃ u y, exec (.wfiWake x.id) s = .next u ∧ u.thread? x.id = some y ∧ y.pcc = x.pcc.withCursor (x.pc + BitVec.ofNat 48 len) ∧
      y.retc = x.retc + 1 ∧ y.regs = x.regs ∧ y.preds = x.preds ∧ u.mem = s.mem)

/-- `cxsv` and GANG_PREEMPT (R372, R373), `cxld` (R374): saving a gang is asked of the cox for one that is not saved, and is otherwise answered false;
the gang is marked on every tile, and saved once it has come to rest; a saved gang whose tiles are there again runs on, with p7 set.
That a `cxsv` of a gang whose saving is under way is answered false too is the model's choice of log 47, as is what else the rules leave open.
`qnch` and GANG_QUENCH (R375): ending a gang is asked of the cox where it exists; its threads end, and once none of its packets is left and its
tiles' engines are idle the gang is gone.
Of what the rules leave open, it states the model's choices of log 47. -/
def Obligations.GangsSavedRestoredEnded : Prop :=
  ((∀ (s : State) (p : Pfx) (a : RegNo) (g asid lgen : Nat), s.guardHolds p = true → s.thr.priv ≠ 0 → cmdBad (s.x a) 0 = false →
    g = cmdGang (s.x a) → asid = g / 65536 → lgen = g % 65536 →
    ((s.gang? asid lgen).isSome = true → s.isPreempted asid lgen = false → s.preemptRequests g = [] →
      ∃ t, exec (.cxsv p a) s = .next t ∧ t.thr.park = some (.request s.nextId (instrBytes 3 p)) ∧ t.thr.pcc = s.thr.pcc ∧
        t.reqs = s.reqs ++ [.preempt s.nextId s.thr.id g]) ∧
    ((s.gang? asid lgen = none ∨ s.isPreempted asid lgen = true ∨ s.preemptRequests g ≠ []) →
      ∃ t, exec (.cxsv p a) s = .next t ∧ t.pred 7 = false ∧ s.RegisterOnly t [] [7] (s.nextPc 3 p)) ∧
    (∀ x, s.gang? asid lgen = some x → s.mayRestore asid lgen x = true → (s.threads.map fun th => th.id).Nodup →
      s.thr.inGang asid lgen = false →
      ∃ t y, exec (.cxld p a) s = .next t ∧ t.pred 7 = true ∧ t.pc = s.nextPc 3 p ∧ t.thr.retc = s.thr.retc + 1 ∧ s.RegsKept t [] ∧
        s.PredsKept t [7] ∧ t.gang? asid lgen = some y ∧ y.saved = [] ∧ y.strokeOpen = (x.strokeOpen || !x.tiles.isEmpty) ∧
        ∀ u, ∀ r ∈ (t.tile u).resid, r.asid = asid → r.lgen = lgen → r.preempted = false) ∧
    ((s.gang? asid lgen = none ∨ s.isPreempted asid lgen = false) →
      ∃ t, exec (.cxld p a) s = .next t ∧ t.pred 7 = false ∧ s.RegisterOnly t [] [7] (s.nextPc 3 p))) ∧
  (∀ (s : State) (g asid lgen : Nat) (x : Gang), asid = g / 65536 → lgen = g % 65536 → s.gang? asid lgen = some x →
    s.preemptDue g x = true → x.commit = none → x.stopped = false →
    ∃ u y, exec (.gangPreempt g) s = .next u ∧ u.gang? asid lgen = some y ∧
      (∀ t, ∀ r ∈ (u.tile t).resid, r.asid = asid → r.lgen = lgen → r.preempted = true) ∧
      ((s.markPreempted asid lgen true).gangAtRest asid lgen = false → u = s.markPreempted asid lgen true) ∧
      ((s.markPreempted asid lgen true).gangAtRest asid lgen = true → y.order = none ∧
        y.saved.map (·.1) = s.gangSites asid lgen ∧ ∀ w ∈ u.tiles, ∀ o ∈ w.2.waiters, ¬(o.asid = asid ∧ o.lgen = lgen)))) ∧
  ((∀ (s : State) (p : Pfx) (a : RegNo) (g : Nat), s.guardHolds p = true → s.thr.priv ≠ 0 → cmdBad (s.x a) 0 = false → g = cmdGang (s.x a) →
    ((s.gang? (g / 65536) (g % 65536)).isSome = true →
      ∃ t, exec (.qnch p a) s = .next t ∧ t.thr.park = some (.request s.nextId (instrBytes 3 p)) ∧ t.thr.pcc = s.thr.pcc ∧
        t.reqs = s.reqs ++ [.quench s.nextId s.thr.id g]) ∧
    (s.gang? (g / 65536) (g % 65536) = none →
      ∃ t, exec (.qnch p a) s = .next t ∧ t.pred 7 = false ∧ s.RegisterOnly t [] [7] (s.nextPc 3 p))) ∧
  (∀ (s s' : State) (g asid lgen : Nat) (x : Gang), asid = g / 65536 → lgen = g % 65536 → s.gang? asid lgen = some x →
    s.quenchRequests g ≠ [] → x.order = none → x.stopped = false → s.rollbackDue g x = false → s.preemptRequests g = [] →
    s' = (s.markQuenching asid lgen).discardGang asid lgen →
    ∃ u, exec (.gangQuench g) s = .next u ∧ (∀ th ∈ u.threads, th.inGang asid lgen = true → th.id = Thread.idle.id) ∧
      (s'.inFlight asid lgen = true → (u.gang? asid lgen).isSome = true ∧
        ∀ t, ∀ r ∈ (u.tile t).resid, r.asid = asid → r.lgen = lgen → r.quenching = true) ∧
      (s'.inFlight asid lgen = false → (∀ t ∈ s'.gangSites asid lgen, s'.enginesIdle t asid lgen = true) →
        u.gang? asid lgen = none ∧ u.quenchRequests g = [])))

-- hosts, launches, the module controller and losses (R162, R221, R262, R348-R351, R379-R397)

/-- WINDOW_ENTRY_WRITE, HOST_POSTED_WRITE, HOST_WATERMARK, HOST_READ and HOST_READ_COMPLETION (R262, R379-R382): a well-formed entry is written and
any other counted in HWDROP; a request past the limits of the endpoint is none; what comes behind an earlier write that waits, or under an entry of a
group that is being reshelved, waits at the port's ingress; an ordered write is held under the port's next number until a watermark covers it, a relaxed
one with nothing held at its homes is performed; a watermark performs what a home holds in turn, ordered writes as far as it covers them and no earlier
one is held elsewhere; a read that no write precedes answers with the bytes, or Unsupported Request; a completion becomes the response of the waiting
thread.  Of what the rules leave open, it states the model's choices of log 48 and log 55. -/
def Obligations.HostPorts : Prop :=
  ∀ (s : State) (port : Nat),
    (∀ w v, w < 65536 → s.windowOk port v = true →
      ∃ u, exec (.windowEntryWrite port w v) s = .next u ∧ assocGet w 0 (u.port port).windows = v ∧ u.mem = s.mem ∧
        ∀ k, k ≠ w → assocGet k 0 (u.port port).windows = assocGet k 0 (s.port port).windows) ∧
    (∀ w v, s.windowOk port v = false →
      ∃ u, exec (.windowEntryWrite port w v) s = .next u ∧ u.ports = s.ports ∧
        (u.module (portModule port)).hwDrop = (s.module (portModule port)).hwDrop + 1) ∧
    (∀ off data relaxed, (data = [] ∨ 512 < data.length ∨ 2 ^ 37 < off + data.length) →
      exec (.hostPostedWrite port off data relaxed) s = .next s) ∧
    (∀ off n, (n = 0 ∨ 4096 < n ∨ 2 ^ 37 < off + n) → exec (.hostRead port off n) s = .next s) ∧
    (∀ off data ps, data ≠ [] → data.length ≤ 512 → off + data.length ≤ 2 ^ 37 → (s.port port).pieces off data.length data = ps →
      (∀ r ∈ (s.port port).ingress, r.id ≠ s.nextId) → (∀ t, ∀ r ∈ (s.tile t).sliceq, r.who ≠ s.nextId) →
      (∀ relaxed, ((∃ p ∈ ps, s.entryHeld p.desc = true) ∨ ∃ r ∈ (s.port port).ingress, r.read = false) →
        ∃ u, exec (.hostPostedWrite port off data relaxed) s = .next u ∧ u.mem = s.mem ∧ (u.port port).held = (s.port port).held ∧
          (u.port port).seq = (s.port port).seq ∧ (u.port port).ingress = (s.port port).ingress ++
            [{ id := s.nextId, read := false, relaxed := relaxed, pieces := ps }]) ∧
      ((∀ p ∈ ps, s.entryHeld p.desc = false) → (∀ r ∈ (s.port port).ingress, r.read = true) →
        (∀ hs, s.pieceHomes ps = some hs →
          (∃ u, exec (.hostPostedWrite port off data false) s = .next u ∧ u.mem = s.mem ∧ (u.port port).seq = (s.port port).seq + 1 ∧
            (u.port port).mark = (s.port port).seq + 1 ∧ (u.port port).ingress = (s.port port).ingress ∧
            (u.port port).held.map (fun w => (w.seq, w.relaxed, w.desc, w.off, w.data)) =
              (s.port port).held.map (fun w => (w.seq, w.relaxed, w.desc, w.off, w.data)) ++
              ps.map fun p => ((s.port port).seq + 1, false, p.desc, p.off, p.data)) ∧
          ((∃ w ∈ (s.port port).held, ∃ h ∈ hs, s.heldAt w = some h.1) →
            ∃ u, exec (.hostPostedWrite port off data true) s = .next u ∧ u.mem = s.mem ∧ (u.port port).seq = (s.port port).seq ∧
              (u.port port).ingress = (s.port port).ingress ∧
              (u.port port).held.map (fun w => (w.seq, w.relaxed, w.desc, w.off, w.data)) =
                (s.port port).held.map (fun w => (w.seq, w.relaxed, w.desc, w.off, w.data)) ++
                ps.map fun p => ((s.port port).seq, true, p.desc, p.off, p.data)) ∧
          ∀ p t pa, ps = [p] → hs = [(t, pa)] → (∀ w ∈ (s.port port).held, s.heldAt w ≠ some t) → isVaultKey pa = true →
            s.writeWaits s.nextId noGang 0 pa p.n = none → (∀ z ∈ (s.tile (keySite pa)).slice, ∀ l ∈ z.lines, l.dirty = false → l.old = none) →
            ∃ u, exec (.hostPostedWrite port off data true) s = .next u ∧ u.bytes pa p.data.length = p.data ∧
              s.MemoryKeptBut u pa p.data.length ∧ u.full = s.full ∧ (u.port port).held = (s.port port).held ∧
              (u.port port).ingress = (s.port port).ingress) ∧
        (s.pieceHomes ps = none → ∀ relaxed,
          ∃ u, exec (.hostPostedWrite port off data relaxed) s = .next u ∧ u.mem = s.mem ∧ (u.port port).held = (s.port port).held ∧
            (u.port port).ingress = (s.port port).ingress ∧
            (u.module (portModule port)).hwDrop = (s.module (portModule port)).hwDrop + 1))) ∧
    (∀ home mark, ((s.port port).mark < mark ∨ ∀ w ∈ (s.port port).held, (s.heldAt w).getD home ≠ home) →
      exec (.hostWatermark port home mark) s = .next s) ∧
    (∀ home mark w, mark ≤ (s.port port).mark → ((s.port port).held.find? fun w => (s.heldAt w).getD home = home) = some w →
      ((s.entryHeld w.desc = true ∨
          (w.relaxed = false ∧ (mark < w.seq ∨ ∃ o, ((s.port port).held.find? fun o => !o.relaxed) = some o ∧ o.id ≠ w.id))) →
        exec (.hostWatermark port home mark) s = .next s) ∧
      (s.entryHeld w.desc = false →
        (w.relaxed = true ∨ (w.seq ≤ mark ∧ ∃ o, ((s.port port).held.find? fun o => !o.relaxed) = some o ∧ o.id = w.id)) →
        (∀ pa, s.entryHome w.desc w.off = some (home, pa) →
          (∀ k, s.writeWaits w.id noGang 0 pa w.data.length = some k → exec (.hostWatermark port home mark) s = .next (s.startWait w.id k)) ∧
          (isVaultKey pa = true → s.writeWaits w.id noGang 0 pa w.data.length = none →
            (∀ z ∈ (s.tile (keySite pa)).slice, ∀ l ∈ z.lines, l.dirty = false → l.old = none) →
            ∃ v u, v.bytes pa w.data.length = w.data ∧ s.MemoryKeptBut v pa w.data.length ∧
              (v.port port).held = (s.port port).held.filter (fun o => o.id ≠ w.id) ∧ (v.port port).mark = (s.port port).mark ∧
              exec (.hostWatermark port home mark) v = .next u ∧ exec (.hostWatermark port home mark) s = .next u)) ∧
        (s.entryHome w.desc w.off = none →
          ∃ v u, v.mem = s.mem ∧ (v.port port).held = (s.port port).held.filter (fun o => o.id ≠ w.id) ∧
            (v.module (portModule port)).hwDrop = (s.module (portModule port)).hwDrop + 1 ∧
            exec (.hostWatermark port home mark) v = .next u ∧ exec (.hostWatermark port home mark) s = .next u))) ∧
    (∀ off n ps, 0 < n → n ≤ 4096 → off + n ≤ 2 ^ 37 → (s.port port).pieces off n [] = ps →
      (∀ r ∈ (s.port port).ingress, r.id ≠ s.nextId) → (∀ t, ∀ r ∈ (s.tile t).sliceq, r.who ≠ s.nextId) →
      (((∃ p ∈ ps, s.entryHeld p.desc = true) ∨ ∃ r ∈ (s.port port).ingress, r.read = false) →
        ∃ u, exec (.hostRead port off n) s = .next u ∧ u.mem = s.mem ∧ u.replies = s.replies ∧
          (u.port port).ingress = (s.port port).ingress ++ [{ id := s.nextId, read := true, relaxed := false, pieces := ps }]) ∧
      ((∀ p ∈ ps, s.entryHeld p.desc = false) → (∀ r ∈ (s.port port).ingress, r.read = true) →
        (∀ hs qs, s.pieceHomes ps = some hs → (hs.zip ps).map (fun x => (x.1.2, x.2.n)) = qs → (s.port port).held = [] →
          (∀ q ∈ qs, s.readWaits s.nextId q.1 q.2 = none) →
          ∃ u, exec (.hostRead port off n) s = .next u ∧ u.mem = s.mem ∧ (u.port port).ingress = (s.port port).ingress ∧
            u.replies = s.replies ++
              [.hostRead port (if qs.any fun q => s.poisoned q.1 q.2 then 2 else 0) (qs.flatMap fun q => s.bytes q.1 q.2)]) ∧
        (s.pieceHomes ps = none →
          ∃ u, exec (.hostRead port off n) s = .next u ∧ u.mem = s.mem ∧ (u.port port).ingress = (s.port port).ingress ∧
            u.replies = s.replies ++ [.hostRead port 1 []]))) ∧
    (∀ pk p th n va hpa t ok data, s.packet? pk = some p → p.id = pk → pk < s.nextId → p.body = .hostLoad th n va port hpa →
      p.pos = .arrived t →
      ∃ u q, exec (.hostReadCompletion pk ok data) s = .next u ∧ u.packet? pk = none ∧ q ∈ u.packets ∧ q.dst = p.src ∧
        q.body = .response th pk (if ok then 0 else 1) (s.hostBytes p.asid p.lgen port hpa n data) false (!ok) va)

/-- LAUNCH_RECORD_WRITE, ARM_WRITE, LSTAT_WRITE and LAUNCH (R383-R386): the record and ARM of a free slot take writes, others count in HWDROP; an
armed slot, in its port's order, is launching and then launched with its gang's stroke open, or refused with the first reason that holds; a zero frees
a slot that is done.
Of what the rules leave open, it states the model's choices of log 48. -/
def Obligations.LaunchSlots : Prop :=
  ∀ (s : State) (port slot : Nat), slot < 16 →
    (∀ byte v, byte < 256 → (s.port port).slotState slot = 0 →
      ∃ u, exec (.launchRecordWrite port slot byte v) s = .next u ∧ ((u.port port).record slot).extractLsb' (8 * byte) 8 = v ∧
        ∀ k, k < 256 → k ≠ byte → ((u.port port).record slot).extractLsb' (8 * k) 8 = ((s.port port).record slot).extractLsb' (8 * k) 8) ∧
    (∀ byte (v : Byte) (w : Word), (s.port port).slotState slot ≠ 0 →
      (∃ u, exec (.launchRecordWrite port slot byte v) s = .next u ∧ u.ports = s.ports ∧
        (u.module (portModule port)).hwDrop = (s.module (portModule port)).hwDrop + 1) ∧
      ∃ u, exec (.armWrite port slot w) s = .next u ∧ u.ports = s.ports ∧
        (u.module (portModule port)).hwDrop = (s.module (portModule port)).hwDrop + 1) ∧
    (∀ w : Word, w.getLsbD 63 = true → (s.port port).slotState slot = 0 →
      ∃ u, exec (.armWrite port slot w) s = .next u ∧ ((u.port port).record slot).extractLsb' 1984 64 = w ∧ (u.port port).slotState slot = 1 ∧
        wbits (assocGet slot 0 (u.port port).lstat) 63 32 = wbits w 31 0 ∧ (u.port port).armed = (s.port port).armed ++ [slot]) ∧
    (3 ≤ (s.port port).slotState slot →
      ∃ u, exec (.lstatWrite port slot 0) s = .next u ∧ (u.port port).slotState slot = 0 ∧ (u.port port).record slot = (s.port port).record slot) ∧
    (∀ rest, (s.port port).armed = slot :: rest → (s.port port).writesOut = false →
      ((s.port port).slotState slot = 1 →
        ∃ u, exec (.launch port slot) s = .next u ∧ (u.port port).slotState slot = 2 ∧ (u.port port).armed = slot :: rest ∧ u.gangs = s.gangs) ∧
      (∀ n, n < 16 → (s.port port).slotState slot = 2 → s.refusal port ((s.port port).record slot) = some n →
        ∃ u, exec (.launch port slot) s = .next u ∧ (u.port port).slotState slot = 4 ∧
          wbits (assocGet slot 0 (u.port port).lstat) 15 8 = n ∧ (u.port port).armed = rest ∧ u.gangs = s.gangs ∧ u.threads = s.threads) ∧
      ((s.port port).slotState slot = 2 → s.refusal port ((s.port port).record slot) = none →
        ∃ u g, exec (.launch port slot) s = .next u ∧ (u.port port).slotState slot = 3 ∧ (u.port port).armed = rest ∧
          u.gang? (lrAsid ((s.port port).record slot)) (lrGen ((s.port port).record slot)) = some g ∧ g.strokeOpen = true ∧
          g.code = lrCap ((s.port port).record slot) 0 ∧ g.tvec = lrCap ((s.port port).record slot) 128 ∧
          g.q = lrQ ((s.port port).record slot) ∧
          g.tiles = ((lrTiles ((s.port port).record slot)).filter fun x => !s.excusedAt ((s.port port).record slot) x.1).map (·.2)))

/-- BOOT and the module controller's commands, clocks and registers (R15, R390-R396): each phase of boot leads to the next, an image not accepted
stops it for good, images and CMD_EXTEND_MR extend measurement registers with SHA-256; limits and EVHEAD take writes in range; slots restart, events and reports
are answered on the path of the command; clocks step for droop and temperature, and a review takes a power step where a zone draws more than its limit,
and one more at the zone that draws most while the module exceeds PLIM, and steps back only within it; a reset drops what the module's memory held.
Of what the rules leave open, it states the model's choices of log 21, log 49. -/
def Obligations.ModuleController : Prop :=
  ∀ (s : State) (m : Nat),
    ((s.module m).refused = true → exec (.boot m) s = .next s) ∧
    ((s.module m).refused = false →
      ((s.module m).phase = 0 → ∃ u, exec (.boot m) s = .next u ∧ (u.module m).phase = 1 ∧ (u.module m).boots = (s.module m).boots + 1) ∧
      (∀ k, k < 2 → (s.module m).phase = k + 1 → k < (s.module m).mrs.length →
        ∃ u, exec (.boot m) s = .next u ∧
          (imageAccepted m k = true → (u.module m).phase = k + 2 ∧
            (u.module m).mrs[k]? = some (sha256 ((s.module m).mrs.getD k 0 ++ imageDigest m k))) ∧
          (imageAccepted m k = false → (u.module m).phase = k + 1 ∧ (u.module m).refused = true ∧ (u.module m).mrs = (s.module m).mrs)) ∧
      ((s.module m).phase = 5 → 3 < (s.module m).mrs.length →
        ∃ u, exec (.boot m) s = .next u ∧
          (imageAccepted m 2 = true → imageAccepted m 3 = true → (u.module m).phase = 6 ∧ ∀ k, k = 2 ∨ k = 3 →
            (u.module m).mrs[k]? = some (sha256 ((s.module m).mrs.getD k 0 ++ imageDigest m k))) ∧
          ((imageAccepted m 2 = false ∨ imageAccepted m 3 = false) →
            (u.module m).phase = 5 ∧ (u.module m).refused = true ∧ (u.module m).mrs = (s.module m).mrs)) ∧
      ((s.module m).phase = 3 ∨ (s.module m).phase = 4 ∨ (s.module m).phase = 6 →
        ∃ u, exec (.boot m) s = .next u ∧ (u.module m).phase = (s.module m).phase + 1 ∧
          ((s.module m).phase = 6 → (u.module m).number = some m)) ∧
      ((s.module m).phase = 7 → exec (.boot m) s = .next s)) ∧
    (∀ mr digest, mr < (s.module m).mrs.length →
      ∃ u, exec (.cmdExtendMr m mr digest) s = .next u ∧ (u.module m).mrs[mr]? = some
          (if 4 ≤ mr ∧ mr ≤ 7 then sha256 ((s.module m).mrs.getD mr 0 ++ digest) else (s.module m).mrs.getD mr 0) ∧
        ∀ k, k ≠ mr → (u.module m).mrs[k]? = (s.module m).mrs[k]?) ∧
    (∀ watts, 1000 ≤ watts → watts ≤ 24000 →
      (∃ u, exec (.cmdSetPowerLimit m none watts) s = .next u ∧ (u.module m).plim = watts) ∧
      ∃ u, exec (.managementRegisterWrite m 0x010 (BitVec.ofNat 64 watts)) s = .next u ∧ (u.module m).plim = watts) ∧
    (∀ z watts, z ≤ 80 → 50 ≤ watts → watts ≤ 300 →
      (∃ u, exec (.cmdSetPowerLimit m (some z) watts) s = .next u ∧ (u.zone (m * 128 + z)).limit = watts) ∧
      ∃ u, exec (.managementRegisterWrite m (0x100 + 8 * z) (BitVec.ofNat 64 watts)) s = .next u ∧ (u.zone (m * 128 + z)).limit = watts) ∧
    (∀ v, ∃ u, exec (.managementRegisterWrite m 0x020 v) s = .next u ∧ (u.module m).evHead = v.setWidth 8 ∧
      (u.module m).evTail = (s.module m).evTail) ∧
    (∀ name core slot th, (s.binding name).v = true → s.slotThread (s.siteOf name) core slot = some th → th.park = some .stopped →
      (s.threads.map fun th => th.id).Nodup →
      ∃ u, exec (.cmdRestartSlot name core slot) s = .next u ∧ u.waitOf th.id = some none ∧
        u.replies = s.replies ++ [.done (s.module (ltnModule name)).path 1]) ∧
    (exec (.cmdReadEventQueue m) s = .next (s.reply (.events (s.module m).path (s.module m).events))) ∧
    (∀ nonce, ∃ u, exec (.cmdAttestationReport m nonce) s = .next u ∧ u.replies = s.replies ++
      [.report (s.module m).path Config.reportVersion (Config.moduleSerial m) (s.module m).mrs
        ((List.range 4).map fun i => Config.imageVersion m i) (s.module m).boots nonce
        (Config.reportSignature m s.free (s.reportContents m nonce)) (Config.certificateChain m)]) ∧
    (∀ z, (∃ u, exec (.droopDetected z) s = .next u ∧ (u.zone z).droop = min 4 ((s.zone z).droop + 1) ∧ (u.zone z).power = (s.zone z).power) ∧
      ∃ u, exec (.droopCleared z) s = .next u ∧ (u.zone z).droop = 0 ∧ (u.zone z).power = (s.zone z).power) ∧
    (∃ u, exec (.powerReview m) s = .next u ∧
      (∀ z, z ≤ 80 → (s.zone (m * 128 + z)).lost = false →
        (u.zone (m * 128 + z)).thermal = thermalStep (Config.zoneTemperature (m * 128 + z) s.time) ∧
        (u.zone (m * 128 + z)).draw = Config.zoneDraw (m * 128 + z) s.time) ∧
      ∀ (total : Nat) (step : Nat → Nat), total = ((s.zonesOf m).map fun z => if z.2.lost then 0 else Config.zoneDraw z.1 s.time).sum →
        (∀ z, step z = if (s.zone (m * 128 + z)).limit < Config.zoneDraw (m * 128 + z) s.time then min 4 ((s.zone (m * 128 + z)).power + 1)
          else if total ≤ (s.module m).plim then (s.zone (m * 128 + z)).power - 1 else (s.zone (m * 128 + z)).power) →
        (u.module m).pnow = total ∧
        (((total ≤ (s.module m).plim ∨ ∀ z, z ≤ 80 → (u.zone (m * 128 + z)).lost = false → 4 ≤ step z) ∧
            ∀ z, z ≤ 80 → (s.zone (m * 128 + z)).lost = false → (u.zone (m * 128 + z)).power = step z) ∨
         ((s.module m).plim < total ∧ ∃ z, z ≤ 80 ∧ (u.zone (m * 128 + z)).lost = false ∧ step z < 4 ∧ (u.zone (m * 128 + z)).power = step z + 1 ∧
            (∀ k, k ≤ 80 → (u.zone (m * 128 + k)).lost = false → step k < 4 →
              Config.zoneDraw (m * 128 + k) s.time ≤ Config.zoneDraw (m * 128 + z) s.time) ∧
            ∀ k, k ≤ 80 → k ≠ z → (s.zone (m * 128 + k)).lost = false → (u.zone (m * 128 + k)).power = step k))) ∧
    (∃ u, exec (.cmdResetModule m) s = .next u ∧ (u.module m).phase = 0 ∧ (u.module m).boots = (s.module m).boots ∧
      (u.module m).mrs = Module.reset.mrs ∧
      (∀ a, siteModule (keySite a) = m → Memory.get u.mem a = 0) ∧
      (∀ a, siteModule (keySite a) ≠ m → Memory.get u.mem a = Memory.get s.mem a) ∧
      ∀ th ∈ u.others, th.loc.inSlot = true → siteModule th.loc.site ≠ m)

/-- ZONE_LOST, TILE_LOST, MODULE_UNREACHABLE, LANE_LOST, LINK_RETRAIN_DONE and RESHELVE_CONTINUE (R162, R221, R348-R351, R389): a lost zone is clamped
and none of its threads remains; a dead site's names take the first spare in order, or are retired; gangs that span to an unreachable module end with
0x16; a lane whose errors pass the threshold is lost, which retrains its link, and the 37th fails it; a group that its
gangs have left for their commit is reshelved under its new live count where its tiles have the room, and otherwise the shortfall is reported.
Of what the rules leave open, it states the model's choices of log 49. -/
def Obligations.LossesAreMet : Prop :=
  ∀ (s : State),
    (∀ z, ((s.zone z).lost = true → exec (.zoneLost z) s = .next s) ∧
      ((s.zone z).lost = false →
        ∃ u, exec (.zoneLost z) s = .next u ∧ (u.zone z).lost = true ∧ (u.zone z).clamped = true ∧
          ∀ th ∈ u.threads, th.loc.inSlot = true → siteZone th.loc.site ≠ z)) ∧
    (∀ t, ((s.module (siteModule t)).dead.contains t = true → exec (.tileLost t) s = .next s) ∧
      ((s.module (siteModule t)).dead.contains t = false →
        ∃ u, exec (.tileLost t) s = .next u ∧ (u.module (siteModule t)).dead = (s.module (siteModule t)).dead ++ [t] ∧
          (∀ th ∈ u.threads, th.loc.inSlot = true → th.loc.site ≠ t) ∧
          ∀ n ∈ s.namesAt t, ltnField n = siteZone t →
            (∀ w, s.spareFor (siteZone t) (t % 256 / 64) = some w → u.binding n = siteBinding w) ∧
            (s.spareFor (siteZone t) (t % 256 / 64) = none → (u.binding n).v = false))) ∧
    (∀ m peer, (assocGet peer 0 (s.module m).peers).getLsbD 19 = true →
      ∃ u, exec (.moduleUnreachable m peer) s = .next u ∧ (assocGet peer 0 (u.module m).peers).getLsbD 19 = false ∧
        ∀ g, s.gang? g.asid g.lgen = some g → g.spans = true → g.mlo ≤ m → m ≤ g.mhi → g.mlo ≤ peer → peer ≤ g.mhi →
          ∃ g' v, u.gang? g.asid g.lgen = some g' ∧
            g'.order = some (.fatal (s.siteOf (wbits (assocGet peer 0 (s.module m).peers) 18 0)) 0x16 v)) ∧
    (∀ link lane, (s.hasLane link lane = false ∨ assocGet lane 0 (s.link link).errs ≤ (s.module (link / 640 / 128)).threshold) →
      exec (.laneLost link lane) s = .next s) ∧
    (∀ link lane, s.hasLane link lane = true → (s.link link).failed = false → (s.link link).lost.contains lane = false →
      (s.module (link / 640 / 128)).threshold < assocGet lane 0 (s.link link).errs →
      ((s.link link).lost.length < 36 →
        ∃ u, exec (.laneLost link lane) s = .next u ∧ (u.link link).lost = (s.link link).lost ++ [lane] ∧ (u.link link).retraining = true ∧
          (u.link link).failed = false) ∧
      (36 ≤ (s.link link).lost.length →
        ∃ u, exec (.laneLost link lane) s = .next u ∧ (u.link link).failed = true ∧ (u.link link).retraining = false)) ∧
    (∀ link, (s.link link).retraining = true →
      ∃ u, exec (.linkRetrainDone link) s = .next u ∧ (u.link link).retraining = false ∧ (u.link link).lost = (s.link link).lost ∧
        ((s.link link).lost.length ≤ 4 → (u.link link).steered = (s.link link).lost.length ∧ (u.link link).half = (s.link link).half) ∧
        (4 < (s.link link).lost.length → (u.link link).half = true)) ∧
    (∀ z, ((s.zone z).reshelving = false → exec (.reshelveContinue z) s = .next s) ∧
      ((s.gangs.any fun g => s.usesGroup z g && (g.order.isSome || g.stopped)) = true → exec (.reshelveContinue z) s = .next s) ∧
      ((s.zone z).reshelving = true → (s.gangs.any fun g => s.usesGroup z g && (g.order.isSome || g.stopped)) = false →
        ∀ r, r = (s.modZone z fun x => { x with binds := (s.zone z).reshelved.binds }).newShelves z (s.zone z).reshelved (s.stripePages z) →
        (r = none → exec (.reshelveContinue z) s = .next (s.postEvent (z / 128) 4 none)) ∧
        (r ≠ none →
          ∃ u, exec (.reshelveContinue z) s = .next u ∧ (u.zone z).reshelving = false ∧ (u.zone z).retiring = [] ∧
            (u.zone z).live = 160 - (u.zone z).retired.length ∧
            (∀ i ∈ (s.zone z).retiring, (∀ e ∈ (s.zone z).returning, e.1 ≠ i) → i ∈ (u.zone z).retired) ∧
            (∀ e ∈ (s.zone z).returning, e.1 ∉ (u.zone z).retired) ∧
            (u.zone z).epoch = (s.zone z).epoch + 1 ∧ (s.stripePages z = [] → u.mem = s.mem))))

-- vectors (R128-R152)

/-- Every instruction on streams (R128, R133, R138, R141-R151), with the unit free for the thread, none of its own under way, no store to its window or
homed in its field in its buffer and every stream checked, unpoisoned and writable, completes: PC, RETC and predicates as for every instruction, only the registers that advance or take the result
change, of the special registers only SEED and FFLG, and of memory only bytes of the written stream.
Of what the rules leave open, it states the model's choices of log 39.
`vgth` and `vsct` (R133, R152): under the same conditions, with every table element in bounds, they complete; `vgth` writes bytes of its data
stream only, `vsct` bytes of the table's elements only. -/
def Obligations.VectorInstructions : Prop :=
  (∀ (s : State) (p : Pfx) (d a b : RegNo) (x : Bool) (c : VCmp) (f : Option Fmt) (dst : Fmt) (os : List Nat), s.guardHolds p = true →
    s.thr.tandem = none → (∀ id, (s.unitQueue s.tileNo s.coreNo).head? = some id → id = s.thr.id) → s.thr.groupWaits = false →
    s.thr.vec = .idle →
    ∀ q ∈ ([ (.vadd p d a b x f, false), (.vsub p d a b x f, false), (.vmul p d a b x f, false), (.vfma p d a b x f, true),
             (.vfms p d a b x f, true), (.vmin p d a b x f, false), (.vmax p d a b x f, false), (.vcmp p d a b x c f, false),
             (.vsel p d a b x f, true), (.vand p d a b x f, false), (.vor p d a b x f, false) ].map fun (i, rw) =>
             (i, [s.arg a (elemFmt f) true false x, s.arg b (elemFmt f) true false x, s.arg d (elemFmt f) rw true x], false, ([] : List RegNo))) ++
          ([ (.vabs p d a x f, false), (.vneg p d a x f, false), (.vrcp p d a x f, false), (.vrsq p d a x f, false), (.vsqrt p d a x f, false),
             (.vexp p d a x f, false), (.vlog p d a x f, false), (.vsin p d a x f, false), (.vcos p d a x f, false), (.vtanh p d a x f, false),
             (.vpswp p d a x f, false), (.vperm p d a b x f, false), (.vscl p d a b x f, false), (.vaxpy p d a b x f, true),
             (.vclmp p d a b x f, false), (.vmov p d a x f, false), (.vshl p d a b false x f, false),
             (.vshl p d a b true x f, false) ].map fun (i, rw) =>
             (i, [s.arg a (elemFmt f) true false x, s.arg d (elemFmt f) rw true x], false, [])) ++
          ([ (Instr.vcvt p d a x dst f), .vqnt p d a b x dst f ].map fun i =>
             (i, [s.arg a (f.getD .i8) true false x, s.arg d dst false true x], decide (dst = .f4b) || decide (f.getD .i8 = .f4b), [])) ++
          [ (.vset p d b x f, [s.arg d (elemFmt f) false true x], false, []),
            (.vsum p d a x f, [s.arg a (elemFmt f) true false x], false, [d]),
            (.vrmax p d a x f, [s.arg a (elemFmt f) true false x], false, [d]),
            (.vdot p d a b x f, [s.arg a (elemFmt f) true false x, s.arg b (elemFmt f) true false x], false, [d]) ],
      (q.2.2.1 = true → s.thr.vl.toNat % 32 = 0) → s.checkStreams q.2.1 = .ok os → s.poisonOf (q.2.1.zip os) = none →
      (∀ y ∈ q.2.1.zip os, y.1.wr = true → s.vwaits y.2 y.1.n = none) →
      ∃ t, exec q.1 s = .next t ∧ s.Retires t (s.nextPc 2 p) ∧ s.PredsKept t [] ∧
        s.RegsKept t (q.2.2.2 ++ if x then q.2.1.map fun y => y.reg else []) ∧
        t.thr.specials = { s.thr.specials with seed := t.thr.seed, fflg := t.thr.fflg } ∧
        ∀ k, (∀ y ∈ q.2.1.zip os, y.1.wr = true → ∀ i, i < y.1.n → k ≠ s.winKey (y.2 + i)) → Memory.get t.mem k = Memory.get s.mem k) ∧
  (∀ (s : State) (p : Pfx) (d a b : RegNo) (x : Bool) (f : Option Fmt) (io od : Nat) (elems : List Nat), s.guardHolds p = true →
    s.thr.tandem = none → (∀ id, (s.unitQueue s.tileNo s.coreNo).head? = some id → id = s.thr.id) → s.thr.groupWaits = false →
    s.thr.vec = .idle →
    s.checkStream { reg := b, n := 4 * s.thr.vl.toNat, align := 4, e := 4, rd := true, wr := false, adv := x } = .ok io →
    s.poisonIn io (4 * s.thr.vl.toNat) = none →
    (s.checkStream (s.arg d (elemFmt f) false true x) = .ok od →
      s.checkTable (s.reg a) (fmtBytes (elemFmt f)) permR ((List.range s.thr.vl.toNat).map fun i => s.vget (io + 4 * i) 4) = .ok elems →
      (∀ o ∈ elems, s.poisonIn o (fmtBytes (elemFmt f)) = none) → s.vwaits od (streamBytes (elemFmt f) s.thr.vl.toNat) = none →
      ∃ t, exec (.vgth p d a b x f) s = .next t ∧ s.Retires t (s.nextPc 2 p) ∧ s.PredsKept t [] ∧ s.RegsKept t (if x then [d, b] else []) ∧
        t.thr.specials = s.thr.specials ∧
        ∀ k, (∀ i, i < streamBytes (elemFmt f) s.thr.vl.toNat → k ≠ s.winKey (od + i)) → Memory.get t.mem k = Memory.get s.mem k) ∧
    (s.checkStream (s.arg a (elemFmt f) true false x) = .ok od →
      s.checkTable (s.reg d) (fmtBytes (elemFmt f)) permW ((List.range s.thr.vl.toNat).map fun i => s.vget (io + 4 * i) 4) = .ok elems →
      s.poisonIn od (streamBytes (elemFmt f) s.thr.vl.toNat) = none → (∀ o ∈ elems, s.vwaits o (fmtBytes (elemFmt f)) = none) →
      ∃ t, exec (.vsct p d a b x f) s = .next t ∧ s.Retires t (s.nextPc 2 p) ∧ s.PredsKept t [] ∧ s.RegsKept t (if x then [a, b] else []) ∧
        t.thr.specials = s.thr.specials ∧
        ∀ k, (∀ o ∈ elems, ∀ i, i < fmtBytes (elemFmt f) → k ≠ s.winKey o + i) → Memory.get t.mem k = Memory.get s.mem k))

/-- The results of element-wise instructions (R142-R144, R148-R150), in every element of the stream, where no streams overlap but identical ones and
the gang owns what it writes: integers wrap, floating results are rounded once in STAT's mode (without stochastic rounding), NaN by the operations of
R57-R65; `vpswp` and `vperm` move elements, those past the stream reading zero; the reductions of integers are modulo 2^64 (R151).  That such an
instruction is over in one step is the model's choice of log 39. -/
def Obligations.VectorResults : Prop :=
  ∀ (s : State) (p : Pfx) (d a b : RegNo) (x : Bool) (c : VCmp) (f : Option Fmt) (F : Fmt) (e w oa ob od : Nat), s.guardHolds p = true →
    s.thr.tandem = none → (∀ id, (s.unitQueue s.tileNo s.coreNo).head? = some id → id = s.thr.id) → s.thr.groupWaits = false →
    s.thr.vec = .idle →
    F = elemFmt f → F ≠ .f4b → e = fmtBytes F → w = fmtBits F → s.sr = false → s.quarters.Nodup → (∀ q ∈ s.quarters, q < 4) →
    (∀ i, i < s.thr.vl.toNat → (s.tile s.tileNo).owns (quarterOf (s.winKey (od + i * e))) s.thr.asid s.thr.lgen = true) →
    s.vwaits od (streamBytes F s.thr.vl.toNat) = none →
    (∀ q ∈ ([ (Instr.vadd p d a b x f, fun _ u v => if isIntFmt F then intPattern F (intValue F u + intValue F v)
                 else (roundTo F (RMode.ofCode s.rm) (FVal.add (RMode.ofCode s.rm) (fv F u) (fv F v))).1),
              (.vsub p d a b x f, fun _ u v => if isIntFmt F then intPattern F (intValue F u - intValue F v)
                 else (roundTo F (RMode.ofCode s.rm) (FVal.add (RMode.ofCode s.rm) (fv F u) (fv F v).neg)).1),
              (.vmul p d a b x f, fun _ u v => if isIntFmt F then intPattern F (intValue F u * intValue F v)
                 else (roundTo F (RMode.ofCode s.rm) ((fv F u).mul (fv F v))).1),
              (.vmin p d a b x f, fun _ u v => lesser F u v), (.vmax p d a b x f, fun _ u v => greater F u v),
              (.vcmp p d a b x c f, fun _ u v => if holds F c u v then 2 ^ w - 1 else 0),
              (.vand p d a b x f, fun _ u v => Nat.land u v), (.vor p d a b x f, fun _ u v => Nat.lor u v) ].map fun q => (q.1, q.2, false)) ++
            ((Instr.vsel p d a b x f, fun o u v => if o ≠ 0 then u else v, true) ::
             if isIntFmt F then [] else
             [ (Instr.vfma p d a b x f, fun o u v =>
                  (roundTo F (RMode.ofCode s.rm) (FVal.fma (RMode.ofCode s.rm) (fv F o) (fv F u) (fv F v))).1, true),
               (.vfms p d a b x f, fun o u v =>
                  (roundTo F (RMode.ofCode s.rm) (FVal.fma (RMode.ofCode s.rm) (fv F o) (fv F u).neg (fv F v))).1, true) ]),
      s.checkStreams [s.arg a F true false x, s.arg b F true false x, s.arg d F q.2.2 true x] = .ok [oa, ob, od] →
      anyOverlap [(s.arg a F true false x, oa), (s.arg b F true false x, ob), (s.arg d F q.2.2 true x, od)] = false →
      s.poisonOf [(s.arg a F true false x, oa), (s.arg b F true false x, ob), (s.arg d F q.2.2 true x, od)] = none →
      ∃ t, exec q.1 s = .next t ∧ ∀ i, i < s.thr.vl.toNat →
        t.vget (od + i * e) e = q.2.1 (s.vget (od + i * e) e) (s.vget (oa + i * e) e) (s.vget (ob + i * e) e) % 2 ^ (8 * e)) ∧
    (∀ q ∈ ([ (Instr.vmov p d a x f, fun _ u => u),
              (.vneg p d a x f, fun _ u => if isIntFmt F then intPattern F (-(intValue F u)) else (signOp F false u).1),
              (.vabs p d a x f, fun _ u => if isIntFmt F then intPattern F (if intValue F u < 0 then -(intValue F u) else intValue F u)
                 else (signOp F true u).1),
              (.vscl p d a b x f, fun _ u => if isIntFmt F then intPattern F (intValue F u * intValue F ((s.x b).toNat % 2 ^ w))
                 else (roundTo F (RMode.ofCode s.rm) ((fv F u).mul (fv F ((s.x b).toNat % 2 ^ w)))).1),
              (.vclmp p d a b x f, fun _ u =>
                 lesser F (greater F u ((s.x b).toNat % 2 ^ w)) ((s.x b).toNat / 2 ^ w % 2 ^ w)) ].map fun q => (q.1, q.2, false)) ++
            (if isIntFmt F then
              [ (Instr.vshl p d a b false x f, fun _ u => u * 2 ^ min (s.x b).toNat w % 2 ^ w, false),
                (.vshl p d a b true x f, fun _ u => intPattern F (intValue F u / (2 ^ min (s.x b).toNat w : Int)), false) ]
             else
              [ (Instr.vaxpy p d a b x f, fun o u => (roundTo F (RMode.ofCode s.rm)
                  (FVal.fma (RMode.ofCode s.rm) (fv F o) (fv F ((s.x b).toNat % 2 ^ w)) (fv F u))).1, true) ]),
      s.checkStreams [s.arg a F true false x, s.arg d F q.2.2 true x] = .ok [oa, od] →
      anyOverlap [(s.arg a F true false x, oa), (s.arg d F q.2.2 true x, od)] = false →
      s.poisonOf [(s.arg a F true false x, oa), (s.arg d F q.2.2 true x, od)] = none →
      ∃ t, exec q.1 s = .next t ∧ ∀ i, i < s.thr.vl.toNat →
        t.vget (od + i * e) e = q.2.1 (s.vget (od + i * e) e) (s.vget (oa + i * e) e) % 2 ^ (8 * e)) ∧
    (∀ from', from' = (fun k => if k < s.thr.vl.toNat then s.vget (oa + k * e) e else 0) →
      s.checkStreams [s.arg a F true false x, s.arg d F false true x] = .ok [oa, od] →
      anyOverlap [(s.arg a F true false x, oa), (s.arg d F false true x, od)] = false →
      s.poisonOf [(s.arg a F true false x, oa), (s.arg d F false true x, od)] = none →
      (∃ t, exec (.vperm p d a b x f) s = .next t ∧ ∀ i, i < s.thr.vl.toNat →
        t.vget (od + i * e) e = from' (i / 16 * 16 + wbits (s.x b) (4 * (i % 16) + 3) (4 * (i % 16)))) ∧
      ∃ t, exec (.vpswp p d a x f) s = .next t ∧ ∀ i, i < s.thr.vl.toNat → t.vget (od + i * e) e =
        if i % 2 = 1 then from' (i - 1)
        else (if isIntFmt F then intPattern F (-(intValue F (from' (i + 1)))) else (signOp F false (from' (i + 1))).1) % 2 ^ (8 * e)) ∧
    (s.checkStreams [s.arg d F false true x] = .ok [od] → s.poisonOf [(s.arg d F false true x, od)] = none →
      ∃ t, exec (.vset p d b x f) s = .next t ∧ ∀ i, i < s.thr.vl.toNat → t.vget (od + i * e) e = (s.x b).toNat % 2 ^ w) ∧
    (isIntFmt F = true → s.checkStreams [s.arg a F true false false, s.arg b F true false false] = .ok [oa, ob] →
      s.poisonOf [(s.arg a F true false false, oa), (s.arg b F true false false, ob)] = none →
      (∃ t, exec (.vsum p d a false f) s = .next t ∧ t.reg d =
        readBack d (.int (BitVec.ofInt 64 ((List.range s.thr.vl.toNat).map fun i => intValue F (s.vget (oa + i * e) e)).sum))) ∧
      ∃ t, exec (.vdot p d a b false f) s = .next t ∧ t.reg d = readBack d (.int (BitVec.ofInt 64
        ((List.range s.thr.vl.toNat).map fun i => intValue F (s.vget (oa + i * e) e) * intValue F (s.vget (ob + i * e) e)).sum)))
end

