-- ==== Sys2Proof/Laws/State.lean ====
section
/-! SUPPORT. What each update of the state leaves as it is, and what it changes: one lemma for each field of each update. -/
namespace Sys2Proof.Machine

-- updates of the state
@[simp] theorem State.withThr_others (s : State) (f : Thread → Thread) : (s.withThr f).others = s.others := rfl
@[simp] theorem State.withThr_mem (s : State) (f : Thread → Thread) : (s.withThr f).mem = s.mem := rfl
@[simp] theorem State.withThr_tags (s : State) (f : Thread → Thread) : (s.withThr f).tags = s.tags := rfl
@[simp] theorem State.withThr_full (s : State) (f : Thread → Thread) : (s.withThr f).full = s.full := rfl
@[simp] theorem State.withThr_psn (s : State) (f : Thread → Thread) : (s.withThr f).psn = s.psn := rfl
@[simp] theorem State.withThr_psnBits (s : State) (f : Thread → Thread) : (s.withThr f).psnBits = s.psnBits := rfl
@[simp] theorem State.withThr_tiles (s : State) (f : Thread → Thread) : (s.withThr f).tiles = s.tiles := rfl
@[simp] theorem State.withThr_gangs (s : State) (f : Thread → Thread) : (s.withThr f).gangs = s.gangs := rfl
@[simp] theorem State.withThr_zones (s : State) (f : Thread → Thread) : (s.withThr f).zones = s.zones := rfl
@[simp] theorem State.withThr_modules (s : State) (f : Thread → Thread) : (s.withThr f).modules = s.modules := rfl
@[simp] theorem State.withThr_ports (s : State) (f : Thread → Thread) : (s.withThr f).ports = s.ports := rfl
@[simp] theorem State.withThr_packets (s : State) (f : Thread → Thread) : (s.withThr f).packets = s.packets := rfl
@[simp] theorem State.withThr_steals (s : State) (f : Thread → Thread) : (s.withThr f).steals = s.steals := rfl
@[simp] theorem State.withThr_gong (s : State) (f : Thread → Thread) : (s.withThr f).gong = s.gong := rfl
@[simp] theorem State.withThr_releases (s : State) (f : Thread → Thread) : (s.withThr f).releases = s.releases := rfl
@[simp] theorem State.withThr_reqs (s : State) (f : Thread → Thread) : (s.withThr f).reqs = s.reqs := rfl
@[simp] theorem State.withThr_anns (s : State) (f : Thread → Thread) : (s.withThr f).anns = s.anns := rfl
@[simp] theorem State.withThr_bellWin (s : State) (f : Thread → Thread) : (s.withThr f).bellWin = s.bellWin := rfl
@[simp] theorem State.withThr_bellDone (s : State) (f : Thread → Thread) : (s.withThr f).bellDone = s.bellDone := rfl
@[simp] theorem State.withThr_links (s : State) (f : Thread → Thread) : (s.withThr f).links = s.links := rfl
@[simp] theorem State.withThr_hostOut (s : State) (f : Thread → Thread) : (s.withThr f).hostOut = s.hostOut := rfl
@[simp] theorem State.withThr_replies (s : State) (f : Thread → Thread) : (s.withThr f).replies = s.replies := rfl
@[simp] theorem State.withThr_schedule (s : State) (f : Thread → Thread) : (s.withThr f).schedule = s.schedule := rfl
@[simp] theorem State.withThr_nextId (s : State) (f : Thread → Thread) : (s.withThr f).nextId = s.nextId := rfl
@[simp] theorem State.withThr_time (s : State) (f : Thread → Thread) : (s.withThr f).time = s.time := rfl
@[simp] theorem State.withThr_free (s : State) (f : Thread → Thread) : (s.withThr f).free = s.free := rfl
@[simp] theorem State.parkOn_others (s : State) (c : Park) : (s.parkOn c).others = s.others := rfl
@[simp] theorem State.parkOn_mem (s : State) (c : Park) : (s.parkOn c).mem = s.mem := rfl
@[simp] theorem State.parkOn_tags (s : State) (c : Park) : (s.parkOn c).tags = s.tags := rfl
@[simp] theorem State.parkOn_full (s : State) (c : Park) : (s.parkOn c).full = s.full := rfl
@[simp] theorem State.parkOn_psn (s : State) (c : Park) : (s.parkOn c).psn = s.psn := rfl
@[simp] theorem State.parkOn_psnBits (s : State) (c : Park) : (s.parkOn c).psnBits = s.psnBits := rfl
@[simp] theorem State.parkOn_tiles (s : State) (c : Park) : (s.parkOn c).tiles = s.tiles := rfl
@[simp] theorem State.parkOn_gangs (s : State) (c : Park) : (s.parkOn c).gangs = s.gangs := rfl
@[simp] theorem State.parkOn_zones (s : State) (c : Park) : (s.parkOn c).zones = s.zones := rfl
@[simp] theorem State.parkOn_modules (s : State) (c : Park) : (s.parkOn c).modules = s.modules := rfl
@[simp] theorem State.parkOn_ports (s : State) (c : Park) : (s.parkOn c).ports = s.ports := rfl
@[simp] theorem State.parkOn_packets (s : State) (c : Park) : (s.parkOn c).packets = s.packets := rfl
@[simp] theorem State.parkOn_steals (s : State) (c : Park) : (s.parkOn c).steals = s.steals := rfl
@[simp] theorem State.parkOn_gong (s : State) (c : Park) : (s.parkOn c).gong = s.gong := rfl
@[simp] theorem State.parkOn_releases (s : State) (c : Park) : (s.parkOn c).releases = s.releases := rfl
@[simp] theorem State.parkOn_reqs (s : State) (c : Park) : (s.parkOn c).reqs = s.reqs := rfl
@[simp] theorem State.parkOn_anns (s : State) (c : Park) : (s.parkOn c).anns = s.anns := rfl
@[simp] theorem State.parkOn_bellWin (s : State) (c : Park) : (s.parkOn c).bellWin = s.bellWin := rfl
@[simp] theorem State.parkOn_bellDone (s : State) (c : Park) : (s.parkOn c).bellDone = s.bellDone := rfl
@[simp] theorem State.parkOn_links (s : State) (c : Park) : (s.parkOn c).links = s.links := rfl
@[simp] theorem State.parkOn_hostOut (s : State) (c : Park) : (s.parkOn c).hostOut = s.hostOut := rfl
@[simp] theorem State.parkOn_replies (s : State) (c : Park) : (s.parkOn c).replies = s.replies := rfl
@[simp] theorem State.parkOn_schedule (s : State) (c : Park) : (s.parkOn c).schedule = s.schedule := rfl
@[simp] theorem State.parkOn_nextId (s : State) (c : Park) : (s.parkOn c).nextId = s.nextId := rfl
@[simp] theorem State.parkOn_time (s : State) (c : Park) : (s.parkOn c).time = s.time := rfl
@[simp] theorem State.parkOn_free (s : State) (c : Park) : (s.parkOn c).free = s.free := rfl
@[simp] theorem State.retireTo_others (s : State) (a : VAddr) : (s.retireTo a).others = s.others := rfl
@[simp] theorem State.retireTo_mem (s : State) (a : VAddr) : (s.retireTo a).mem = s.mem := rfl
@[simp] theorem State.retireTo_tags (s : State) (a : VAddr) : (s.retireTo a).tags = s.tags := rfl
@[simp] theorem State.retireTo_full (s : State) (a : VAddr) : (s.retireTo a).full = s.full := rfl
@[simp] theorem State.retireTo_psn (s : State) (a : VAddr) : (s.retireTo a).psn = s.psn := rfl
@[simp] theorem State.retireTo_psnBits (s : State) (a : VAddr) : (s.retireTo a).psnBits = s.psnBits := rfl
@[simp] theorem State.retireTo_tiles (s : State) (a : VAddr) : (s.retireTo a).tiles = s.tiles := rfl
@[simp] theorem State.retireTo_gangs (s : State) (a : VAddr) : (s.retireTo a).gangs = s.gangs := rfl
@[simp] theorem State.retireTo_zones (s : State) (a : VAddr) : (s.retireTo a).zones = s.zones := rfl
@[simp] theorem State.retireTo_modules (s : State) (a : VAddr) : (s.retireTo a).modules = s.modules := rfl
@[simp] theorem State.retireTo_ports (s : State) (a : VAddr) : (s.retireTo a).ports = s.ports := rfl
@[simp] theorem State.retireTo_packets (s : State) (a : VAddr) : (s.retireTo a).packets = s.packets := rfl
@[simp] theorem State.retireTo_steals (s : State) (a : VAddr) : (s.retireTo a).steals = s.steals := rfl
@[simp] theorem State.retireTo_gong (s : State) (a : VAddr) : (s.retireTo a).gong = s.gong := rfl
@[simp] theorem State.retireTo_releases (s : State) (a : VAddr) : (s.retireTo a).releases = s.releases := rfl
@[simp] theorem State.retireTo_reqs (s : State) (a : VAddr) : (s.retireTo a).reqs = s.reqs := rfl
@[simp] theorem State.retireTo_anns (s : State) (a : VAddr) : (s.retireTo a).anns = s.anns := rfl
@[simp] theorem State.retireTo_bellWin (s : State) (a : VAddr) : (s.retireTo a).bellWin = s.bellWin := rfl
@[simp] theorem State.retireTo_bellDone (s : State) (a : VAddr) : (s.retireTo a).bellDone = s.bellDone := rfl
@[simp] theorem State.retireTo_links (s : State) (a : VAddr) : (s.retireTo a).links = s.links := rfl
@[simp] theorem State.retireTo_hostOut (s : State) (a : VAddr) : (s.retireTo a).hostOut = s.hostOut := rfl
@[simp] theorem State.retireTo_replies (s : State) (a : VAddr) : (s.retireTo a).replies = s.replies := rfl
@[simp] theorem State.retireTo_schedule (s : State) (a : VAddr) : (s.retireTo a).schedule = s.schedule := rfl
@[simp] theorem State.retireTo_nextId (s : State) (a : VAddr) : (s.retireTo a).nextId = s.nextId := rfl
@[simp] theorem State.retireTo_time (s : State) (a : VAddr) : (s.retireTo a).time = s.time := rfl
@[simp] theorem State.retireTo_free (s : State) (a : VAddr) : (s.retireTo a).free = s.free := rfl
@[simp] theorem State.retire_others (s : State) (pg : Nat) (p : Pfx) : (s.retire pg p).others = s.others := rfl
@[simp] theorem State.retire_mem (s : State) (pg : Nat) (p : Pfx) : (s.retire pg p).mem = s.mem := rfl
@[simp] theorem State.retire_tags (s : State) (pg : Nat) (p : Pfx) : (s.retire pg p).tags = s.tags := rfl
@[simp] theorem State.retire_full (s : State) (pg : Nat) (p : Pfx) : (s.retire pg p).full = s.full := rfl
@[simp] theorem State.retire_psn (s : State) (pg : Nat) (p : Pfx) : (s.retire pg p).psn = s.psn := rfl
@[simp] theorem State.retire_psnBits (s : State) (pg : Nat) (p : Pfx) : (s.retire pg p).psnBits = s.psnBits := rfl
@[simp] theorem State.retire_tiles (s : State) (pg : Nat) (p : Pfx) : (s.retire pg p).tiles = s.tiles := rfl
@[simp] theorem State.retire_gangs (s : State) (pg : Nat) (p : Pfx) : (s.retire pg p).gangs = s.gangs := rfl
@[simp] theorem State.retire_zones (s : State) (pg : Nat) (p : Pfx) : (s.retire pg p).zones = s.zones := rfl
@[simp] theorem State.retire_modules (s : State) (pg : Nat) (p : Pfx) : (s.retire pg p).modules = s.modules := rfl
@[simp] theorem State.retire_ports (s : State) (pg : Nat) (p : Pfx) : (s.retire pg p).ports = s.ports := rfl
@[simp] theorem State.retire_packets (s : State) (pg : Nat) (p : Pfx) : (s.retire pg p).packets = s.packets := rfl
@[simp] theorem State.retire_steals (s : State) (pg : Nat) (p : Pfx) : (s.retire pg p).steals = s.steals := rfl
@[simp] theorem State.retire_gong (s : State) (pg : Nat) (p : Pfx) : (s.retire pg p).gong = s.gong := rfl
@[simp] theorem State.retire_releases (s : State) (pg : Nat) (p : Pfx) : (s.retire pg p).releases = s.releases := rfl
@[simp] theorem State.retire_reqs (s : State) (pg : Nat) (p : Pfx) : (s.retire pg p).reqs = s.reqs := rfl
@[simp] theorem State.retire_anns (s : State) (pg : Nat) (p : Pfx) : (s.retire pg p).anns = s.anns := rfl
@[simp] theorem State.retire_bellWin (s : State) (pg : Nat) (p : Pfx) : (s.retire pg p).bellWin = s.bellWin := rfl
@[simp] theorem State.retire_bellDone (s : State) (pg : Nat) (p : Pfx) : (s.retire pg p).bellDone = s.bellDone := rfl
@[simp] theorem State.retire_links (s : State) (pg : Nat) (p : Pfx) : (s.retire pg p).links = s.links := rfl
@[simp] theorem State.retire_hostOut (s : State) (pg : Nat) (p : Pfx) : (s.retire pg p).hostOut = s.hostOut := rfl
@[simp] theorem State.retire_replies (s : State) (pg : Nat) (p : Pfx) : (s.retire pg p).replies = s.replies := rfl
@[simp] theorem State.retire_schedule (s : State) (pg : Nat) (p : Pfx) : (s.retire pg p).schedule = s.schedule := rfl
@[simp] theorem State.retire_nextId (s : State) (pg : Nat) (p : Pfx) : (s.retire pg p).nextId = s.nextId := rfl
@[simp] theorem State.retire_time (s : State) (pg : Nat) (p : Pfx) : (s.retire pg p).time = s.time := rfl
@[simp] theorem State.retire_free (s : State) (pg : Nat) (p : Pfx) : (s.retire pg p).free = s.free := rfl
@[simp] theorem State.setReg_others (s : State) (n : RegNo) (v : Reg) : (s.setReg n v).others = s.others := by unfold State.setReg; split <;> rfl
@[simp] theorem State.setReg_mem (s : State) (n : RegNo) (v : Reg) : (s.setReg n v).mem = s.mem := by unfold State.setReg; split <;> rfl
@[simp] theorem State.setReg_tags (s : State) (n : RegNo) (v : Reg) : (s.setReg n v).tags = s.tags := by unfold State.setReg; split <;> rfl
@[simp] theorem State.setReg_full (s : State) (n : RegNo) (v : Reg) : (s.setReg n v).full = s.full := by unfold State.setReg; split <;> rfl
@[simp] theorem State.setReg_psn (s : State) (n : RegNo) (v : Reg) : (s.setReg n v).psn = s.psn := by unfold State.setReg; split <;> rfl
@[simp] theorem State.setReg_psnBits (s : State) (n : RegNo) (v : Reg) : (s.setReg n v).psnBits = s.psnBits := by unfold State.setReg; split <;> rfl
@[simp] theorem State.setReg_tiles (s : State) (n : RegNo) (v : Reg) : (s.setReg n v).tiles = s.tiles := by unfold State.setReg; split <;> rfl
@[simp] theorem State.setReg_gangs (s : State) (n : RegNo) (v : Reg) : (s.setReg n v).gangs = s.gangs := by unfold State.setReg; split <;> rfl
@[simp] theorem State.setReg_zones (s : State) (n : RegNo) (v : Reg) : (s.setReg n v).zones = s.zones := by unfold State.setReg; split <;> rfl
@[simp] theorem State.setReg_modules (s : State) (n : RegNo) (v : Reg) : (s.setReg n v).modules = s.modules := by unfold State.setReg; split <;> rfl
@[simp] theorem State.setReg_ports (s : State) (n : RegNo) (v : Reg) : (s.setReg n v).ports = s.ports := by unfold State.setReg; split <;> rfl
@[simp] theorem State.setReg_packets (s : State) (n : RegNo) (v : Reg) : (s.setReg n v).packets = s.packets := by unfold State.setReg; split <;> rfl
@[simp] theorem State.setReg_steals (s : State) (n : RegNo) (v : Reg) : (s.setReg n v).steals = s.steals := by unfold State.setReg; split <;> rfl
@[simp] theorem State.setReg_gong (s : State) (n : RegNo) (v : Reg) : (s.setReg n v).gong = s.gong := by unfold State.setReg; split <;> rfl
@[simp] theorem State.setReg_releases (s : State) (n : RegNo) (v : Reg) : (s.setReg n v).releases = s.releases := by unfold State.setReg; split <;> rfl
@[simp] theorem State.setReg_reqs (s : State) (n : RegNo) (v : Reg) : (s.setReg n v).reqs = s.reqs := by unfold State.setReg; split <;> rfl
@[simp] theorem State.setReg_anns (s : State) (n : RegNo) (v : Reg) : (s.setReg n v).anns = s.anns := by unfold State.setReg; split <;> rfl
@[simp] theorem State.setReg_bellWin (s : State) (n : RegNo) (v : Reg) : (s.setReg n v).bellWin = s.bellWin := by unfold State.setReg; split <;> rfl
@[simp] theorem State.setReg_bellDone (s : State) (n : RegNo) (v : Reg) : (s.setReg n v).bellDone = s.bellDone := by unfold State.setReg; split <;> rfl
@[simp] theorem State.setReg_links (s : State) (n : RegNo) (v : Reg) : (s.setReg n v).links = s.links := by unfold State.setReg; split <;> rfl
@[simp] theorem State.setReg_hostOut (s : State) (n : RegNo) (v : Reg) : (s.setReg n v).hostOut = s.hostOut := by unfold State.setReg; split <;> rfl
@[simp] theorem State.setReg_replies (s : State) (n : RegNo) (v : Reg) : (s.setReg n v).replies = s.replies := by unfold State.setReg; split <;> rfl
@[simp] theorem State.setReg_schedule (s : State) (n : RegNo) (v : Reg) : (s.setReg n v).schedule = s.schedule := by unfold State.setReg; split <;> rfl
@[simp] theorem State.setReg_nextId (s : State) (n : RegNo) (v : Reg) : (s.setReg n v).nextId = s.nextId := by unfold State.setReg; split <;> rfl
@[simp] theorem State.setReg_time (s : State) (n : RegNo) (v : Reg) : (s.setReg n v).time = s.time := by unfold State.setReg; split <;> rfl
@[simp] theorem State.setReg_free (s : State) (n : RegNo) (v : Reg) : (s.setReg n v).free = s.free := by unfold State.setReg; split <;> rfl
@[simp] theorem State.setX_others (s : State) (n : RegNo) (v : Word) : (s.setX n v).others = s.others := by unfold State.setX State.setReg; split <;> rfl
@[simp] theorem State.setX_mem (s : State) (n : RegNo) (v : Word) : (s.setX n v).mem = s.mem := by unfold State.setX State.setReg; split <;> rfl
@[simp] theorem State.setX_tags (s : State) (n : RegNo) (v : Word) : (s.setX n v).tags = s.tags := by unfold State.setX State.setReg; split <;> rfl
@[simp] theorem State.setX_full (s : State) (n : RegNo) (v : Word) : (s.setX n v).full = s.full := by unfold State.setX State.setReg; split <;> rfl
@[simp] theorem State.setX_psn (s : State) (n : RegNo) (v : Word) : (s.setX n v).psn = s.psn := by unfold State.setX State.setReg; split <;> rfl
@[simp] theorem State.setX_psnBits (s : State) (n : RegNo) (v : Word) : (s.setX n v).psnBits = s.psnBits := by unfold State.setX State.setReg; split <;> rfl
@[simp] theorem State.setX_tiles (s : State) (n : RegNo) (v : Word) : (s.setX n v).tiles = s.tiles := by unfold State.setX State.setReg; split <;> rfl
@[simp] theorem State.setX_gangs (s : State) (n : RegNo) (v : Word) : (s.setX n v).gangs = s.gangs := by unfold State.setX State.setReg; split <;> rfl
@[simp] theorem State.setX_zones (s : State) (n : RegNo) (v : Word) : (s.setX n v).zones = s.zones := by unfold State.setX State.setReg; split <;> rfl
@[simp] theorem State.setX_modules (s : State) (n : RegNo) (v : Word) : (s.setX n v).modules = s.modules := by unfold State.setX State.setReg; split <;> rfl
@[simp] theorem State.setX_ports (s : State) (n : RegNo) (v : Word) : (s.setX n v).ports = s.ports := by unfold State.setX State.setReg; split <;> rfl
@[simp] theorem State.setX_packets (s : State) (n : RegNo) (v : Word) : (s.setX n v).packets = s.packets := by unfold State.setX State.setReg; split <;> rfl
@[simp] theorem State.setX_steals (s : State) (n : RegNo) (v : Word) : (s.setX n v).steals = s.steals := by unfold State.setX State.setReg; split <;> rfl
@[simp] theorem State.setX_gong (s : State) (n : RegNo) (v : Word) : (s.setX n v).gong = s.gong := by unfold State.setX State.setReg; split <;> rfl
@[simp] theorem State.setX_releases (s : State) (n : RegNo) (v : Word) : (s.setX n v).releases = s.releases := by unfold State.setX State.setReg; split <;> rfl
@[simp] theorem State.setX_reqs (s : State) (n : RegNo) (v : Word) : (s.setX n v).reqs = s.reqs := by unfold State.setX State.setReg; split <;> rfl
@[simp] theorem State.setX_anns (s : State) (n : RegNo) (v : Word) : (s.setX n v).anns = s.anns := by unfold State.setX State.setReg; split <;> rfl
@[simp] theorem State.setX_bellWin (s : State) (n : RegNo) (v : Word) : (s.setX n v).bellWin = s.bellWin := by unfold State.setX State.setReg; split <;> rfl
@[simp] theorem State.setX_bellDone (s : State) (n : RegNo) (v : Word) : (s.setX n v).bellDone = s.bellDone := by unfold State.setX State.setReg; split <;> rfl
@[simp] theorem State.setX_links (s : State) (n : RegNo) (v : Word) : (s.setX n v).links = s.links := by unfold State.setX State.setReg; split <;> rfl
@[simp] theorem State.setX_hostOut (s : State) (n : RegNo) (v : Word) : (s.setX n v).hostOut = s.hostOut := by unfold State.setX State.setReg; split <;> rfl
@[simp] theorem State.setX_replies (s : State) (n : RegNo) (v : Word) : (s.setX n v).replies = s.replies := by unfold State.setX State.setReg; split <;> rfl
@[simp] theorem State.setX_schedule (s : State) (n : RegNo) (v : Word) : (s.setX n v).schedule = s.schedule := by unfold State.setX State.setReg; split <;> rfl
@[simp] theorem State.setX_nextId (s : State) (n : RegNo) (v : Word) : (s.setX n v).nextId = s.nextId := by unfold State.setX State.setReg; split <;> rfl
@[simp] theorem State.setX_time (s : State) (n : RegNo) (v : Word) : (s.setX n v).time = s.time := by unfold State.setX State.setReg; split <;> rfl
@[simp] theorem State.setX_free (s : State) (n : RegNo) (v : Word) : (s.setX n v).free = s.free := by unfold State.setX State.setReg; split <;> rfl
@[simp] theorem State.setPred_others (s : State) (n : PredNo) (v : Bool) : (s.setPred n v).others = s.others := by unfold State.setPred; split <;> rfl
@[simp] theorem State.setPred_mem (s : State) (n : PredNo) (v : Bool) : (s.setPred n v).mem = s.mem := by unfold State.setPred; split <;> rfl
@[simp] theorem State.setPred_tags (s : State) (n : PredNo) (v : Bool) : (s.setPred n v).tags = s.tags := by unfold State.setPred; split <;> rfl
@[simp] theorem State.setPred_full (s : State) (n : PredNo) (v : Bool) : (s.setPred n v).full = s.full := by unfold State.setPred; split <;> rfl
@[simp] theorem State.setPred_psn (s : State) (n : PredNo) (v : Bool) : (s.setPred n v).psn = s.psn := by unfold State.setPred; split <;> rfl
@[simp] theorem State.setPred_psnBits (s : State) (n : PredNo) (v : Bool) : (s.setPred n v).psnBits = s.psnBits := by unfold State.setPred; split <;> rfl
@[simp] theorem State.setPred_tiles (s : State) (n : PredNo) (v : Bool) : (s.setPred n v).tiles = s.tiles := by unfold State.setPred; split <;> rfl
@[simp] theorem State.setPred_gangs (s : State) (n : PredNo) (v : Bool) : (s.setPred n v).gangs = s.gangs := by unfold State.setPred; split <;> rfl
@[simp] theorem State.setPred_zones (s : State) (n : PredNo) (v : Bool) : (s.setPred n v).zones = s.zones := by unfold State.setPred; split <;> rfl
@[simp] theorem State.setPred_modules (s : State) (n : PredNo) (v : Bool) : (s.setPred n v).modules = s.modules := by unfold State.setPred; split <;> rfl
@[simp] theorem State.setPred_ports (s : State) (n : PredNo) (v : Bool) : (s.setPred n v).ports = s.ports := by unfold State.setPred; split <;> rfl
@[simp] theorem State.setPred_packets (s : State) (n : PredNo) (v : Bool) : (s.setPred n v).packets = s.packets := by unfold State.setPred; split <;> rfl
@[simp] theorem State.setPred_steals (s : State) (n : PredNo) (v : Bool) : (s.setPred n v).steals = s.steals := by unfold State.setPred; split <;> rfl
@[simp] theorem State.setPred_gong (s : State) (n : PredNo) (v : Bool) : (s.setPred n v).gong = s.gong := by unfold State.setPred; split <;> rfl
@[simp] theorem State.setPred_releases (s : State) (n : PredNo) (v : Bool) : (s.setPred n v).releases = s.releases := by unfold State.setPred; split <;> rfl
@[simp] theorem State.setPred_reqs (s : State) (n : PredNo) (v : Bool) : (s.setPred n v).reqs = s.reqs := by unfold State.setPred; split <;> rfl
@[simp] theorem State.setPred_anns (s : State) (n : PredNo) (v : Bool) : (s.setPred n v).anns = s.anns := by unfold State.setPred; split <;> rfl
@[simp] theorem State.setPred_bellWin (s : State) (n : PredNo) (v : Bool) : (s.setPred n v).bellWin = s.bellWin := by unfold State.setPred; split <;> rfl
@[simp] theorem State.setPred_bellDone (s : State) (n : PredNo) (v : Bool) : (s.setPred n v).bellDone = s.bellDone := by unfold State.setPred; split <;> rfl
@[simp] theorem State.setPred_links (s : State) (n : PredNo) (v : Bool) : (s.setPred n v).links = s.links := by unfold State.setPred; split <;> rfl
@[simp] theorem State.setPred_hostOut (s : State) (n : PredNo) (v : Bool) : (s.setPred n v).hostOut = s.hostOut := by unfold State.setPred; split <;> rfl
@[simp] theorem State.setPred_replies (s : State) (n : PredNo) (v : Bool) : (s.setPred n v).replies = s.replies := by unfold State.setPred; split <;> rfl
@[simp] theorem State.setPred_schedule (s : State) (n : PredNo) (v : Bool) : (s.setPred n v).schedule = s.schedule := by unfold State.setPred; split <;> rfl
@[simp] theorem State.setPred_nextId (s : State) (n : PredNo) (v : Bool) : (s.setPred n v).nextId = s.nextId := by unfold State.setPred; split <;> rfl
@[simp] theorem State.setPred_time (s : State) (n : PredNo) (v : Bool) : (s.setPred n v).time = s.time := by unfold State.setPred; split <;> rfl
@[simp] theorem State.setPred_free (s : State) (n : PredNo) (v : Bool) : (s.setPred n v).free = s.free := by unfold State.setPred; split <;> rfl
@[simp] theorem State.saveTrap_others (s : State) (c : Nat) (v : Word) : (s.saveTrap c v).others = s.others := rfl
@[simp] theorem State.saveTrap_mem (s : State) (c : Nat) (v : Word) : (s.saveTrap c v).mem = s.mem := rfl
@[simp] theorem State.saveTrap_tags (s : State) (c : Nat) (v : Word) : (s.saveTrap c v).tags = s.tags := rfl
@[simp] theorem State.saveTrap_full (s : State) (c : Nat) (v : Word) : (s.saveTrap c v).full = s.full := rfl
@[simp] theorem State.saveTrap_psn (s : State) (c : Nat) (v : Word) : (s.saveTrap c v).psn = s.psn := rfl
@[simp] theorem State.saveTrap_psnBits (s : State) (c : Nat) (v : Word) : (s.saveTrap c v).psnBits = s.psnBits := rfl
@[simp] theorem State.saveTrap_tiles (s : State) (c : Nat) (v : Word) : (s.saveTrap c v).tiles = s.tiles := rfl
@[simp] theorem State.saveTrap_gangs (s : State) (c : Nat) (v : Word) : (s.saveTrap c v).gangs = s.gangs := rfl
@[simp] theorem State.saveTrap_zones (s : State) (c : Nat) (v : Word) : (s.saveTrap c v).zones = s.zones := rfl
@[simp] theorem State.saveTrap_modules (s : State) (c : Nat) (v : Word) : (s.saveTrap c v).modules = s.modules := rfl
@[simp] theorem State.saveTrap_ports (s : State) (c : Nat) (v : Word) : (s.saveTrap c v).ports = s.ports := rfl
@[simp] theorem State.saveTrap_packets (s : State) (c : Nat) (v : Word) : (s.saveTrap c v).packets = s.packets := rfl
@[simp] theorem State.saveTrap_steals (s : State) (c : Nat) (v : Word) : (s.saveTrap c v).steals = s.steals := rfl
@[simp] theorem State.saveTrap_gong (s : State) (c : Nat) (v : Word) : (s.saveTrap c v).gong = s.gong := rfl
@[simp] theorem State.saveTrap_releases (s : State) (c : Nat) (v : Word) : (s.saveTrap c v).releases = s.releases := rfl
@[simp] theorem State.saveTrap_reqs (s : State) (c : Nat) (v : Word) : (s.saveTrap c v).reqs = s.reqs := rfl
@[simp] theorem State.saveTrap_anns (s : State) (c : Nat) (v : Word) : (s.saveTrap c v).anns = s.anns := rfl
@[simp] theorem State.saveTrap_bellWin (s : State) (c : Nat) (v : Word) : (s.saveTrap c v).bellWin = s.bellWin := rfl
@[simp] theorem State.saveTrap_bellDone (s : State) (c : Nat) (v : Word) : (s.saveTrap c v).bellDone = s.bellDone := rfl
@[simp] theorem State.saveTrap_links (s : State) (c : Nat) (v : Word) : (s.saveTrap c v).links = s.links := rfl
@[simp] theorem State.saveTrap_hostOut (s : State) (c : Nat) (v : Word) : (s.saveTrap c v).hostOut = s.hostOut := rfl
@[simp] theorem State.saveTrap_replies (s : State) (c : Nat) (v : Word) : (s.saveTrap c v).replies = s.replies := rfl
@[simp] theorem State.saveTrap_schedule (s : State) (c : Nat) (v : Word) : (s.saveTrap c v).schedule = s.schedule := rfl
@[simp] theorem State.saveTrap_nextId (s : State) (c : Nat) (v : Word) : (s.saveTrap c v).nextId = s.nextId := rfl
@[simp] theorem State.saveTrap_time (s : State) (c : Nat) (v : Word) : (s.saveTrap c v).time = s.time := rfl
@[simp] theorem State.saveTrap_free (s : State) (c : Nat) (v : Word) : (s.saveTrap c v).free = s.free := rfl
@[simp] theorem State.enterVector_others (s : State) (v : Reg) : (s.enterVector v).others = s.others := rfl
@[simp] theorem State.enterVector_mem (s : State) (v : Reg) : (s.enterVector v).mem = s.mem := rfl
@[simp] theorem State.enterVector_tags (s : State) (v : Reg) : (s.enterVector v).tags = s.tags := rfl
@[simp] theorem State.enterVector_full (s : State) (v : Reg) : (s.enterVector v).full = s.full := rfl
@[simp] theorem State.enterVector_psn (s : State) (v : Reg) : (s.enterVector v).psn = s.psn := rfl
@[simp] theorem State.enterVector_psnBits (s : State) (v : Reg) : (s.enterVector v).psnBits = s.psnBits := rfl
@[simp] theorem State.enterVector_tiles (s : State) (v : Reg) : (s.enterVector v).tiles = s.tiles := rfl
@[simp] theorem State.enterVector_gangs (s : State) (v : Reg) : (s.enterVector v).gangs = s.gangs := rfl
@[simp] theorem State.enterVector_zones (s : State) (v : Reg) : (s.enterVector v).zones = s.zones := rfl
@[simp] theorem State.enterVector_modules (s : State) (v : Reg) : (s.enterVector v).modules = s.modules := rfl
@[simp] theorem State.enterVector_ports (s : State) (v : Reg) : (s.enterVector v).ports = s.ports := rfl
@[simp] theorem State.enterVector_packets (s : State) (v : Reg) : (s.enterVector v).packets = s.packets := rfl
@[simp] theorem State.enterVector_steals (s : State) (v : Reg) : (s.enterVector v).steals = s.steals := rfl
@[simp] theorem State.enterVector_gong (s : State) (v : Reg) : (s.enterVector v).gong = s.gong := rfl
@[simp] theorem State.enterVector_releases (s : State) (v : Reg) : (s.enterVector v).releases = s.releases := rfl
@[simp] theorem State.enterVector_reqs (s : State) (v : Reg) : (s.enterVector v).reqs = s.reqs := rfl
@[simp] theorem State.enterVector_anns (s : State) (v : Reg) : (s.enterVector v).anns = s.anns := rfl
@[simp] theorem State.enterVector_bellWin (s : State) (v : Reg) : (s.enterVector v).bellWin = s.bellWin := rfl
@[simp] theorem State.enterVector_bellDone (s : State) (v : Reg) : (s.enterVector v).bellDone = s.bellDone := rfl
@[simp] theorem State.enterVector_links (s : State) (v : Reg) : (s.enterVector v).links = s.links := rfl
@[simp] theorem State.enterVector_hostOut (s : State) (v : Reg) : (s.enterVector v).hostOut = s.hostOut := rfl
@[simp] theorem State.enterVector_replies (s : State) (v : Reg) : (s.enterVector v).replies = s.replies := rfl
@[simp] theorem State.enterVector_schedule (s : State) (v : Reg) : (s.enterVector v).schedule = s.schedule := rfl
@[simp] theorem State.enterVector_nextId (s : State) (v : Reg) : (s.enterVector v).nextId = s.nextId := rfl
@[simp] theorem State.enterVector_time (s : State) (v : Reg) : (s.enterVector v).time = s.time := rfl
@[simp] theorem State.enterVector_free (s : State) (v : Reg) : (s.enterVector v).free = s.free := rfl
@[simp] theorem State.clearRounding_others (s : State)  : (s.clearRounding).others = s.others := rfl
@[simp] theorem State.clearRounding_mem (s : State)  : (s.clearRounding).mem = s.mem := rfl
@[simp] theorem State.clearRounding_tags (s : State)  : (s.clearRounding).tags = s.tags := rfl
@[simp] theorem State.clearRounding_full (s : State)  : (s.clearRounding).full = s.full := rfl
@[simp] theorem State.clearRounding_psn (s : State)  : (s.clearRounding).psn = s.psn := rfl
@[simp] theorem State.clearRounding_psnBits (s : State)  : (s.clearRounding).psnBits = s.psnBits := rfl
@[simp] theorem State.clearRounding_tiles (s : State)  : (s.clearRounding).tiles = s.tiles := rfl
@[simp] theorem State.clearRounding_gangs (s : State)  : (s.clearRounding).gangs = s.gangs := rfl
@[simp] theorem State.clearRounding_zones (s : State)  : (s.clearRounding).zones = s.zones := rfl
@[simp] theorem State.clearRounding_modules (s : State)  : (s.clearRounding).modules = s.modules := rfl
@[simp] theorem State.clearRounding_ports (s : State)  : (s.clearRounding).ports = s.ports := rfl
@[simp] theorem State.clearRounding_packets (s : State)  : (s.clearRounding).packets = s.packets := rfl
@[simp] theorem State.clearRounding_steals (s : State)  : (s.clearRounding).steals = s.steals := rfl
@[simp] theorem State.clearRounding_gong (s : State)  : (s.clearRounding).gong = s.gong := rfl
@[simp] theorem State.clearRounding_releases (s : State)  : (s.clearRounding).releases = s.releases := rfl
@[simp] theorem State.clearRounding_reqs (s : State)  : (s.clearRounding).reqs = s.reqs := rfl
@[simp] theorem State.clearRounding_anns (s : State)  : (s.clearRounding).anns = s.anns := rfl
@[simp] theorem State.clearRounding_bellWin (s : State)  : (s.clearRounding).bellWin = s.bellWin := rfl
@[simp] theorem State.clearRounding_bellDone (s : State)  : (s.clearRounding).bellDone = s.bellDone := rfl
@[simp] theorem State.clearRounding_links (s : State)  : (s.clearRounding).links = s.links := rfl
@[simp] theorem State.clearRounding_hostOut (s : State)  : (s.clearRounding).hostOut = s.hostOut := rfl
@[simp] theorem State.clearRounding_replies (s : State)  : (s.clearRounding).replies = s.replies := rfl
@[simp] theorem State.clearRounding_schedule (s : State)  : (s.clearRounding).schedule = s.schedule := rfl
@[simp] theorem State.clearRounding_nextId (s : State)  : (s.clearRounding).nextId = s.nextId := rfl
@[simp] theorem State.clearRounding_time (s : State)  : (s.clearRounding).time = s.time := rfl
@[simp] theorem State.clearRounding_free (s : State)  : (s.clearRounding).free = s.free := rfl
@[simp] theorem State.orFlags_others (s : State) (v : BitVec 5) : (s.orFlags v).others = s.others := by unfold State.orFlags; split <;> rfl
@[simp] theorem State.orFlags_mem (s : State) (v : BitVec 5) : (s.orFlags v).mem = s.mem := by unfold State.orFlags; split <;> rfl
@[simp] theorem State.orFlags_tags (s : State) (v : BitVec 5) : (s.orFlags v).tags = s.tags := by unfold State.orFlags; split <;> rfl
@[simp] theorem State.orFlags_full (s : State) (v : BitVec 5) : (s.orFlags v).full = s.full := by unfold State.orFlags; split <;> rfl
@[simp] theorem State.orFlags_psn (s : State) (v : BitVec 5) : (s.orFlags v).psn = s.psn := by unfold State.orFlags; split <;> rfl
@[simp] theorem State.orFlags_psnBits (s : State) (v : BitVec 5) : (s.orFlags v).psnBits = s.psnBits := by unfold State.orFlags; split <;> rfl
@[simp] theorem State.orFlags_tiles (s : State) (v : BitVec 5) : (s.orFlags v).tiles = s.tiles := by unfold State.orFlags; split <;> rfl
@[simp] theorem State.orFlags_gangs (s : State) (v : BitVec 5) : (s.orFlags v).gangs = s.gangs := by unfold State.orFlags; split <;> rfl
@[simp] theorem State.orFlags_zones (s : State) (v : BitVec 5) : (s.orFlags v).zones = s.zones := by unfold State.orFlags; split <;> rfl
@[simp] theorem State.orFlags_modules (s : State) (v : BitVec 5) : (s.orFlags v).modules = s.modules := by unfold State.orFlags; split <;> rfl
@[simp] theorem State.orFlags_ports (s : State) (v : BitVec 5) : (s.orFlags v).ports = s.ports := by unfold State.orFlags; split <;> rfl
@[simp] theorem State.orFlags_packets (s : State) (v : BitVec 5) : (s.orFlags v).packets = s.packets := by unfold State.orFlags; split <;> rfl
@[simp] theorem State.orFlags_steals (s : State) (v : BitVec 5) : (s.orFlags v).steals = s.steals := by unfold State.orFlags; split <;> rfl
@[simp] theorem State.orFlags_gong (s : State) (v : BitVec 5) : (s.orFlags v).gong = s.gong := by unfold State.orFlags; split <;> rfl
@[simp] theorem State.orFlags_releases (s : State) (v : BitVec 5) : (s.orFlags v).releases = s.releases := by unfold State.orFlags; split <;> rfl
@[simp] theorem State.orFlags_reqs (s : State) (v : BitVec 5) : (s.orFlags v).reqs = s.reqs := by unfold State.orFlags; split <;> rfl
@[simp] theorem State.orFlags_anns (s : State) (v : BitVec 5) : (s.orFlags v).anns = s.anns := by unfold State.orFlags; split <;> rfl
@[simp] theorem State.orFlags_bellWin (s : State) (v : BitVec 5) : (s.orFlags v).bellWin = s.bellWin := by unfold State.orFlags; split <;> rfl
@[simp] theorem State.orFlags_bellDone (s : State) (v : BitVec 5) : (s.orFlags v).bellDone = s.bellDone := by unfold State.orFlags; split <;> rfl
@[simp] theorem State.orFlags_links (s : State) (v : BitVec 5) : (s.orFlags v).links = s.links := by unfold State.orFlags; split <;> rfl
@[simp] theorem State.orFlags_hostOut (s : State) (v : BitVec 5) : (s.orFlags v).hostOut = s.hostOut := by unfold State.orFlags; split <;> rfl
@[simp] theorem State.orFlags_replies (s : State) (v : BitVec 5) : (s.orFlags v).replies = s.replies := by unfold State.orFlags; split <;> rfl
@[simp] theorem State.orFlags_schedule (s : State) (v : BitVec 5) : (s.orFlags v).schedule = s.schedule := by unfold State.orFlags; split <;> rfl
@[simp] theorem State.orFlags_nextId (s : State) (v : BitVec 5) : (s.orFlags v).nextId = s.nextId := by unfold State.orFlags; split <;> rfl
@[simp] theorem State.orFlags_time (s : State) (v : BitVec 5) : (s.orFlags v).time = s.time := by unfold State.orFlags; split <;> rfl
@[simp] theorem State.orFlags_free (s : State) (v : BitVec 5) : (s.orFlags v).free = s.free := by unfold State.orFlags; split <;> rfl
@[simp] theorem State.setSeed_others (s : State) (v : BitVec 32) : (s.setSeed v).others = s.others := by unfold State.setSeed; split <;> rfl
@[simp] theorem State.setSeed_mem (s : State) (v : BitVec 32) : (s.setSeed v).mem = s.mem := by unfold State.setSeed; split <;> rfl
@[simp] theorem State.setSeed_tags (s : State) (v : BitVec 32) : (s.setSeed v).tags = s.tags := by unfold State.setSeed; split <;> rfl
@[simp] theorem State.setSeed_full (s : State) (v : BitVec 32) : (s.setSeed v).full = s.full := by unfold State.setSeed; split <;> rfl
@[simp] theorem State.setSeed_psn (s : State) (v : BitVec 32) : (s.setSeed v).psn = s.psn := by unfold State.setSeed; split <;> rfl
@[simp] theorem State.setSeed_psnBits (s : State) (v : BitVec 32) : (s.setSeed v).psnBits = s.psnBits := by unfold State.setSeed; split <;> rfl
@[simp] theorem State.setSeed_tiles (s : State) (v : BitVec 32) : (s.setSeed v).tiles = s.tiles := by unfold State.setSeed; split <;> rfl
@[simp] theorem State.setSeed_gangs (s : State) (v : BitVec 32) : (s.setSeed v).gangs = s.gangs := by unfold State.setSeed; split <;> rfl
@[simp] theorem State.setSeed_zones (s : State) (v : BitVec 32) : (s.setSeed v).zones = s.zones := by unfold State.setSeed; split <;> rfl
@[simp] theorem State.setSeed_modules (s : State) (v : BitVec 32) : (s.setSeed v).modules = s.modules := by unfold State.setSeed; split <;> rfl
@[simp] theorem State.setSeed_ports (s : State) (v : BitVec 32) : (s.setSeed v).ports = s.ports := by unfold State.setSeed; split <;> rfl
@[simp] theorem State.setSeed_packets (s : State) (v : BitVec 32) : (s.setSeed v).packets = s.packets := by unfold State.setSeed; split <;> rfl
@[simp] theorem State.setSeed_steals (s : State) (v : BitVec 32) : (s.setSeed v).steals = s.steals := by unfold State.setSeed; split <;> rfl
@[simp] theorem State.setSeed_gong (s : State) (v : BitVec 32) : (s.setSeed v).gong = s.gong := by unfold State.setSeed; split <;> rfl
@[simp] theorem State.setSeed_releases (s : State) (v : BitVec 32) : (s.setSeed v).releases = s.releases := by unfold State.setSeed; split <;> rfl
@[simp] theorem State.setSeed_reqs (s : State) (v : BitVec 32) : (s.setSeed v).reqs = s.reqs := by unfold State.setSeed; split <;> rfl
@[simp] theorem State.setSeed_anns (s : State) (v : BitVec 32) : (s.setSeed v).anns = s.anns := by unfold State.setSeed; split <;> rfl
@[simp] theorem State.setSeed_bellWin (s : State) (v : BitVec 32) : (s.setSeed v).bellWin = s.bellWin := by unfold State.setSeed; split <;> rfl
@[simp] theorem State.setSeed_bellDone (s : State) (v : BitVec 32) : (s.setSeed v).bellDone = s.bellDone := by unfold State.setSeed; split <;> rfl
@[simp] theorem State.setSeed_links (s : State) (v : BitVec 32) : (s.setSeed v).links = s.links := by unfold State.setSeed; split <;> rfl
@[simp] theorem State.setSeed_hostOut (s : State) (v : BitVec 32) : (s.setSeed v).hostOut = s.hostOut := by unfold State.setSeed; split <;> rfl
@[simp] theorem State.setSeed_replies (s : State) (v : BitVec 32) : (s.setSeed v).replies = s.replies := by unfold State.setSeed; split <;> rfl
@[simp] theorem State.setSeed_schedule (s : State) (v : BitVec 32) : (s.setSeed v).schedule = s.schedule := by unfold State.setSeed; split <;> rfl
@[simp] theorem State.setSeed_nextId (s : State) (v : BitVec 32) : (s.setSeed v).nextId = s.nextId := by unfold State.setSeed; split <;> rfl
@[simp] theorem State.setSeed_time (s : State) (v : BitVec 32) : (s.setSeed v).time = s.time := by unfold State.setSeed; split <;> rfl
@[simp] theorem State.setSeed_free (s : State) (v : BitVec 32) : (s.setSeed v).free = s.free := by unfold State.setSeed; split <;> rfl
@[simp] theorem State.mapThreads_mem (s : State) (f : Thread → Thread) : (s.mapThreads f).mem = s.mem := rfl
@[simp] theorem State.mapThreads_tags (s : State) (f : Thread → Thread) : (s.mapThreads f).tags = s.tags := rfl
@[simp] theorem State.mapThreads_full (s : State) (f : Thread → Thread) : (s.mapThreads f).full = s.full := rfl
@[simp] theorem State.mapThreads_psn (s : State) (f : Thread → Thread) : (s.mapThreads f).psn = s.psn := rfl
@[simp] theorem State.mapThreads_psnBits (s : State) (f : Thread → Thread) : (s.mapThreads f).psnBits = s.psnBits := rfl
@[simp] theorem State.mapThreads_tiles (s : State) (f : Thread → Thread) : (s.mapThreads f).tiles = s.tiles := rfl
@[simp] theorem State.mapThreads_gangs (s : State) (f : Thread → Thread) : (s.mapThreads f).gangs = s.gangs := rfl
@[simp] theorem State.mapThreads_zones (s : State) (f : Thread → Thread) : (s.mapThreads f).zones = s.zones := rfl
@[simp] theorem State.mapThreads_modules (s : State) (f : Thread → Thread) : (s.mapThreads f).modules = s.modules := rfl
@[simp] theorem State.mapThreads_ports (s : State) (f : Thread → Thread) : (s.mapThreads f).ports = s.ports := rfl
@[simp] theorem State.mapThreads_packets (s : State) (f : Thread → Thread) : (s.mapThreads f).packets = s.packets := rfl
@[simp] theorem State.mapThreads_steals (s : State) (f : Thread → Thread) : (s.mapThreads f).steals = s.steals := rfl
@[simp] theorem State.mapThreads_gong (s : State) (f : Thread → Thread) : (s.mapThreads f).gong = s.gong := rfl
@[simp] theorem State.mapThreads_releases (s : State) (f : Thread → Thread) : (s.mapThreads f).releases = s.releases := rfl
@[simp] theorem State.mapThreads_reqs (s : State) (f : Thread → Thread) : (s.mapThreads f).reqs = s.reqs := rfl
@[simp] theorem State.mapThreads_anns (s : State) (f : Thread → Thread) : (s.mapThreads f).anns = s.anns := rfl
@[simp] theorem State.mapThreads_bellWin (s : State) (f : Thread → Thread) : (s.mapThreads f).bellWin = s.bellWin := rfl
@[simp] theorem State.mapThreads_bellDone (s : State) (f : Thread → Thread) : (s.mapThreads f).bellDone = s.bellDone := rfl
@[simp] theorem State.mapThreads_links (s : State) (f : Thread → Thread) : (s.mapThreads f).links = s.links := rfl
@[simp] theorem State.mapThreads_hostOut (s : State) (f : Thread → Thread) : (s.mapThreads f).hostOut = s.hostOut := rfl
@[simp] theorem State.mapThreads_replies (s : State) (f : Thread → Thread) : (s.mapThreads f).replies = s.replies := rfl
@[simp] theorem State.mapThreads_schedule (s : State) (f : Thread → Thread) : (s.mapThreads f).schedule = s.schedule := rfl
@[simp] theorem State.mapThreads_nextId (s : State) (f : Thread → Thread) : (s.mapThreads f).nextId = s.nextId := rfl
@[simp] theorem State.mapThreads_time (s : State) (f : Thread → Thread) : (s.mapThreads f).time = s.time := rfl
@[simp] theorem State.mapThreads_free (s : State) (f : Thread → Thread) : (s.mapThreads f).free = s.free := rfl
@[simp] theorem State.modThread_mem (s : State) (id : Nat) (f : Thread → Thread) : (s.modThread id f).mem = s.mem := rfl
@[simp] theorem State.modThread_tags (s : State) (id : Nat) (f : Thread → Thread) : (s.modThread id f).tags = s.tags := rfl
@[simp] theorem State.modThread_full (s : State) (id : Nat) (f : Thread → Thread) : (s.modThread id f).full = s.full := rfl
@[simp] theorem State.modThread_psn (s : State) (id : Nat) (f : Thread → Thread) : (s.modThread id f).psn = s.psn := rfl
@[simp] theorem State.modThread_psnBits (s : State) (id : Nat) (f : Thread → Thread) : (s.modThread id f).psnBits = s.psnBits := rfl
@[simp] theorem State.modThread_tiles (s : State) (id : Nat) (f : Thread → Thread) : (s.modThread id f).tiles = s.tiles := rfl
@[simp] theorem State.modThread_gangs (s : State) (id : Nat) (f : Thread → Thread) : (s.modThread id f).gangs = s.gangs := rfl
@[simp] theorem State.modThread_zones (s : State) (id : Nat) (f : Thread → Thread) : (s.modThread id f).zones = s.zones := rfl
@[simp] theorem State.modThread_modules (s : State) (id : Nat) (f : Thread → Thread) : (s.modThread id f).modules = s.modules := rfl
@[simp] theorem State.modThread_ports (s : State) (id : Nat) (f : Thread → Thread) : (s.modThread id f).ports = s.ports := rfl
@[simp] theorem State.modThread_packets (s : State) (id : Nat) (f : Thread → Thread) : (s.modThread id f).packets = s.packets := rfl
@[simp] theorem State.modThread_steals (s : State) (id : Nat) (f : Thread → Thread) : (s.modThread id f).steals = s.steals := rfl
@[simp] theorem State.modThread_gong (s : State) (id : Nat) (f : Thread → Thread) : (s.modThread id f).gong = s.gong := rfl
@[simp] theorem State.modThread_releases (s : State) (id : Nat) (f : Thread → Thread) : (s.modThread id f).releases = s.releases := rfl
@[simp] theorem State.modThread_reqs (s : State) (id : Nat) (f : Thread → Thread) : (s.modThread id f).reqs = s.reqs := rfl
@[simp] theorem State.modThread_anns (s : State) (id : Nat) (f : Thread → Thread) : (s.modThread id f).anns = s.anns := rfl
@[simp] theorem State.modThread_bellWin (s : State) (id : Nat) (f : Thread → Thread) : (s.modThread id f).bellWin = s.bellWin := rfl
@[simp] theorem State.modThread_bellDone (s : State) (id : Nat) (f : Thread → Thread) : (s.modThread id f).bellDone = s.bellDone := rfl
@[simp] theorem State.modThread_links (s : State) (id : Nat) (f : Thread → Thread) : (s.modThread id f).links = s.links := rfl
@[simp] theorem State.modThread_hostOut (s : State) (id : Nat) (f : Thread → Thread) : (s.modThread id f).hostOut = s.hostOut := rfl
@[simp] theorem State.modThread_replies (s : State) (id : Nat) (f : Thread → Thread) : (s.modThread id f).replies = s.replies := rfl
@[simp] theorem State.modThread_schedule (s : State) (id : Nat) (f : Thread → Thread) : (s.modThread id f).schedule = s.schedule := rfl
@[simp] theorem State.modThread_nextId (s : State) (id : Nat) (f : Thread → Thread) : (s.modThread id f).nextId = s.nextId := rfl
@[simp] theorem State.modThread_time (s : State) (id : Nat) (f : Thread → Thread) : (s.modThread id f).time = s.time := rfl
@[simp] theorem State.modThread_free (s : State) (id : Nat) (f : Thread → Thread) : (s.modThread id f).free = s.free := rfl
@[simp] theorem State.modTile_thr (s : State) (t : Nat) (f : Tile → Tile) : (s.modTile t f).thr = s.thr := rfl
@[simp] theorem State.modTile_others (s : State) (t : Nat) (f : Tile → Tile) : (s.modTile t f).others = s.others := rfl
@[simp] theorem State.modTile_mem (s : State) (t : Nat) (f : Tile → Tile) : (s.modTile t f).mem = s.mem := rfl
@[simp] theorem State.modTile_tags (s : State) (t : Nat) (f : Tile → Tile) : (s.modTile t f).tags = s.tags := rfl
@[simp] theorem State.modTile_full (s : State) (t : Nat) (f : Tile → Tile) : (s.modTile t f).full = s.full := rfl
@[simp] theorem State.modTile_psn (s : State) (t : Nat) (f : Tile → Tile) : (s.modTile t f).psn = s.psn := rfl
@[simp] theorem State.modTile_psnBits (s : State) (t : Nat) (f : Tile → Tile) : (s.modTile t f).psnBits = s.psnBits := rfl
@[simp] theorem State.modTile_gangs (s : State) (t : Nat) (f : Tile → Tile) : (s.modTile t f).gangs = s.gangs := rfl
@[simp] theorem State.modTile_zones (s : State) (t : Nat) (f : Tile → Tile) : (s.modTile t f).zones = s.zones := rfl
@[simp] theorem State.modTile_modules (s : State) (t : Nat) (f : Tile → Tile) : (s.modTile t f).modules = s.modules := rfl
@[simp] theorem State.modTile_ports (s : State) (t : Nat) (f : Tile → Tile) : (s.modTile t f).ports = s.ports := rfl
@[simp] theorem State.modTile_packets (s : State) (t : Nat) (f : Tile → Tile) : (s.modTile t f).packets = s.packets := rfl
@[simp] theorem State.modTile_steals (s : State) (t : Nat) (f : Tile → Tile) : (s.modTile t f).steals = s.steals := rfl
@[simp] theorem State.modTile_gong (s : State) (t : Nat) (f : Tile → Tile) : (s.modTile t f).gong = s.gong := rfl
@[simp] theorem State.modTile_releases (s : State) (t : Nat) (f : Tile → Tile) : (s.modTile t f).releases = s.releases := rfl
@[simp] theorem State.modTile_reqs (s : State) (t : Nat) (f : Tile → Tile) : (s.modTile t f).reqs = s.reqs := rfl
@[simp] theorem State.modTile_anns (s : State) (t : Nat) (f : Tile → Tile) : (s.modTile t f).anns = s.anns := rfl
@[simp] theorem State.modTile_bellWin (s : State) (t : Nat) (f : Tile → Tile) : (s.modTile t f).bellWin = s.bellWin := rfl
@[simp] theorem State.modTile_bellDone (s : State) (t : Nat) (f : Tile → Tile) : (s.modTile t f).bellDone = s.bellDone := rfl
@[simp] theorem State.modTile_links (s : State) (t : Nat) (f : Tile → Tile) : (s.modTile t f).links = s.links := rfl
@[simp] theorem State.modTile_hostOut (s : State) (t : Nat) (f : Tile → Tile) : (s.modTile t f).hostOut = s.hostOut := rfl
@[simp] theorem State.modTile_replies (s : State) (t : Nat) (f : Tile → Tile) : (s.modTile t f).replies = s.replies := rfl
@[simp] theorem State.modTile_schedule (s : State) (t : Nat) (f : Tile → Tile) : (s.modTile t f).schedule = s.schedule := rfl
@[simp] theorem State.modTile_nextId (s : State) (t : Nat) (f : Tile → Tile) : (s.modTile t f).nextId = s.nextId := rfl
@[simp] theorem State.modTile_time (s : State) (t : Nat) (f : Tile → Tile) : (s.modTile t f).time = s.time := rfl
@[simp] theorem State.modTile_free (s : State) (t : Nat) (f : Tile → Tile) : (s.modTile t f).free = s.free := rfl
@[simp] theorem State.modCore_thr (s : State) (t c : Nat) (f : Core → Core) : (s.modCore t c f).thr = s.thr := rfl
@[simp] theorem State.modCore_others (s : State) (t c : Nat) (f : Core → Core) : (s.modCore t c f).others = s.others := rfl
@[simp] theorem State.modCore_mem (s : State) (t c : Nat) (f : Core → Core) : (s.modCore t c f).mem = s.mem := rfl
@[simp] theorem State.modCore_tags (s : State) (t c : Nat) (f : Core → Core) : (s.modCore t c f).tags = s.tags := rfl
@[simp] theorem State.modCore_full (s : State) (t c : Nat) (f : Core → Core) : (s.modCore t c f).full = s.full := rfl
@[simp] theorem State.modCore_psn (s : State) (t c : Nat) (f : Core → Core) : (s.modCore t c f).psn = s.psn := rfl
@[simp] theorem State.modCore_psnBits (s : State) (t c : Nat) (f : Core → Core) : (s.modCore t c f).psnBits = s.psnBits := rfl
@[simp] theorem State.modCore_gangs (s : State) (t c : Nat) (f : Core → Core) : (s.modCore t c f).gangs = s.gangs := rfl
@[simp] theorem State.modCore_zones (s : State) (t c : Nat) (f : Core → Core) : (s.modCore t c f).zones = s.zones := rfl
@[simp] theorem State.modCore_modules (s : State) (t c : Nat) (f : Core → Core) : (s.modCore t c f).modules = s.modules := rfl
@[simp] theorem State.modCore_ports (s : State) (t c : Nat) (f : Core → Core) : (s.modCore t c f).ports = s.ports := rfl
@[simp] theorem State.modCore_packets (s : State) (t c : Nat) (f : Core → Core) : (s.modCore t c f).packets = s.packets := rfl
@[simp] theorem State.modCore_steals (s : State) (t c : Nat) (f : Core → Core) : (s.modCore t c f).steals = s.steals := rfl
@[simp] theorem State.modCore_gong (s : State) (t c : Nat) (f : Core → Core) : (s.modCore t c f).gong = s.gong := rfl
@[simp] theorem State.modCore_releases (s : State) (t c : Nat) (f : Core → Core) : (s.modCore t c f).releases = s.releases := rfl
@[simp] theorem State.modCore_reqs (s : State) (t c : Nat) (f : Core → Core) : (s.modCore t c f).reqs = s.reqs := rfl
@[simp] theorem State.modCore_anns (s : State) (t c : Nat) (f : Core → Core) : (s.modCore t c f).anns = s.anns := rfl
@[simp] theorem State.modCore_bellWin (s : State) (t c : Nat) (f : Core → Core) : (s.modCore t c f).bellWin = s.bellWin := rfl
@[simp] theorem State.modCore_bellDone (s : State) (t c : Nat) (f : Core → Core) : (s.modCore t c f).bellDone = s.bellDone := rfl
@[simp] theorem State.modCore_links (s : State) (t c : Nat) (f : Core → Core) : (s.modCore t c f).links = s.links := rfl
@[simp] theorem State.modCore_hostOut (s : State) (t c : Nat) (f : Core → Core) : (s.modCore t c f).hostOut = s.hostOut := rfl
@[simp] theorem State.modCore_replies (s : State) (t c : Nat) (f : Core → Core) : (s.modCore t c f).replies = s.replies := rfl
@[simp] theorem State.modCore_schedule (s : State) (t c : Nat) (f : Core → Core) : (s.modCore t c f).schedule = s.schedule := rfl
@[simp] theorem State.modCore_nextId (s : State) (t c : Nat) (f : Core → Core) : (s.modCore t c f).nextId = s.nextId := rfl
@[simp] theorem State.modCore_time (s : State) (t c : Nat) (f : Core → Core) : (s.modCore t c f).time = s.time := rfl
@[simp] theorem State.modCore_free (s : State) (t c : Nat) (f : Core → Core) : (s.modCore t c f).free = s.free := rfl
@[simp] theorem State.bump_thr (s : State) (t n : Nat) : (s.bump t n).thr = s.thr := rfl
@[simp] theorem State.bump_others (s : State) (t n : Nat) : (s.bump t n).others = s.others := rfl
@[simp] theorem State.bump_mem (s : State) (t n : Nat) : (s.bump t n).mem = s.mem := rfl
@[simp] theorem State.bump_tags (s : State) (t n : Nat) : (s.bump t n).tags = s.tags := rfl
@[simp] theorem State.bump_full (s : State) (t n : Nat) : (s.bump t n).full = s.full := rfl
@[simp] theorem State.bump_psn (s : State) (t n : Nat) : (s.bump t n).psn = s.psn := rfl
@[simp] theorem State.bump_psnBits (s : State) (t n : Nat) : (s.bump t n).psnBits = s.psnBits := rfl
@[simp] theorem State.bump_gangs (s : State) (t n : Nat) : (s.bump t n).gangs = s.gangs := rfl
@[simp] theorem State.bump_zones (s : State) (t n : Nat) : (s.bump t n).zones = s.zones := rfl
@[simp] theorem State.bump_modules (s : State) (t n : Nat) : (s.bump t n).modules = s.modules := rfl
@[simp] theorem State.bump_ports (s : State) (t n : Nat) : (s.bump t n).ports = s.ports := rfl
@[simp] theorem State.bump_packets (s : State) (t n : Nat) : (s.bump t n).packets = s.packets := rfl
@[simp] theorem State.bump_steals (s : State) (t n : Nat) : (s.bump t n).steals = s.steals := rfl
@[simp] theorem State.bump_gong (s : State) (t n : Nat) : (s.bump t n).gong = s.gong := rfl
@[simp] theorem State.bump_releases (s : State) (t n : Nat) : (s.bump t n).releases = s.releases := rfl
@[simp] theorem State.bump_reqs (s : State) (t n : Nat) : (s.bump t n).reqs = s.reqs := rfl
@[simp] theorem State.bump_anns (s : State) (t n : Nat) : (s.bump t n).anns = s.anns := rfl
@[simp] theorem State.bump_bellWin (s : State) (t n : Nat) : (s.bump t n).bellWin = s.bellWin := rfl
@[simp] theorem State.bump_bellDone (s : State) (t n : Nat) : (s.bump t n).bellDone = s.bellDone := rfl
@[simp] theorem State.bump_links (s : State) (t n : Nat) : (s.bump t n).links = s.links := rfl
@[simp] theorem State.bump_hostOut (s : State) (t n : Nat) : (s.bump t n).hostOut = s.hostOut := rfl
@[simp] theorem State.bump_replies (s : State) (t n : Nat) : (s.bump t n).replies = s.replies := rfl
@[simp] theorem State.bump_schedule (s : State) (t n : Nat) : (s.bump t n).schedule = s.schedule := rfl
@[simp] theorem State.bump_nextId (s : State) (t n : Nat) : (s.bump t n).nextId = s.nextId := rfl
@[simp] theorem State.bump_time (s : State) (t n : Nat) : (s.bump t n).time = s.time := rfl
@[simp] theorem State.bump_free (s : State) (t n : Nat) : (s.bump t n).free = s.free := rfl
@[simp] theorem State.setCount_thr (s : State) (t n : Nat) (v : Word) : (s.setCount t n v).thr = s.thr := rfl
@[simp] theorem State.setCount_others (s : State) (t n : Nat) (v : Word) : (s.setCount t n v).others = s.others := rfl
@[simp] theorem State.setCount_mem (s : State) (t n : Nat) (v : Word) : (s.setCount t n v).mem = s.mem := rfl
@[simp] theorem State.setCount_tags (s : State) (t n : Nat) (v : Word) : (s.setCount t n v).tags = s.tags := rfl
@[simp] theorem State.setCount_full (s : State) (t n : Nat) (v : Word) : (s.setCount t n v).full = s.full := rfl
@[simp] theorem State.setCount_psn (s : State) (t n : Nat) (v : Word) : (s.setCount t n v).psn = s.psn := rfl
@[simp] theorem State.setCount_psnBits (s : State) (t n : Nat) (v : Word) : (s.setCount t n v).psnBits = s.psnBits := rfl
@[simp] theorem State.setCount_gangs (s : State) (t n : Nat) (v : Word) : (s.setCount t n v).gangs = s.gangs := rfl
@[simp] theorem State.setCount_zones (s : State) (t n : Nat) (v : Word) : (s.setCount t n v).zones = s.zones := rfl
@[simp] theorem State.setCount_modules (s : State) (t n : Nat) (v : Word) : (s.setCount t n v).modules = s.modules := rfl
@[simp] theorem State.setCount_ports (s : State) (t n : Nat) (v : Word) : (s.setCount t n v).ports = s.ports := rfl
@[simp] theorem State.setCount_packets (s : State) (t n : Nat) (v : Word) : (s.setCount t n v).packets = s.packets := rfl
@[simp] theorem State.setCount_steals (s : State) (t n : Nat) (v : Word) : (s.setCount t n v).steals = s.steals := rfl
@[simp] theorem State.setCount_gong (s : State) (t n : Nat) (v : Word) : (s.setCount t n v).gong = s.gong := rfl
@[simp] theorem State.setCount_releases (s : State) (t n : Nat) (v : Word) : (s.setCount t n v).releases = s.releases := rfl
@[simp] theorem State.setCount_reqs (s : State) (t n : Nat) (v : Word) : (s.setCount t n v).reqs = s.reqs := rfl
@[simp] theorem State.setCount_anns (s : State) (t n : Nat) (v : Word) : (s.setCount t n v).anns = s.anns := rfl
@[simp] theorem State.setCount_bellWin (s : State) (t n : Nat) (v : Word) : (s.setCount t n v).bellWin = s.bellWin := rfl
@[simp] theorem State.setCount_bellDone (s : State) (t n : Nat) (v : Word) : (s.setCount t n v).bellDone = s.bellDone := rfl
@[simp] theorem State.setCount_links (s : State) (t n : Nat) (v : Word) : (s.setCount t n v).links = s.links := rfl
@[simp] theorem State.setCount_hostOut (s : State) (t n : Nat) (v : Word) : (s.setCount t n v).hostOut = s.hostOut := rfl
@[simp] theorem State.setCount_replies (s : State) (t n : Nat) (v : Word) : (s.setCount t n v).replies = s.replies := rfl
@[simp] theorem State.setCount_schedule (s : State) (t n : Nat) (v : Word) : (s.setCount t n v).schedule = s.schedule := rfl
@[simp] theorem State.setCount_nextId (s : State) (t n : Nat) (v : Word) : (s.setCount t n v).nextId = s.nextId := rfl
@[simp] theorem State.setCount_time (s : State) (t n : Nat) (v : Word) : (s.setCount t n v).time = s.time := rfl
@[simp] theorem State.setCount_free (s : State) (t n : Nat) (v : Word) : (s.setCount t n v).free = s.free := rfl
@[simp] theorem State.bumpCore_thr (s : State) (t c n k : Nat) : (s.bumpCore t c n k).thr = s.thr := rfl
@[simp] theorem State.bumpCore_others (s : State) (t c n k : Nat) : (s.bumpCore t c n k).others = s.others := rfl
@[simp] theorem State.bumpCore_mem (s : State) (t c n k : Nat) : (s.bumpCore t c n k).mem = s.mem := rfl
@[simp] theorem State.bumpCore_tags (s : State) (t c n k : Nat) : (s.bumpCore t c n k).tags = s.tags := rfl
@[simp] theorem State.bumpCore_full (s : State) (t c n k : Nat) : (s.bumpCore t c n k).full = s.full := rfl
@[simp] theorem State.bumpCore_psn (s : State) (t c n k : Nat) : (s.bumpCore t c n k).psn = s.psn := rfl
@[simp] theorem State.bumpCore_psnBits (s : State) (t c n k : Nat) : (s.bumpCore t c n k).psnBits = s.psnBits := rfl
@[simp] theorem State.bumpCore_gangs (s : State) (t c n k : Nat) : (s.bumpCore t c n k).gangs = s.gangs := rfl
@[simp] theorem State.bumpCore_zones (s : State) (t c n k : Nat) : (s.bumpCore t c n k).zones = s.zones := rfl
@[simp] theorem State.bumpCore_modules (s : State) (t c n k : Nat) : (s.bumpCore t c n k).modules = s.modules := rfl
@[simp] theorem State.bumpCore_ports (s : State) (t c n k : Nat) : (s.bumpCore t c n k).ports = s.ports := rfl
@[simp] theorem State.bumpCore_packets (s : State) (t c n k : Nat) : (s.bumpCore t c n k).packets = s.packets := rfl
@[simp] theorem State.bumpCore_steals (s : State) (t c n k : Nat) : (s.bumpCore t c n k).steals = s.steals := rfl
@[simp] theorem State.bumpCore_gong (s : State) (t c n k : Nat) : (s.bumpCore t c n k).gong = s.gong := rfl
@[simp] theorem State.bumpCore_releases (s : State) (t c n k : Nat) : (s.bumpCore t c n k).releases = s.releases := rfl
@[simp] theorem State.bumpCore_reqs (s : State) (t c n k : Nat) : (s.bumpCore t c n k).reqs = s.reqs := rfl
@[simp] theorem State.bumpCore_anns (s : State) (t c n k : Nat) : (s.bumpCore t c n k).anns = s.anns := rfl
@[simp] theorem State.bumpCore_bellWin (s : State) (t c n k : Nat) : (s.bumpCore t c n k).bellWin = s.bellWin := rfl
@[simp] theorem State.bumpCore_bellDone (s : State) (t c n k : Nat) : (s.bumpCore t c n k).bellDone = s.bellDone := rfl
@[simp] theorem State.bumpCore_links (s : State) (t c n k : Nat) : (s.bumpCore t c n k).links = s.links := rfl
@[simp] theorem State.bumpCore_hostOut (s : State) (t c n k : Nat) : (s.bumpCore t c n k).hostOut = s.hostOut := rfl
@[simp] theorem State.bumpCore_replies (s : State) (t c n k : Nat) : (s.bumpCore t c n k).replies = s.replies := rfl
@[simp] theorem State.bumpCore_schedule (s : State) (t c n k : Nat) : (s.bumpCore t c n k).schedule = s.schedule := rfl
@[simp] theorem State.bumpCore_nextId (s : State) (t c n k : Nat) : (s.bumpCore t c n k).nextId = s.nextId := rfl
@[simp] theorem State.bumpCore_time (s : State) (t c n k : Nat) : (s.bumpCore t c n k).time = s.time := rfl
@[simp] theorem State.bumpCore_free (s : State) (t c n k : Nat) : (s.bumpCore t c n k).free = s.free := rfl
@[simp] theorem State.modGang_thr (s : State) (a l : Nat) (f : Gang → Gang) : (s.modGang a l f).thr = s.thr := rfl
@[simp] theorem State.modGang_others (s : State) (a l : Nat) (f : Gang → Gang) : (s.modGang a l f).others = s.others := rfl
@[simp] theorem State.modGang_mem (s : State) (a l : Nat) (f : Gang → Gang) : (s.modGang a l f).mem = s.mem := rfl
@[simp] theorem State.modGang_tags (s : State) (a l : Nat) (f : Gang → Gang) : (s.modGang a l f).tags = s.tags := rfl
@[simp] theorem State.modGang_full (s : State) (a l : Nat) (f : Gang → Gang) : (s.modGang a l f).full = s.full := rfl
@[simp] theorem State.modGang_psn (s : State) (a l : Nat) (f : Gang → Gang) : (s.modGang a l f).psn = s.psn := rfl
@[simp] theorem State.modGang_psnBits (s : State) (a l : Nat) (f : Gang → Gang) : (s.modGang a l f).psnBits = s.psnBits := rfl
@[simp] theorem State.modGang_tiles (s : State) (a l : Nat) (f : Gang → Gang) : (s.modGang a l f).tiles = s.tiles := rfl
@[simp] theorem State.modGang_zones (s : State) (a l : Nat) (f : Gang → Gang) : (s.modGang a l f).zones = s.zones := rfl
@[simp] theorem State.modGang_modules (s : State) (a l : Nat) (f : Gang → Gang) : (s.modGang a l f).modules = s.modules := rfl
@[simp] theorem State.modGang_ports (s : State) (a l : Nat) (f : Gang → Gang) : (s.modGang a l f).ports = s.ports := rfl
@[simp] theorem State.modGang_packets (s : State) (a l : Nat) (f : Gang → Gang) : (s.modGang a l f).packets = s.packets := rfl
@[simp] theorem State.modGang_steals (s : State) (a l : Nat) (f : Gang → Gang) : (s.modGang a l f).steals = s.steals := rfl
@[simp] theorem State.modGang_gong (s : State) (a l : Nat) (f : Gang → Gang) : (s.modGang a l f).gong = s.gong := rfl
@[simp] theorem State.modGang_releases (s : State) (a l : Nat) (f : Gang → Gang) : (s.modGang a l f).releases = s.releases := rfl
@[simp] theorem State.modGang_reqs (s : State) (a l : Nat) (f : Gang → Gang) : (s.modGang a l f).reqs = s.reqs := rfl
@[simp] theorem State.modGang_anns (s : State) (a l : Nat) (f : Gang → Gang) : (s.modGang a l f).anns = s.anns := rfl
@[simp] theorem State.modGang_bellWin (s : State) (a l : Nat) (f : Gang → Gang) : (s.modGang a l f).bellWin = s.bellWin := rfl
@[simp] theorem State.modGang_bellDone (s : State) (a l : Nat) (f : Gang → Gang) : (s.modGang a l f).bellDone = s.bellDone := rfl
@[simp] theorem State.modGang_links (s : State) (a l : Nat) (f : Gang → Gang) : (s.modGang a l f).links = s.links := rfl
@[simp] theorem State.modGang_hostOut (s : State) (a l : Nat) (f : Gang → Gang) : (s.modGang a l f).hostOut = s.hostOut := rfl
@[simp] theorem State.modGang_replies (s : State) (a l : Nat) (f : Gang → Gang) : (s.modGang a l f).replies = s.replies := rfl
@[simp] theorem State.modGang_schedule (s : State) (a l : Nat) (f : Gang → Gang) : (s.modGang a l f).schedule = s.schedule := rfl
@[simp] theorem State.modGang_nextId (s : State) (a l : Nat) (f : Gang → Gang) : (s.modGang a l f).nextId = s.nextId := rfl
@[simp] theorem State.modGang_time (s : State) (a l : Nat) (f : Gang → Gang) : (s.modGang a l f).time = s.time := rfl
@[simp] theorem State.modGang_free (s : State) (a l : Nat) (f : Gang → Gang) : (s.modGang a l f).free = s.free := rfl
@[simp] theorem State.modZone_thr (s : State) (z : Nat) (f : Zone → Zone) : (s.modZone z f).thr = s.thr := rfl
@[simp] theorem State.modZone_others (s : State) (z : Nat) (f : Zone → Zone) : (s.modZone z f).others = s.others := rfl
@[simp] theorem State.modZone_mem (s : State) (z : Nat) (f : Zone → Zone) : (s.modZone z f).mem = s.mem := rfl
@[simp] theorem State.modZone_tags (s : State) (z : Nat) (f : Zone → Zone) : (s.modZone z f).tags = s.tags := rfl
@[simp] theorem State.modZone_full (s : State) (z : Nat) (f : Zone → Zone) : (s.modZone z f).full = s.full := rfl
@[simp] theorem State.modZone_psn (s : State) (z : Nat) (f : Zone → Zone) : (s.modZone z f).psn = s.psn := rfl
@[simp] theorem State.modZone_psnBits (s : State) (z : Nat) (f : Zone → Zone) : (s.modZone z f).psnBits = s.psnBits := rfl
@[simp] theorem State.modZone_tiles (s : State) (z : Nat) (f : Zone → Zone) : (s.modZone z f).tiles = s.tiles := rfl
@[simp] theorem State.modZone_gangs (s : State) (z : Nat) (f : Zone → Zone) : (s.modZone z f).gangs = s.gangs := rfl
@[simp] theorem State.modZone_modules (s : State) (z : Nat) (f : Zone → Zone) : (s.modZone z f).modules = s.modules := rfl
@[simp] theorem State.modZone_ports (s : State) (z : Nat) (f : Zone → Zone) : (s.modZone z f).ports = s.ports := rfl
@[simp] theorem State.modZone_packets (s : State) (z : Nat) (f : Zone → Zone) : (s.modZone z f).packets = s.packets := rfl
@[simp] theorem State.modZone_steals (s : State) (z : Nat) (f : Zone → Zone) : (s.modZone z f).steals = s.steals := rfl
@[simp] theorem State.modZone_gong (s : State) (z : Nat) (f : Zone → Zone) : (s.modZone z f).gong = s.gong := rfl
@[simp] theorem State.modZone_releases (s : State) (z : Nat) (f : Zone → Zone) : (s.modZone z f).releases = s.releases := rfl
@[simp] theorem State.modZone_reqs (s : State) (z : Nat) (f : Zone → Zone) : (s.modZone z f).reqs = s.reqs := rfl
@[simp] theorem State.modZone_anns (s : State) (z : Nat) (f : Zone → Zone) : (s.modZone z f).anns = s.anns := rfl
@[simp] theorem State.modZone_bellWin (s : State) (z : Nat) (f : Zone → Zone) : (s.modZone z f).bellWin = s.bellWin := rfl
@[simp] theorem State.modZone_bellDone (s : State) (z : Nat) (f : Zone → Zone) : (s.modZone z f).bellDone = s.bellDone := rfl
@[simp] theorem State.modZone_links (s : State) (z : Nat) (f : Zone → Zone) : (s.modZone z f).links = s.links := rfl
@[simp] theorem State.modZone_hostOut (s : State) (z : Nat) (f : Zone → Zone) : (s.modZone z f).hostOut = s.hostOut := rfl
@[simp] theorem State.modZone_replies (s : State) (z : Nat) (f : Zone → Zone) : (s.modZone z f).replies = s.replies := rfl
@[simp] theorem State.modZone_schedule (s : State) (z : Nat) (f : Zone → Zone) : (s.modZone z f).schedule = s.schedule := rfl
@[simp] theorem State.modZone_nextId (s : State) (z : Nat) (f : Zone → Zone) : (s.modZone z f).nextId = s.nextId := rfl
@[simp] theorem State.modZone_time (s : State) (z : Nat) (f : Zone → Zone) : (s.modZone z f).time = s.time := rfl
@[simp] theorem State.modZone_free (s : State) (z : Nat) (f : Zone → Zone) : (s.modZone z f).free = s.free := rfl
@[simp] theorem State.modModule_thr (s : State) (m : Nat) (f : Module → Module) : (s.modModule m f).thr = s.thr := rfl
@[simp] theorem State.modModule_others (s : State) (m : Nat) (f : Module → Module) : (s.modModule m f).others = s.others := rfl
@[simp] theorem State.modModule_mem (s : State) (m : Nat) (f : Module → Module) : (s.modModule m f).mem = s.mem := rfl
@[simp] theorem State.modModule_tags (s : State) (m : Nat) (f : Module → Module) : (s.modModule m f).tags = s.tags := rfl
@[simp] theorem State.modModule_full (s : State) (m : Nat) (f : Module → Module) : (s.modModule m f).full = s.full := rfl
@[simp] theorem State.modModule_psn (s : State) (m : Nat) (f : Module → Module) : (s.modModule m f).psn = s.psn := rfl
@[simp] theorem State.modModule_psnBits (s : State) (m : Nat) (f : Module → Module) : (s.modModule m f).psnBits = s.psnBits := rfl
@[simp] theorem State.modModule_tiles (s : State) (m : Nat) (f : Module → Module) : (s.modModule m f).tiles = s.tiles := rfl
@[simp] theorem State.modModule_gangs (s : State) (m : Nat) (f : Module → Module) : (s.modModule m f).gangs = s.gangs := rfl
@[simp] theorem State.modModule_zones (s : State) (m : Nat) (f : Module → Module) : (s.modModule m f).zones = s.zones := rfl
@[simp] theorem State.modModule_ports (s : State) (m : Nat) (f : Module → Module) : (s.modModule m f).ports = s.ports := rfl
@[simp] theorem State.modModule_packets (s : State) (m : Nat) (f : Module → Module) : (s.modModule m f).packets = s.packets := rfl
@[simp] theorem State.modModule_steals (s : State) (m : Nat) (f : Module → Module) : (s.modModule m f).steals = s.steals := rfl
@[simp] theorem State.modModule_gong (s : State) (m : Nat) (f : Module → Module) : (s.modModule m f).gong = s.gong := rfl
@[simp] theorem State.modModule_releases (s : State) (m : Nat) (f : Module → Module) : (s.modModule m f).releases = s.releases := rfl
@[simp] theorem State.modModule_reqs (s : State) (m : Nat) (f : Module → Module) : (s.modModule m f).reqs = s.reqs := rfl
@[simp] theorem State.modModule_anns (s : State) (m : Nat) (f : Module → Module) : (s.modModule m f).anns = s.anns := rfl
@[simp] theorem State.modModule_bellWin (s : State) (m : Nat) (f : Module → Module) : (s.modModule m f).bellWin = s.bellWin := rfl
@[simp] theorem State.modModule_bellDone (s : State) (m : Nat) (f : Module → Module) : (s.modModule m f).bellDone = s.bellDone := rfl
@[simp] theorem State.modModule_links (s : State) (m : Nat) (f : Module → Module) : (s.modModule m f).links = s.links := rfl
@[simp] theorem State.modModule_hostOut (s : State) (m : Nat) (f : Module → Module) : (s.modModule m f).hostOut = s.hostOut := rfl
@[simp] theorem State.modModule_replies (s : State) (m : Nat) (f : Module → Module) : (s.modModule m f).replies = s.replies := rfl
@[simp] theorem State.modModule_schedule (s : State) (m : Nat) (f : Module → Module) : (s.modModule m f).schedule = s.schedule := rfl
@[simp] theorem State.modModule_nextId (s : State) (m : Nat) (f : Module → Module) : (s.modModule m f).nextId = s.nextId := rfl
@[simp] theorem State.modModule_time (s : State) (m : Nat) (f : Module → Module) : (s.modModule m f).time = s.time := rfl
@[simp] theorem State.modModule_free (s : State) (m : Nat) (f : Module → Module) : (s.modModule m f).free = s.free := rfl
@[simp] theorem State.modPort_thr (s : State) (n : Nat) (f : Port → Port) : (s.modPort n f).thr = s.thr := rfl
@[simp] theorem State.modPort_others (s : State) (n : Nat) (f : Port → Port) : (s.modPort n f).others = s.others := rfl
@[simp] theorem State.modPort_mem (s : State) (n : Nat) (f : Port → Port) : (s.modPort n f).mem = s.mem := rfl
@[simp] theorem State.modPort_tags (s : State) (n : Nat) (f : Port → Port) : (s.modPort n f).tags = s.tags := rfl
@[simp] theorem State.modPort_full (s : State) (n : Nat) (f : Port → Port) : (s.modPort n f).full = s.full := rfl
@[simp] theorem State.modPort_psn (s : State) (n : Nat) (f : Port → Port) : (s.modPort n f).psn = s.psn := rfl
@[simp] theorem State.modPort_psnBits (s : State) (n : Nat) (f : Port → Port) : (s.modPort n f).psnBits = s.psnBits := rfl
@[simp] theorem State.modPort_tiles (s : State) (n : Nat) (f : Port → Port) : (s.modPort n f).tiles = s.tiles := rfl
@[simp] theorem State.modPort_gangs (s : State) (n : Nat) (f : Port → Port) : (s.modPort n f).gangs = s.gangs := rfl
@[simp] theorem State.modPort_zones (s : State) (n : Nat) (f : Port → Port) : (s.modPort n f).zones = s.zones := rfl
@[simp] theorem State.modPort_modules (s : State) (n : Nat) (f : Port → Port) : (s.modPort n f).modules = s.modules := rfl
@[simp] theorem State.modPort_packets (s : State) (n : Nat) (f : Port → Port) : (s.modPort n f).packets = s.packets := rfl
@[simp] theorem State.modPort_steals (s : State) (n : Nat) (f : Port → Port) : (s.modPort n f).steals = s.steals := rfl
@[simp] theorem State.modPort_gong (s : State) (n : Nat) (f : Port → Port) : (s.modPort n f).gong = s.gong := rfl
@[simp] theorem State.modPort_releases (s : State) (n : Nat) (f : Port → Port) : (s.modPort n f).releases = s.releases := rfl
@[simp] theorem State.modPort_reqs (s : State) (n : Nat) (f : Port → Port) : (s.modPort n f).reqs = s.reqs := rfl
@[simp] theorem State.modPort_anns (s : State) (n : Nat) (f : Port → Port) : (s.modPort n f).anns = s.anns := rfl
@[simp] theorem State.modPort_bellWin (s : State) (n : Nat) (f : Port → Port) : (s.modPort n f).bellWin = s.bellWin := rfl
@[simp] theorem State.modPort_bellDone (s : State) (n : Nat) (f : Port → Port) : (s.modPort n f).bellDone = s.bellDone := rfl
@[simp] theorem State.modPort_links (s : State) (n : Nat) (f : Port → Port) : (s.modPort n f).links = s.links := rfl
@[simp] theorem State.modPort_hostOut (s : State) (n : Nat) (f : Port → Port) : (s.modPort n f).hostOut = s.hostOut := rfl
@[simp] theorem State.modPort_replies (s : State) (n : Nat) (f : Port → Port) : (s.modPort n f).replies = s.replies := rfl
@[simp] theorem State.modPort_schedule (s : State) (n : Nat) (f : Port → Port) : (s.modPort n f).schedule = s.schedule := rfl
@[simp] theorem State.modPort_nextId (s : State) (n : Nat) (f : Port → Port) : (s.modPort n f).nextId = s.nextId := rfl
@[simp] theorem State.modPort_time (s : State) (n : Nat) (f : Port → Port) : (s.modPort n f).time = s.time := rfl
@[simp] theorem State.modPort_free (s : State) (n : Nat) (f : Port → Port) : (s.modPort n f).free = s.free := rfl
@[simp] theorem State.poke_thr (s : State) (pa : Nat) (bs : List Byte) : (s.poke pa bs).thr = s.thr := rfl
@[simp] theorem State.poke_others (s : State) (pa : Nat) (bs : List Byte) : (s.poke pa bs).others = s.others := rfl
@[simp] theorem State.poke_full (s : State) (pa : Nat) (bs : List Byte) : (s.poke pa bs).full = s.full := rfl
@[simp] theorem State.poke_psnBits (s : State) (pa : Nat) (bs : List Byte) : (s.poke pa bs).psnBits = s.psnBits := rfl
@[simp] theorem State.poke_tiles (s : State) (pa : Nat) (bs : List Byte) : (s.poke pa bs).tiles = s.tiles := rfl
@[simp] theorem State.poke_gangs (s : State) (pa : Nat) (bs : List Byte) : (s.poke pa bs).gangs = s.gangs := rfl
@[simp] theorem State.poke_zones (s : State) (pa : Nat) (bs : List Byte) : (s.poke pa bs).zones = s.zones := rfl
@[simp] theorem State.poke_modules (s : State) (pa : Nat) (bs : List Byte) : (s.poke pa bs).modules = s.modules := rfl
@[simp] theorem State.poke_ports (s : State) (pa : Nat) (bs : List Byte) : (s.poke pa bs).ports = s.ports := rfl
@[simp] theorem State.poke_packets (s : State) (pa : Nat) (bs : List Byte) : (s.poke pa bs).packets = s.packets := rfl
@[simp] theorem State.poke_steals (s : State) (pa : Nat) (bs : List Byte) : (s.poke pa bs).steals = s.steals := rfl
@[simp] theorem State.poke_gong (s : State) (pa : Nat) (bs : List Byte) : (s.poke pa bs).gong = s.gong := rfl
@[simp] theorem State.poke_releases (s : State) (pa : Nat) (bs : List Byte) : (s.poke pa bs).releases = s.releases := rfl
@[simp] theorem State.poke_reqs (s : State) (pa : Nat) (bs : List Byte) : (s.poke pa bs).reqs = s.reqs := rfl
@[simp] theorem State.poke_anns (s : State) (pa : Nat) (bs : List Byte) : (s.poke pa bs).anns = s.anns := rfl
@[simp] theorem State.poke_bellWin (s : State) (pa : Nat) (bs : List Byte) : (s.poke pa bs).bellWin = s.bellWin := rfl
@[simp] theorem State.poke_bellDone (s : State) (pa : Nat) (bs : List Byte) : (s.poke pa bs).bellDone = s.bellDone := rfl
@[simp] theorem State.poke_links (s : State) (pa : Nat) (bs : List Byte) : (s.poke pa bs).links = s.links := rfl
@[simp] theorem State.poke_hostOut (s : State) (pa : Nat) (bs : List Byte) : (s.poke pa bs).hostOut = s.hostOut := rfl
@[simp] theorem State.poke_replies (s : State) (pa : Nat) (bs : List Byte) : (s.poke pa bs).replies = s.replies := rfl
@[simp] theorem State.poke_schedule (s : State) (pa : Nat) (bs : List Byte) : (s.poke pa bs).schedule = s.schedule := rfl
@[simp] theorem State.poke_nextId (s : State) (pa : Nat) (bs : List Byte) : (s.poke pa bs).nextId = s.nextId := rfl
@[simp] theorem State.poke_time (s : State) (pa : Nat) (bs : List Byte) : (s.poke pa bs).time = s.time := rfl
@[simp] theorem State.poke_free (s : State) (pa : Nat) (bs : List Byte) : (s.poke pa bs).free = s.free := rfl
@[simp] theorem State.setTag_thr (s : State) (pa : Nat) (v : Bool) : (s.setTag pa v).thr = s.thr := rfl
@[simp] theorem State.setTag_others (s : State) (pa : Nat) (v : Bool) : (s.setTag pa v).others = s.others := rfl
@[simp] theorem State.setTag_mem (s : State) (pa : Nat) (v : Bool) : (s.setTag pa v).mem = s.mem := rfl
@[simp] theorem State.setTag_full (s : State) (pa : Nat) (v : Bool) : (s.setTag pa v).full = s.full := rfl
@[simp] theorem State.setTag_psn (s : State) (pa : Nat) (v : Bool) : (s.setTag pa v).psn = s.psn := rfl
@[simp] theorem State.setTag_psnBits (s : State) (pa : Nat) (v : Bool) : (s.setTag pa v).psnBits = s.psnBits := rfl
@[simp] theorem State.setTag_tiles (s : State) (pa : Nat) (v : Bool) : (s.setTag pa v).tiles = s.tiles := rfl
@[simp] theorem State.setTag_gangs (s : State) (pa : Nat) (v : Bool) : (s.setTag pa v).gangs = s.gangs := rfl
@[simp] theorem State.setTag_zones (s : State) (pa : Nat) (v : Bool) : (s.setTag pa v).zones = s.zones := rfl
@[simp] theorem State.setTag_modules (s : State) (pa : Nat) (v : Bool) : (s.setTag pa v).modules = s.modules := rfl
@[simp] theorem State.setTag_ports (s : State) (pa : Nat) (v : Bool) : (s.setTag pa v).ports = s.ports := rfl
@[simp] theorem State.setTag_packets (s : State) (pa : Nat) (v : Bool) : (s.setTag pa v).packets = s.packets := rfl
@[simp] theorem State.setTag_steals (s : State) (pa : Nat) (v : Bool) : (s.setTag pa v).steals = s.steals := rfl
@[simp] theorem State.setTag_gong (s : State) (pa : Nat) (v : Bool) : (s.setTag pa v).gong = s.gong := rfl
@[simp] theorem State.setTag_releases (s : State) (pa : Nat) (v : Bool) : (s.setTag pa v).releases = s.releases := rfl
@[simp] theorem State.setTag_reqs (s : State) (pa : Nat) (v : Bool) : (s.setTag pa v).reqs = s.reqs := rfl
@[simp] theorem State.setTag_anns (s : State) (pa : Nat) (v : Bool) : (s.setTag pa v).anns = s.anns := rfl
@[simp] theorem State.setTag_bellWin (s : State) (pa : Nat) (v : Bool) : (s.setTag pa v).bellWin = s.bellWin := rfl
@[simp] theorem State.setTag_bellDone (s : State) (pa : Nat) (v : Bool) : (s.setTag pa v).bellDone = s.bellDone := rfl
@[simp] theorem State.setTag_links (s : State) (pa : Nat) (v : Bool) : (s.setTag pa v).links = s.links := rfl
@[simp] theorem State.setTag_hostOut (s : State) (pa : Nat) (v : Bool) : (s.setTag pa v).hostOut = s.hostOut := rfl
@[simp] theorem State.setTag_replies (s : State) (pa : Nat) (v : Bool) : (s.setTag pa v).replies = s.replies := rfl
@[simp] theorem State.setTag_schedule (s : State) (pa : Nat) (v : Bool) : (s.setTag pa v).schedule = s.schedule := rfl
@[simp] theorem State.setTag_nextId (s : State) (pa : Nat) (v : Bool) : (s.setTag pa v).nextId = s.nextId := rfl
@[simp] theorem State.setTag_time (s : State) (pa : Nat) (v : Bool) : (s.setTag pa v).time = s.time := rfl
@[simp] theorem State.setTag_free (s : State) (pa : Nat) (v : Bool) : (s.setTag pa v).free = s.free := rfl
@[simp] theorem State.setFull_thr (s : State) (pa : Nat) (v : Bool) : (s.setFull pa v).thr = s.thr := rfl
@[simp] theorem State.setFull_others (s : State) (pa : Nat) (v : Bool) : (s.setFull pa v).others = s.others := rfl
@[simp] theorem State.setFull_mem (s : State) (pa : Nat) (v : Bool) : (s.setFull pa v).mem = s.mem := rfl
@[simp] theorem State.setFull_tags (s : State) (pa : Nat) (v : Bool) : (s.setFull pa v).tags = s.tags := rfl
@[simp] theorem State.setFull_psn (s : State) (pa : Nat) (v : Bool) : (s.setFull pa v).psn = s.psn := rfl
@[simp] theorem State.setFull_psnBits (s : State) (pa : Nat) (v : Bool) : (s.setFull pa v).psnBits = s.psnBits := rfl
@[simp] theorem State.setFull_tiles (s : State) (pa : Nat) (v : Bool) : (s.setFull pa v).tiles = s.tiles := rfl
@[simp] theorem State.setFull_gangs (s : State) (pa : Nat) (v : Bool) : (s.setFull pa v).gangs = s.gangs := rfl
@[simp] theorem State.setFull_zones (s : State) (pa : Nat) (v : Bool) : (s.setFull pa v).zones = s.zones := rfl
@[simp] theorem State.setFull_modules (s : State) (pa : Nat) (v : Bool) : (s.setFull pa v).modules = s.modules := rfl
@[simp] theorem State.setFull_ports (s : State) (pa : Nat) (v : Bool) : (s.setFull pa v).ports = s.ports := rfl
@[simp] theorem State.setFull_packets (s : State) (pa : Nat) (v : Bool) : (s.setFull pa v).packets = s.packets := rfl
@[simp] theorem State.setFull_steals (s : State) (pa : Nat) (v : Bool) : (s.setFull pa v).steals = s.steals := rfl
@[simp] theorem State.setFull_gong (s : State) (pa : Nat) (v : Bool) : (s.setFull pa v).gong = s.gong := rfl
@[simp] theorem State.setFull_releases (s : State) (pa : Nat) (v : Bool) : (s.setFull pa v).releases = s.releases := rfl
@[simp] theorem State.setFull_reqs (s : State) (pa : Nat) (v : Bool) : (s.setFull pa v).reqs = s.reqs := rfl
@[simp] theorem State.setFull_anns (s : State) (pa : Nat) (v : Bool) : (s.setFull pa v).anns = s.anns := rfl
@[simp] theorem State.setFull_bellWin (s : State) (pa : Nat) (v : Bool) : (s.setFull pa v).bellWin = s.bellWin := rfl
@[simp] theorem State.setFull_bellDone (s : State) (pa : Nat) (v : Bool) : (s.setFull pa v).bellDone = s.bellDone := rfl
@[simp] theorem State.setFull_links (s : State) (pa : Nat) (v : Bool) : (s.setFull pa v).links = s.links := rfl
@[simp] theorem State.setFull_hostOut (s : State) (pa : Nat) (v : Bool) : (s.setFull pa v).hostOut = s.hostOut := rfl
@[simp] theorem State.setFull_replies (s : State) (pa : Nat) (v : Bool) : (s.setFull pa v).replies = s.replies := rfl
@[simp] theorem State.setFull_schedule (s : State) (pa : Nat) (v : Bool) : (s.setFull pa v).schedule = s.schedule := rfl
@[simp] theorem State.setFull_nextId (s : State) (pa : Nat) (v : Bool) : (s.setFull pa v).nextId = s.nextId := rfl
@[simp] theorem State.setFull_time (s : State) (pa : Nat) (v : Bool) : (s.setFull pa v).time = s.time := rfl
@[simp] theorem State.setFull_free (s : State) (pa : Nat) (v : Bool) : (s.setFull pa v).free = s.free := rfl
@[simp] theorem State.setPoison_thr (s : State) (pa : Nat) (v : Bool) : (s.setPoison pa v).thr = s.thr := rfl
@[simp] theorem State.setPoison_others (s : State) (pa : Nat) (v : Bool) : (s.setPoison pa v).others = s.others := rfl
@[simp] theorem State.setPoison_mem (s : State) (pa : Nat) (v : Bool) : (s.setPoison pa v).mem = s.mem := rfl
@[simp] theorem State.setPoison_tags (s : State) (pa : Nat) (v : Bool) : (s.setPoison pa v).tags = s.tags := rfl
@[simp] theorem State.setPoison_full (s : State) (pa : Nat) (v : Bool) : (s.setPoison pa v).full = s.full := rfl
@[simp] theorem State.setPoison_tiles (s : State) (pa : Nat) (v : Bool) : (s.setPoison pa v).tiles = s.tiles := rfl
@[simp] theorem State.setPoison_gangs (s : State) (pa : Nat) (v : Bool) : (s.setPoison pa v).gangs = s.gangs := rfl
@[simp] theorem State.setPoison_zones (s : State) (pa : Nat) (v : Bool) : (s.setPoison pa v).zones = s.zones := rfl
@[simp] theorem State.setPoison_modules (s : State) (pa : Nat) (v : Bool) : (s.setPoison pa v).modules = s.modules := rfl
@[simp] theorem State.setPoison_ports (s : State) (pa : Nat) (v : Bool) : (s.setPoison pa v).ports = s.ports := rfl
@[simp] theorem State.setPoison_packets (s : State) (pa : Nat) (v : Bool) : (s.setPoison pa v).packets = s.packets := rfl
@[simp] theorem State.setPoison_steals (s : State) (pa : Nat) (v : Bool) : (s.setPoison pa v).steals = s.steals := rfl
@[simp] theorem State.setPoison_gong (s : State) (pa : Nat) (v : Bool) : (s.setPoison pa v).gong = s.gong := rfl
@[simp] theorem State.setPoison_releases (s : State) (pa : Nat) (v : Bool) : (s.setPoison pa v).releases = s.releases := rfl
@[simp] theorem State.setPoison_reqs (s : State) (pa : Nat) (v : Bool) : (s.setPoison pa v).reqs = s.reqs := rfl
@[simp] theorem State.setPoison_anns (s : State) (pa : Nat) (v : Bool) : (s.setPoison pa v).anns = s.anns := rfl
@[simp] theorem State.setPoison_bellWin (s : State) (pa : Nat) (v : Bool) : (s.setPoison pa v).bellWin = s.bellWin := rfl
@[simp] theorem State.setPoison_bellDone (s : State) (pa : Nat) (v : Bool) : (s.setPoison pa v).bellDone = s.bellDone := rfl
@[simp] theorem State.setPoison_links (s : State) (pa : Nat) (v : Bool) : (s.setPoison pa v).links = s.links := rfl
@[simp] theorem State.setPoison_hostOut (s : State) (pa : Nat) (v : Bool) : (s.setPoison pa v).hostOut = s.hostOut := rfl
@[simp] theorem State.setPoison_replies (s : State) (pa : Nat) (v : Bool) : (s.setPoison pa v).replies = s.replies := rfl
@[simp] theorem State.setPoison_schedule (s : State) (pa : Nat) (v : Bool) : (s.setPoison pa v).schedule = s.schedule := rfl
@[simp] theorem State.setPoison_nextId (s : State) (pa : Nat) (v : Bool) : (s.setPoison pa v).nextId = s.nextId := rfl
@[simp] theorem State.setPoison_time (s : State) (pa : Nat) (v : Bool) : (s.setPoison pa v).time = s.time := rfl
@[simp] theorem State.setPoison_free (s : State) (pa : Nat) (v : Bool) : (s.setPoison pa v).free = s.free := rfl
@[simp] theorem State.clearRange_thr (s : State) (pa n : Nat) : (s.clearRange pa n).thr = s.thr := rfl
@[simp] theorem State.clearRange_others (s : State) (pa n : Nat) : (s.clearRange pa n).others = s.others := rfl
@[simp] theorem State.clearRange_tiles (s : State) (pa n : Nat) : (s.clearRange pa n).tiles = s.tiles := rfl
@[simp] theorem State.clearRange_gangs (s : State) (pa n : Nat) : (s.clearRange pa n).gangs = s.gangs := rfl
@[simp] theorem State.clearRange_zones (s : State) (pa n : Nat) : (s.clearRange pa n).zones = s.zones := rfl
@[simp] theorem State.clearRange_modules (s : State) (pa n : Nat) : (s.clearRange pa n).modules = s.modules := rfl
@[simp] theorem State.clearRange_ports (s : State) (pa n : Nat) : (s.clearRange pa n).ports = s.ports := rfl
@[simp] theorem State.clearRange_packets (s : State) (pa n : Nat) : (s.clearRange pa n).packets = s.packets := rfl
@[simp] theorem State.clearRange_steals (s : State) (pa n : Nat) : (s.clearRange pa n).steals = s.steals := rfl
@[simp] theorem State.clearRange_gong (s : State) (pa n : Nat) : (s.clearRange pa n).gong = s.gong := rfl
@[simp] theorem State.clearRange_releases (s : State) (pa n : Nat) : (s.clearRange pa n).releases = s.releases := rfl
@[simp] theorem State.clearRange_reqs (s : State) (pa n : Nat) : (s.clearRange pa n).reqs = s.reqs := rfl
@[simp] theorem State.clearRange_anns (s : State) (pa n : Nat) : (s.clearRange pa n).anns = s.anns := rfl
@[simp] theorem State.clearRange_bellWin (s : State) (pa n : Nat) : (s.clearRange pa n).bellWin = s.bellWin := rfl
@[simp] theorem State.clearRange_bellDone (s : State) (pa n : Nat) : (s.clearRange pa n).bellDone = s.bellDone := rfl
@[simp] theorem State.clearRange_links (s : State) (pa n : Nat) : (s.clearRange pa n).links = s.links := rfl
@[simp] theorem State.clearRange_hostOut (s : State) (pa n : Nat) : (s.clearRange pa n).hostOut = s.hostOut := rfl
@[simp] theorem State.clearRange_replies (s : State) (pa n : Nat) : (s.clearRange pa n).replies = s.replies := rfl
@[simp] theorem State.clearRange_schedule (s : State) (pa n : Nat) : (s.clearRange pa n).schedule = s.schedule := rfl
@[simp] theorem State.clearRange_nextId (s : State) (pa n : Nat) : (s.clearRange pa n).nextId = s.nextId := rfl
@[simp] theorem State.clearRange_time (s : State) (pa n : Nat) : (s.clearRange pa n).time = s.time := rfl
@[simp] theorem State.clearRange_free (s : State) (pa n : Nat) : (s.clearRange pa n).free = s.free := rfl
@[simp] theorem State.restore_thr (s : State) (b : Block) : (s.restore b).thr = s.thr := rfl
@[simp] theorem State.restore_others (s : State) (b : Block) : (s.restore b).others = s.others := rfl
@[simp] theorem State.restore_tiles (s : State) (b : Block) : (s.restore b).tiles = s.tiles := rfl
@[simp] theorem State.restore_gangs (s : State) (b : Block) : (s.restore b).gangs = s.gangs := rfl
@[simp] theorem State.restore_zones (s : State) (b : Block) : (s.restore b).zones = s.zones := rfl
@[simp] theorem State.restore_modules (s : State) (b : Block) : (s.restore b).modules = s.modules := rfl
@[simp] theorem State.restore_ports (s : State) (b : Block) : (s.restore b).ports = s.ports := rfl
@[simp] theorem State.restore_packets (s : State) (b : Block) : (s.restore b).packets = s.packets := rfl
@[simp] theorem State.restore_steals (s : State) (b : Block) : (s.restore b).steals = s.steals := rfl
@[simp] theorem State.restore_gong (s : State) (b : Block) : (s.restore b).gong = s.gong := rfl
@[simp] theorem State.restore_releases (s : State) (b : Block) : (s.restore b).releases = s.releases := rfl
@[simp] theorem State.restore_reqs (s : State) (b : Block) : (s.restore b).reqs = s.reqs := rfl
@[simp] theorem State.restore_anns (s : State) (b : Block) : (s.restore b).anns = s.anns := rfl
@[simp] theorem State.restore_bellWin (s : State) (b : Block) : (s.restore b).bellWin = s.bellWin := rfl
@[simp] theorem State.restore_bellDone (s : State) (b : Block) : (s.restore b).bellDone = s.bellDone := rfl
@[simp] theorem State.restore_links (s : State) (b : Block) : (s.restore b).links = s.links := rfl
@[simp] theorem State.restore_hostOut (s : State) (b : Block) : (s.restore b).hostOut = s.hostOut := rfl
@[simp] theorem State.restore_replies (s : State) (b : Block) : (s.restore b).replies = s.replies := rfl
@[simp] theorem State.restore_schedule (s : State) (b : Block) : (s.restore b).schedule = s.schedule := rfl
@[simp] theorem State.restore_nextId (s : State) (b : Block) : (s.restore b).nextId = s.nextId := rfl
@[simp] theorem State.restore_time (s : State) (b : Block) : (s.restore b).time = s.time := rfl
@[simp] theorem State.restore_free (s : State) (b : Block) : (s.restore b).free = s.free := rfl
@[simp] theorem State.dropPacket_thr (s : State) (pk : Nat) : (s.dropPacket pk).thr = s.thr := rfl
@[simp] theorem State.dropPacket_others (s : State) (pk : Nat) : (s.dropPacket pk).others = s.others := rfl
@[simp] theorem State.dropPacket_mem (s : State) (pk : Nat) : (s.dropPacket pk).mem = s.mem := rfl
@[simp] theorem State.dropPacket_tags (s : State) (pk : Nat) : (s.dropPacket pk).tags = s.tags := rfl
@[simp] theorem State.dropPacket_full (s : State) (pk : Nat) : (s.dropPacket pk).full = s.full := rfl
@[simp] theorem State.dropPacket_psn (s : State) (pk : Nat) : (s.dropPacket pk).psn = s.psn := rfl
@[simp] theorem State.dropPacket_psnBits (s : State) (pk : Nat) : (s.dropPacket pk).psnBits = s.psnBits := rfl
@[simp] theorem State.dropPacket_tiles (s : State) (pk : Nat) : (s.dropPacket pk).tiles = s.tiles := rfl
@[simp] theorem State.dropPacket_gangs (s : State) (pk : Nat) : (s.dropPacket pk).gangs = s.gangs := rfl
@[simp] theorem State.dropPacket_zones (s : State) (pk : Nat) : (s.dropPacket pk).zones = s.zones := rfl
@[simp] theorem State.dropPacket_modules (s : State) (pk : Nat) : (s.dropPacket pk).modules = s.modules := rfl
@[simp] theorem State.dropPacket_ports (s : State) (pk : Nat) : (s.dropPacket pk).ports = s.ports := rfl
@[simp] theorem State.dropPacket_steals (s : State) (pk : Nat) : (s.dropPacket pk).steals = s.steals := rfl
@[simp] theorem State.dropPacket_gong (s : State) (pk : Nat) : (s.dropPacket pk).gong = s.gong := rfl
@[simp] theorem State.dropPacket_releases (s : State) (pk : Nat) : (s.dropPacket pk).releases = s.releases := rfl
@[simp] theorem State.dropPacket_reqs (s : State) (pk : Nat) : (s.dropPacket pk).reqs = s.reqs := rfl
@[simp] theorem State.dropPacket_bellWin (s : State) (pk : Nat) : (s.dropPacket pk).bellWin = s.bellWin := rfl
@[simp] theorem State.dropPacket_bellDone (s : State) (pk : Nat) : (s.dropPacket pk).bellDone = s.bellDone := rfl
@[simp] theorem State.dropPacket_links (s : State) (pk : Nat) : (s.dropPacket pk).links = s.links := rfl
@[simp] theorem State.dropPacket_hostOut (s : State) (pk : Nat) : (s.dropPacket pk).hostOut = s.hostOut := rfl
@[simp] theorem State.dropPacket_replies (s : State) (pk : Nat) : (s.dropPacket pk).replies = s.replies := rfl
@[simp] theorem State.dropPacket_schedule (s : State) (pk : Nat) : (s.dropPacket pk).schedule = s.schedule := rfl
@[simp] theorem State.dropPacket_nextId (s : State) (pk : Nat) : (s.dropPacket pk).nextId = s.nextId := rfl
@[simp] theorem State.dropPacket_time (s : State) (pk : Nat) : (s.dropPacket pk).time = s.time := rfl
@[simp] theorem State.dropPacket_free (s : State) (pk : Nat) : (s.dropPacket pk).free = s.free := rfl
@[simp] theorem State.modPacket_thr (s : State) (pk : Nat) (f : Packet → Packet) : (s.modPacket pk f).thr = s.thr := rfl
@[simp] theorem State.modPacket_others (s : State) (pk : Nat) (f : Packet → Packet) : (s.modPacket pk f).others = s.others := rfl
@[simp] theorem State.modPacket_mem (s : State) (pk : Nat) (f : Packet → Packet) : (s.modPacket pk f).mem = s.mem := rfl
@[simp] theorem State.modPacket_tags (s : State) (pk : Nat) (f : Packet → Packet) : (s.modPacket pk f).tags = s.tags := rfl
@[simp] theorem State.modPacket_full (s : State) (pk : Nat) (f : Packet → Packet) : (s.modPacket pk f).full = s.full := rfl
@[simp] theorem State.modPacket_psn (s : State) (pk : Nat) (f : Packet → Packet) : (s.modPacket pk f).psn = s.psn := rfl
@[simp] theorem State.modPacket_psnBits (s : State) (pk : Nat) (f : Packet → Packet) : (s.modPacket pk f).psnBits = s.psnBits := rfl
@[simp] theorem State.modPacket_tiles (s : State) (pk : Nat) (f : Packet → Packet) : (s.modPacket pk f).tiles = s.tiles := rfl
@[simp] theorem State.modPacket_gangs (s : State) (pk : Nat) (f : Packet → Packet) : (s.modPacket pk f).gangs = s.gangs := rfl
@[simp] theorem State.modPacket_zones (s : State) (pk : Nat) (f : Packet → Packet) : (s.modPacket pk f).zones = s.zones := rfl
@[simp] theorem State.modPacket_modules (s : State) (pk : Nat) (f : Packet → Packet) : (s.modPacket pk f).modules = s.modules := rfl
@[simp] theorem State.modPacket_ports (s : State) (pk : Nat) (f : Packet → Packet) : (s.modPacket pk f).ports = s.ports := rfl
@[simp] theorem State.modPacket_steals (s : State) (pk : Nat) (f : Packet → Packet) : (s.modPacket pk f).steals = s.steals := rfl
@[simp] theorem State.modPacket_gong (s : State) (pk : Nat) (f : Packet → Packet) : (s.modPacket pk f).gong = s.gong := rfl
@[simp] theorem State.modPacket_releases (s : State) (pk : Nat) (f : Packet → Packet) : (s.modPacket pk f).releases = s.releases := rfl
@[simp] theorem State.modPacket_reqs (s : State) (pk : Nat) (f : Packet → Packet) : (s.modPacket pk f).reqs = s.reqs := rfl
@[simp] theorem State.modPacket_anns (s : State) (pk : Nat) (f : Packet → Packet) : (s.modPacket pk f).anns = s.anns := rfl
@[simp] theorem State.modPacket_bellWin (s : State) (pk : Nat) (f : Packet → Packet) : (s.modPacket pk f).bellWin = s.bellWin := rfl
@[simp] theorem State.modPacket_bellDone (s : State) (pk : Nat) (f : Packet → Packet) : (s.modPacket pk f).bellDone = s.bellDone := rfl
@[simp] theorem State.modPacket_links (s : State) (pk : Nat) (f : Packet → Packet) : (s.modPacket pk f).links = s.links := rfl
@[simp] theorem State.modPacket_hostOut (s : State) (pk : Nat) (f : Packet → Packet) : (s.modPacket pk f).hostOut = s.hostOut := rfl
@[simp] theorem State.modPacket_replies (s : State) (pk : Nat) (f : Packet → Packet) : (s.modPacket pk f).replies = s.replies := rfl
@[simp] theorem State.modPacket_schedule (s : State) (pk : Nat) (f : Packet → Packet) : (s.modPacket pk f).schedule = s.schedule := rfl
@[simp] theorem State.modPacket_nextId (s : State) (pk : Nat) (f : Packet → Packet) : (s.modPacket pk f).nextId = s.nextId := rfl
@[simp] theorem State.modPacket_time (s : State) (pk : Nat) (f : Packet → Packet) : (s.modPacket pk f).time = s.time := rfl
@[simp] theorem State.modPacket_free (s : State) (pk : Nat) (f : Packet → Packet) : (s.modPacket pk f).free = s.free := rfl
@[simp] theorem State.withThr_thr (s : State) (f : Thread → Thread) : (s.withThr f).thr = f s.thr := rfl
@[simp] theorem State.parkOn_thr (s : State) (c : Park) : (s.parkOn c).thr = { s.thr with park := some c } := rfl
@[simp] theorem State.fresh_fst (s : State) : s.fresh.1 = s.nextId := rfl
@[simp] theorem State.fresh_thr (s : State) : s.fresh.2.thr = s.thr := rfl
@[simp] theorem State.fresh_others (s : State) : s.fresh.2.others = s.others := rfl
@[simp] theorem State.fresh_mem (s : State) : s.fresh.2.mem = s.mem := rfl
@[simp] theorem State.fresh_tags (s : State) : s.fresh.2.tags = s.tags := rfl
@[simp] theorem State.fresh_full (s : State) : s.fresh.2.full = s.full := rfl
@[simp] theorem State.fresh_psn (s : State) : s.fresh.2.psn = s.psn := rfl
@[simp] theorem State.fresh_psnBits (s : State) : s.fresh.2.psnBits = s.psnBits := rfl
@[simp] theorem State.fresh_tiles (s : State) : s.fresh.2.tiles = s.tiles := rfl
@[simp] theorem State.fresh_gangs (s : State) : s.fresh.2.gangs = s.gangs := rfl
@[simp] theorem State.fresh_zones (s : State) : s.fresh.2.zones = s.zones := rfl
@[simp] theorem State.fresh_modules (s : State) : s.fresh.2.modules = s.modules := rfl
@[simp] theorem State.fresh_ports (s : State) : s.fresh.2.ports = s.ports := rfl
@[simp] theorem State.fresh_packets (s : State) : s.fresh.2.packets = s.packets := rfl
@[simp] theorem State.fresh_steals (s : State) : s.fresh.2.steals = s.steals := rfl
@[simp] theorem State.fresh_gong (s : State) : s.fresh.2.gong = s.gong := rfl
@[simp] theorem State.fresh_releases (s : State) : s.fresh.2.releases = s.releases := rfl
@[simp] theorem State.fresh_reqs (s : State) : s.fresh.2.reqs = s.reqs := rfl
@[simp] theorem State.fresh_anns (s : State) : s.fresh.2.anns = s.anns := rfl
@[simp] theorem State.fresh_bellWin (s : State) : s.fresh.2.bellWin = s.bellWin := rfl
@[simp] theorem State.fresh_bellDone (s : State) : s.fresh.2.bellDone = s.bellDone := rfl
@[simp] theorem State.fresh_links (s : State) : s.fresh.2.links = s.links := rfl
@[simp] theorem State.fresh_hostOut (s : State) : s.fresh.2.hostOut = s.hostOut := rfl
@[simp] theorem State.fresh_replies (s : State) : s.fresh.2.replies = s.replies := rfl
@[simp] theorem State.fresh_schedule (s : State) : s.fresh.2.schedule = s.schedule := rfl
@[simp] theorem State.fresh_time (s : State) : s.fresh.2.time = s.time := rfl
@[simp] theorem State.fresh_free (s : State) : s.fresh.2.free = s.free := rfl
@[simp] theorem State.send_thr (s : State) (t : Nat) (own dst : Ltn) (a l : Nat) (b : Payload) : (s.send t own dst a l b).thr = s.thr := rfl
@[simp] theorem State.send_others (s : State) (t : Nat) (own dst : Ltn) (a l : Nat) (b : Payload) : (s.send t own dst a l b).others = s.others := rfl
@[simp] theorem State.send_mem (s : State) (t : Nat) (own dst : Ltn) (a l : Nat) (b : Payload) : (s.send t own dst a l b).mem = s.mem := rfl
@[simp] theorem State.send_tags (s : State) (t : Nat) (own dst : Ltn) (a l : Nat) (b : Payload) : (s.send t own dst a l b).tags = s.tags := rfl
@[simp] theorem State.send_full (s : State) (t : Nat) (own dst : Ltn) (a l : Nat) (b : Payload) : (s.send t own dst a l b).full = s.full := rfl
@[simp] theorem State.send_psn (s : State) (t : Nat) (own dst : Ltn) (a l : Nat) (b : Payload) : (s.send t own dst a l b).psn = s.psn := rfl
@[simp] theorem State.send_psnBits (s : State) (t : Nat) (own dst : Ltn) (a l : Nat) (b : Payload) : (s.send t own dst a l b).psnBits = s.psnBits := rfl
@[simp] theorem State.send_tiles (s : State) (t : Nat) (own dst : Ltn) (a l : Nat) (b : Payload) : (s.send t own dst a l b).tiles = s.tiles := rfl
@[simp] theorem State.send_gangs (s : State) (t : Nat) (own dst : Ltn) (a l : Nat) (b : Payload) : (s.send t own dst a l b).gangs = s.gangs := rfl
@[simp] theorem State.send_zones (s : State) (t : Nat) (own dst : Ltn) (a l : Nat) (b : Payload) : (s.send t own dst a l b).zones = s.zones := rfl
@[simp] theorem State.send_modules (s : State) (t : Nat) (own dst : Ltn) (a l : Nat) (b : Payload) : (s.send t own dst a l b).modules = s.modules := rfl
@[simp] theorem State.send_ports (s : State) (t : Nat) (own dst : Ltn) (a l : Nat) (b : Payload) : (s.send t own dst a l b).ports = s.ports := rfl
@[simp] theorem State.send_steals (s : State) (t : Nat) (own dst : Ltn) (a l : Nat) (b : Payload) : (s.send t own dst a l b).steals = s.steals := rfl
@[simp] theorem State.send_gong (s : State) (t : Nat) (own dst : Ltn) (a l : Nat) (b : Payload) : (s.send t own dst a l b).gong = s.gong := rfl
@[simp] theorem State.send_releases (s : State) (t : Nat) (own dst : Ltn) (a l : Nat) (b : Payload) : (s.send t own dst a l b).releases = s.releases := rfl
@[simp] theorem State.send_reqs (s : State) (t : Nat) (own dst : Ltn) (a l : Nat) (b : Payload) : (s.send t own dst a l b).reqs = s.reqs := rfl
@[simp] theorem State.send_anns (s : State) (t : Nat) (own dst : Ltn) (a l : Nat) (b : Payload) : (s.send t own dst a l b).anns = s.anns := rfl
@[simp] theorem State.send_bellWin (s : State) (t : Nat) (own dst : Ltn) (a l : Nat) (b : Payload) : (s.send t own dst a l b).bellWin = s.bellWin := rfl
@[simp] theorem State.send_bellDone (s : State) (t : Nat) (own dst : Ltn) (a l : Nat) (b : Payload) : (s.send t own dst a l b).bellDone = s.bellDone := rfl
@[simp] theorem State.send_links (s : State) (t : Nat) (own dst : Ltn) (a l : Nat) (b : Payload) : (s.send t own dst a l b).links = s.links := rfl
@[simp] theorem State.send_hostOut (s : State) (t : Nat) (own dst : Ltn) (a l : Nat) (b : Payload) : (s.send t own dst a l b).hostOut = s.hostOut := rfl
@[simp] theorem State.send_replies (s : State) (t : Nat) (own dst : Ltn) (a l : Nat) (b : Payload) : (s.send t own dst a l b).replies = s.replies := rfl
@[simp] theorem State.send_schedule (s : State) (t : Nat) (own dst : Ltn) (a l : Nat) (b : Payload) : (s.send t own dst a l b).schedule = s.schedule := rfl
@[simp] theorem State.send_time (s : State) (t : Nat) (own dst : Ltn) (a l : Nat) (b : Payload) : (s.send t own dst a l b).time = s.time := rfl
@[simp] theorem State.send_free (s : State) (t : Nat) (own dst : Ltn) (a l : Nat) (b : Payload) : (s.send t own dst a l b).free = s.free := rfl

-- updates of a thread
@[simp] theorem Thread.fold_pcc (th : Thread) (bs : List Byte) : (th.fold bs).pcc = th.pcc := by unfold Thread.fold; split <;> rfl
@[simp] theorem Thread.fold_regs (th : Thread) (bs : List Byte) : (th.fold bs).regs = th.regs := by unfold Thread.fold; split <;> rfl
@[simp] theorem Thread.fold_preds (th : Thread) (bs : List Byte) : (th.fold bs).preds = th.preds := by unfold Thread.fold; split <;> rfl
@[simp] theorem Thread.fold_stat (th : Thread) (bs : List Byte) : (th.fold bs).stat = th.stat := by unfold Thread.fold; split <;> rfl
@[simp] theorem Thread.fold_tid (th : Thread) (bs : List Byte) : (th.fold bs).tid = th.tid := by unfold Thread.fold; split <;> rfl
@[simp] theorem Thread.fold_vl (th : Thread) (bs : List Byte) : (th.fold bs).vl = th.vl := by unfold Thread.fold; split <;> rfl
@[simp] theorem Thread.fold_fmt (th : Thread) (bs : List Byte) : (th.fold bs).fmt = th.fmt := by unfold Thread.fold; split <;> rfl
@[simp] theorem Thread.fold_carry (th : Thread) (bs : List Byte) : (th.fold bs).carry = th.carry := by unfold Thread.fold; split <;> rfl
@[simp] theorem Thread.fold_mbxn (th : Thread) (bs : List Byte) : (th.fold bs).mbxn = th.mbxn := by unfold Thread.fold; split <;> rfl
@[simp] theorem Thread.fold_jc (th : Thread) (bs : List Byte) : (th.fold bs).jc = th.jc := by unfold Thread.fold; split <;> rfl
@[simp] theorem Thread.fold_migt (th : Thread) (bs : List Byte) : (th.fold bs).migt = th.migt := by unfold Thread.fold; split <;> rfl
@[simp] theorem Thread.fold_retc (th : Thread) (bs : List Byte) : (th.fold bs).retc = th.retc := by unfold Thread.fold; split <;> rfl
@[simp] theorem Thread.fold_ecause (th : Thread) (bs : List Byte) : (th.fold bs).ecause = th.ecause := by unfold Thread.fold; split <;> rfl
@[simp] theorem Thread.fold_eval (th : Thread) (bs : List Byte) : (th.fold bs).eval = th.eval := by unfold Thread.fold; split <;> rfl
@[simp] theorem Thread.fold_epc (th : Thread) (bs : List Byte) : (th.fold bs).epc = th.epc := by unfold Thread.fold; split <;> rfl
@[simp] theorem Thread.fold_estat (th : Thread) (bs : List Byte) : (th.fold bs).estat = th.estat := by unfold Thread.fold; split <;> rfl
@[simp] theorem Thread.fold_seed (th : Thread) (bs : List Byte) : (th.fold bs).seed = th.seed := by unfold Thread.fold; split <;> rfl
@[simp] theorem Thread.fold_fflg (th : Thread) (bs : List Byte) : (th.fold bs).fflg = th.fflg := by unfold Thread.fold; split <;> rfl
@[simp] theorem Thread.fold_gval (th : Thread) (bs : List Byte) : (th.fold bs).gval = th.gval := by unfold Thread.fold; split <;> rfl
@[simp] theorem Thread.fold_id (th : Thread) (bs : List Byte) : (th.fold bs).id = th.id := by unfold Thread.fold; split <;> rfl
@[simp] theorem Thread.fold_kind (th : Thread) (bs : List Byte) : (th.fold bs).kind = th.kind := by unfold Thread.fold; split <;> rfl
@[simp] theorem Thread.fold_asid (th : Thread) (bs : List Byte) : (th.fold bs).asid = th.asid := by unfold Thread.fold; split <;> rfl
@[simp] theorem Thread.fold_lgen (th : Thread) (bs : List Byte) : (th.fold bs).lgen = th.lgen := by unfold Thread.fold; split <;> rfl
@[simp] theorem Thread.fold_loc (th : Thread) (bs : List Byte) : (th.fold bs).loc = th.loc := by unfold Thread.fold; split <;> rfl
@[simp] theorem Thread.fold_ltn (th : Thread) (bs : List Byte) : (th.fold bs).ltn = th.ltn := by unfold Thread.fold; split <;> rfl
@[simp] theorem Thread.fold_park (th : Thread) (bs : List Byte) : (th.fold bs).park = th.park := by unfold Thread.fold; split <;> rfl
@[simp] theorem Thread.fold_sb (th : Thread) (bs : List Byte) : (th.fold bs).sb = th.sb := by unfold Thread.fold; split <;> rfl
@[simp] theorem Thread.fold_rhome (th : Thread) (bs : List Byte) : (th.fold bs).rhome = th.rhome := by unfold Thread.fold; split <;> rfl
@[simp] theorem Thread.fold_rcnt (th : Thread) (bs : List Byte) : (th.fold bs).rcnt = th.rcnt := by unfold Thread.fold; split <;> rfl
@[simp] theorem Thread.fold_short (th : Thread) (bs : List Byte) : (th.fold bs).short = th.short := by unfold Thread.fold; split <;> rfl
@[simp] theorem Thread.fold_pinc (th : Thread) (bs : List Byte) : (th.fold bs).pinc = th.pinc := by unfold Thread.fold; split <;> rfl
@[simp] theorem Thread.fold_pinx (th : Thread) (bs : List Byte) : (th.fold bs).pinx = th.pinx := by unfold Thread.fold; split <;> rfl
@[simp] theorem Thread.fold_refault (th : Thread) (bs : List Byte) : (th.fold bs).refault = th.refault := by unfold Thread.fold; split <;> rfl
@[simp] theorem Thread.fold_faultAt (th : Thread) (bs : List Byte) : (th.fold bs).faultAt = th.faultAt := by unfold Thread.fold; split <;> rfl
@[simp] theorem Thread.fold_since (th : Thread) (bs : List Byte) : (th.fold bs).since = th.since := by unfold Thread.fold; split <;> rfl
@[simp] theorem Thread.fold_races (th : Thread) (bs : List Byte) : (th.fold bs).races = th.races := by unfold Thread.fold; split <;> rfl
@[simp] theorem Thread.fold_after (th : Thread) (bs : List Byte) : (th.fold bs).after = th.after := by unfold Thread.fold; split <;> rfl
@[simp] theorem Thread.fold_vec (th : Thread) (bs : List Byte) : (th.fold bs).vec = th.vec := by unfold Thread.fold; split <;> rfl
@[simp] theorem Thread.countRetired_pcc (th : Thread) : th.countRetired.pcc = th.pcc := by unfold Thread.countRetired; simp only []; split <;> rfl
@[simp] theorem Thread.countRetired_regs (th : Thread) : th.countRetired.regs = th.regs := by unfold Thread.countRetired; simp only []; split <;> rfl
@[simp] theorem Thread.countRetired_preds (th : Thread) : th.countRetired.preds = th.preds := by unfold Thread.countRetired; simp only []; split <;> rfl
@[simp] theorem Thread.countRetired_tid (th : Thread) : th.countRetired.tid = th.tid := by unfold Thread.countRetired; simp only []; split <;> rfl
@[simp] theorem Thread.countRetired_vl (th : Thread) : th.countRetired.vl = th.vl := by unfold Thread.countRetired; simp only []; split <;> rfl
@[simp] theorem Thread.countRetired_fmt (th : Thread) : th.countRetired.fmt = th.fmt := by unfold Thread.countRetired; simp only []; split <;> rfl
@[simp] theorem Thread.countRetired_carry (th : Thread) : th.countRetired.carry = th.carry := by unfold Thread.countRetired; simp only []; split <;> rfl
@[simp] theorem Thread.countRetired_mbxn (th : Thread) : th.countRetired.mbxn = th.mbxn := by unfold Thread.countRetired; simp only []; split <;> rfl
@[simp] theorem Thread.countRetired_jc (th : Thread) : th.countRetired.jc = th.jc := by unfold Thread.countRetired; simp only []; split <;> rfl
@[simp] theorem Thread.countRetired_migt (th : Thread) : th.countRetired.migt = th.migt := by unfold Thread.countRetired; simp only []; split <;> rfl
@[simp] theorem Thread.countRetired_ecause (th : Thread) : th.countRetired.ecause = th.ecause := by unfold Thread.countRetired; simp only []; split <;> rfl
@[simp] theorem Thread.countRetired_eval (th : Thread) : th.countRetired.eval = th.eval := by unfold Thread.countRetired; simp only []; split <;> rfl
@[simp] theorem Thread.countRetired_epc (th : Thread) : th.countRetired.epc = th.epc := by unfold Thread.countRetired; simp only []; split <;> rfl
@[simp] theorem Thread.countRetired_estat (th : Thread) : th.countRetired.estat = th.estat := by unfold Thread.countRetired; simp only []; split <;> rfl
@[simp] theorem Thread.countRetired_seed (th : Thread) : th.countRetired.seed = th.seed := by unfold Thread.countRetired; simp only []; split <;> rfl
@[simp] theorem Thread.countRetired_fflg (th : Thread) : th.countRetired.fflg = th.fflg := by unfold Thread.countRetired; simp only []; split <;> rfl
@[simp] theorem Thread.countRetired_gval (th : Thread) : th.countRetired.gval = th.gval := by unfold Thread.countRetired; simp only []; split <;> rfl
@[simp] theorem Thread.countRetired_id (th : Thread) : th.countRetired.id = th.id := by unfold Thread.countRetired; simp only []; split <;> rfl
@[simp] theorem Thread.countRetired_kind (th : Thread) : th.countRetired.kind = th.kind := by unfold Thread.countRetired; simp only []; split <;> rfl
@[simp] theorem Thread.countRetired_asid (th : Thread) : th.countRetired.asid = th.asid := by unfold Thread.countRetired; simp only []; split <;> rfl
@[simp] theorem Thread.countRetired_lgen (th : Thread) : th.countRetired.lgen = th.lgen := by unfold Thread.countRetired; simp only []; split <;> rfl
@[simp] theorem Thread.countRetired_loc (th : Thread) : th.countRetired.loc = th.loc := by unfold Thread.countRetired; simp only []; split <;> rfl
@[simp] theorem Thread.countRetired_ltn (th : Thread) : th.countRetired.ltn = th.ltn := by unfold Thread.countRetired; simp only []; split <;> rfl
@[simp] theorem Thread.countRetired_sb (th : Thread) : th.countRetired.sb = th.sb := by unfold Thread.countRetired; simp only []; split <;> rfl
@[simp] theorem Thread.countRetired_rhome (th : Thread) : th.countRetired.rhome = th.rhome := by unfold Thread.countRetired; simp only []; split <;> rfl
@[simp] theorem Thread.countRetired_rcnt (th : Thread) : th.countRetired.rcnt = th.rcnt := by unfold Thread.countRetired; simp only []; split <;> rfl
@[simp] theorem Thread.countRetired_short (th : Thread) : th.countRetired.short = th.short := by unfold Thread.countRetired; simp only []; split <;> rfl
@[simp] theorem Thread.countRetired_pinx (th : Thread) : th.countRetired.pinx = th.pinx := by unfold Thread.countRetired; simp only []; split <;> rfl
@[simp] theorem Thread.countRetired_faultAt (th : Thread) : th.countRetired.faultAt = th.faultAt := by unfold Thread.countRetired; simp only []; split <;> rfl
@[simp] theorem Thread.countRetired_after (th : Thread) : th.countRetired.after = th.after := by unfold Thread.countRetired; simp only []; split <;> rfl
@[simp] theorem Thread.countRetired_vec (th : Thread) : th.countRetired.vec = th.vec := by unfold Thread.countRetired; simp only []; split <;> rfl
@[simp] theorem Thread.countRetired_retc (th : Thread) : th.countRetired.retc = th.retc + 1 := by
  unfold Thread.countRetired; simp only []; split <;> rfl


-- the issuing thread under writes of registers and predicates
@[simp] theorem State.setReg_thr_pcc (s : State) (n : RegNo) (v : Reg) : (s.setReg n v).thr.pcc = s.thr.pcc := by unfold State.setReg; split <;> simp
@[simp] theorem State.setX_thr_pcc (s : State) (n : RegNo) (v : Word) : (s.setX n v).thr.pcc = s.thr.pcc := State.setReg_thr_pcc _ _ _
@[simp] theorem State.setPred_thr_pcc (s : State) (n : PredNo) (v : Bool) : (s.setPred n v).thr.pcc = s.thr.pcc := by unfold State.setPred; split <;> simp
@[simp] theorem State.setPred_thr_regs (s : State) (n : PredNo) (v : Bool) : (s.setPred n v).thr.regs = s.thr.regs := by unfold State.setPred; split <;> simp
@[simp] theorem State.setReg_thr_preds (s : State) (n : RegNo) (v : Reg) : (s.setReg n v).thr.preds = s.thr.preds := by unfold State.setReg; split <;> simp
@[simp] theorem State.setX_thr_preds (s : State) (n : RegNo) (v : Word) : (s.setX n v).thr.preds = s.thr.preds := State.setReg_thr_preds _ _ _
@[simp] theorem State.setReg_thr_stat (s : State) (n : RegNo) (v : Reg) : (s.setReg n v).thr.stat = s.thr.stat := by unfold State.setReg; split <;> simp
@[simp] theorem State.setX_thr_stat (s : State) (n : RegNo) (v : Word) : (s.setX n v).thr.stat = s.thr.stat := State.setReg_thr_stat _ _ _
@[simp] theorem State.setPred_thr_stat (s : State) (n : PredNo) (v : Bool) : (s.setPred n v).thr.stat = s.thr.stat := by unfold State.setPred; split <;> simp
@[simp] theorem State.setReg_thr_tid (s : State) (n : RegNo) (v : Reg) : (s.setReg n v).thr.tid = s.thr.tid := by unfold State.setReg; split <;> simp
@[simp] theorem State.setX_thr_tid (s : State) (n : RegNo) (v : Word) : (s.setX n v).thr.tid = s.thr.tid := State.setReg_thr_tid _ _ _
@[simp] theorem State.setPred_thr_tid (s : State) (n : PredNo) (v : Bool) : (s.setPred n v).thr.tid = s.thr.tid := by unfold State.setPred; split <;> simp
@[simp] theorem State.setReg_thr_vl (s : State) (n : RegNo) (v : Reg) : (s.setReg n v).thr.vl = s.thr.vl := by unfold State.setReg; split <;> simp
@[simp] theorem State.setX_thr_vl (s : State) (n : RegNo) (v : Word) : (s.setX n v).thr.vl = s.thr.vl := State.setReg_thr_vl _ _ _
@[simp] theorem State.setPred_thr_vl (s : State) (n : PredNo) (v : Bool) : (s.setPred n v).thr.vl = s.thr.vl := by unfold State.setPred; split <;> simp
@[simp] theorem State.setReg_thr_fmt (s : State) (n : RegNo) (v : Reg) : (s.setReg n v).thr.fmt = s.thr.fmt := by unfold State.setReg; split <;> simp
@[simp] theorem State.setX_thr_fmt (s : State) (n : RegNo) (v : Word) : (s.setX n v).thr.fmt = s.thr.fmt := State.setReg_thr_fmt _ _ _
@[simp] theorem State.setPred_thr_fmt (s : State) (n : PredNo) (v : Bool) : (s.setPred n v).thr.fmt = s.thr.fmt := by unfold State.setPred; split <;> simp
@[simp] theorem State.setReg_thr_carry (s : State) (n : RegNo) (v : Reg) : (s.setReg n v).thr.carry = s.thr.carry := by unfold State.setReg; split <;> simp
@[simp] theorem State.setX_thr_carry (s : State) (n : RegNo) (v : Word) : (s.setX n v).thr.carry = s.thr.carry := State.setReg_thr_carry _ _ _
@[simp] theorem State.setPred_thr_carry (s : State) (n : PredNo) (v : Bool) : (s.setPred n v).thr.carry = s.thr.carry := by unfold State.setPred; split <;> simp
@[simp] theorem State.setReg_thr_mbxn (s : State) (n : RegNo) (v : Reg) : (s.setReg n v).thr.mbxn = s.thr.mbxn := by unfold State.setReg; split <;> simp
@[simp] theorem State.setX_thr_mbxn (s : State) (n : RegNo) (v : Word) : (s.setX n v).thr.mbxn = s.thr.mbxn := State.setReg_thr_mbxn _ _ _
@[simp] theorem State.setPred_thr_mbxn (s : State) (n : PredNo) (v : Bool) : (s.setPred n v).thr.mbxn = s.thr.mbxn := by unfold State.setPred; split <;> simp
@[simp] theorem State.setReg_thr_jc (s : State) (n : RegNo) (v : Reg) : (s.setReg n v).thr.jc = s.thr.jc := by unfold State.setReg; split <;> simp
@[simp] theorem State.setX_thr_jc (s : State) (n : RegNo) (v : Word) : (s.setX n v).thr.jc = s.thr.jc := State.setReg_thr_jc _ _ _
@[simp] theorem State.setPred_thr_jc (s : State) (n : PredNo) (v : Bool) : (s.setPred n v).thr.jc = s.thr.jc := by unfold State.setPred; split <;> simp
@[simp] theorem State.setReg_thr_migt (s : State) (n : RegNo) (v : Reg) : (s.setReg n v).thr.migt = s.thr.migt := by unfold State.setReg; split <;> simp
@[simp] theorem State.setX_thr_migt (s : State) (n : RegNo) (v : Word) : (s.setX n v).thr.migt = s.thr.migt := State.setReg_thr_migt _ _ _
@[simp] theorem State.setPred_thr_migt (s : State) (n : PredNo) (v : Bool) : (s.setPred n v).thr.migt = s.thr.migt := by unfold State.setPred; split <;> simp
@[simp] theorem State.setReg_thr_retc (s : State) (n : RegNo) (v : Reg) : (s.setReg n v).thr.retc = s.thr.retc := by unfold State.setReg; split <;> simp
@[simp] theorem State.setX_thr_retc (s : State) (n : RegNo) (v : Word) : (s.setX n v).thr.retc = s.thr.retc := State.setReg_thr_retc _ _ _
@[simp] theorem State.setPred_thr_retc (s : State) (n : PredNo) (v : Bool) : (s.setPred n v).thr.retc = s.thr.retc := by unfold State.setPred; split <;> simp
@[simp] theorem State.setReg_thr_ecause (s : State) (n : RegNo) (v : Reg) : (s.setReg n v).thr.ecause = s.thr.ecause := by unfold State.setReg; split <;> simp
@[simp] theorem State.setX_thr_ecause (s : State) (n : RegNo) (v : Word) : (s.setX n v).thr.ecause = s.thr.ecause := State.setReg_thr_ecause _ _ _
@[simp] theorem State.setPred_thr_ecause (s : State) (n : PredNo) (v : Bool) : (s.setPred n v).thr.ecause = s.thr.ecause := by unfold State.setPred; split <;> simp
@[simp] theorem State.setReg_thr_eval (s : State) (n : RegNo) (v : Reg) : (s.setReg n v).thr.eval = s.thr.eval := by unfold State.setReg; split <;> simp
@[simp] theorem State.setX_thr_eval (s : State) (n : RegNo) (v : Word) : (s.setX n v).thr.eval = s.thr.eval := State.setReg_thr_eval _ _ _
@[simp] theorem State.setPred_thr_eval (s : State) (n : PredNo) (v : Bool) : (s.setPred n v).thr.eval = s.thr.eval := by unfold State.setPred; split <;> simp
@[simp] theorem State.setReg_thr_epc (s : State) (n : RegNo) (v : Reg) : (s.setReg n v).thr.epc = s.thr.epc := by unfold State.setReg; split <;> simp
@[simp] theorem State.setX_thr_epc (s : State) (n : RegNo) (v : Word) : (s.setX n v).thr.epc = s.thr.epc := State.setReg_thr_epc _ _ _
@[simp] theorem State.setPred_thr_epc (s : State) (n : PredNo) (v : Bool) : (s.setPred n v).thr.epc = s.thr.epc := by unfold State.setPred; split <;> simp
@[simp] theorem State.setReg_thr_estat (s : State) (n : RegNo) (v : Reg) : (s.setReg n v).thr.estat = s.thr.estat := by unfold State.setReg; split <;> simp
@[simp] theorem State.setX_thr_estat (s : State) (n : RegNo) (v : Word) : (s.setX n v).thr.estat = s.thr.estat := State.setReg_thr_estat _ _ _
@[simp] theorem State.setPred_thr_estat (s : State) (n : PredNo) (v : Bool) : (s.setPred n v).thr.estat = s.thr.estat := by unfold State.setPred; split <;> simp
@[simp] theorem State.setReg_thr_seed (s : State) (n : RegNo) (v : Reg) : (s.setReg n v).thr.seed = s.thr.seed := by unfold State.setReg; split <;> simp
@[simp] theorem State.setX_thr_seed (s : State) (n : RegNo) (v : Word) : (s.setX n v).thr.seed = s.thr.seed := State.setReg_thr_seed _ _ _
@[simp] theorem State.setPred_thr_seed (s : State) (n : PredNo) (v : Bool) : (s.setPred n v).thr.seed = s.thr.seed := by unfold State.setPred; split <;> simp
@[simp] theorem State.setReg_thr_fflg (s : State) (n : RegNo) (v : Reg) : (s.setReg n v).thr.fflg = s.thr.fflg := by unfold State.setReg; split <;> simp
@[simp] theorem State.setX_thr_fflg (s : State) (n : RegNo) (v : Word) : (s.setX n v).thr.fflg = s.thr.fflg := State.setReg_thr_fflg _ _ _
@[simp] theorem State.setPred_thr_fflg (s : State) (n : PredNo) (v : Bool) : (s.setPred n v).thr.fflg = s.thr.fflg := by unfold State.setPred; split <;> simp
@[simp] theorem State.setReg_thr_gval (s : State) (n : RegNo) (v : Reg) : (s.setReg n v).thr.gval = s.thr.gval := by unfold State.setReg; split <;> simp
@[simp] theorem State.setX_thr_gval (s : State) (n : RegNo) (v : Word) : (s.setX n v).thr.gval = s.thr.gval := State.setReg_thr_gval _ _ _
@[simp] theorem State.setPred_thr_gval (s : State) (n : PredNo) (v : Bool) : (s.setPred n v).thr.gval = s.thr.gval := by unfold State.setPred; split <;> simp
@[simp] theorem State.setReg_thr_id (s : State) (n : RegNo) (v : Reg) : (s.setReg n v).thr.id = s.thr.id := by unfold State.setReg; split <;> simp
@[simp] theorem State.setX_thr_id (s : State) (n : RegNo) (v : Word) : (s.setX n v).thr.id = s.thr.id := State.setReg_thr_id _ _ _
@[simp] theorem State.setPred_thr_id (s : State) (n : PredNo) (v : Bool) : (s.setPred n v).thr.id = s.thr.id := by unfold State.setPred; split <;> simp
@[simp] theorem State.setReg_thr_kind (s : State) (n : RegNo) (v : Reg) : (s.setReg n v).thr.kind = s.thr.kind := by unfold State.setReg; split <;> simp
@[simp] theorem State.setX_thr_kind (s : State) (n : RegNo) (v : Word) : (s.setX n v).thr.kind = s.thr.kind := State.setReg_thr_kind _ _ _
@[simp] theorem State.setPred_thr_kind (s : State) (n : PredNo) (v : Bool) : (s.setPred n v).thr.kind = s.thr.kind := by unfold State.setPred; split <;> simp
@[simp] theorem State.setReg_thr_asid (s : State) (n : RegNo) (v : Reg) : (s.setReg n v).thr.asid = s.thr.asid := by unfold State.setReg; split <;> simp
@[simp] theorem State.setX_thr_asid (s : State) (n : RegNo) (v : Word) : (s.setX n v).thr.asid = s.thr.asid := State.setReg_thr_asid _ _ _
@[simp] theorem State.setPred_thr_asid (s : State) (n : PredNo) (v : Bool) : (s.setPred n v).thr.asid = s.thr.asid := by unfold State.setPred; split <;> simp
@[simp] theorem State.setReg_thr_lgen (s : State) (n : RegNo) (v : Reg) : (s.setReg n v).thr.lgen = s.thr.lgen := by unfold State.setReg; split <;> simp
@[simp] theorem State.setX_thr_lgen (s : State) (n : RegNo) (v : Word) : (s.setX n v).thr.lgen = s.thr.lgen := State.setReg_thr_lgen _ _ _
@[simp] theorem State.setPred_thr_lgen (s : State) (n : PredNo) (v : Bool) : (s.setPred n v).thr.lgen = s.thr.lgen := by unfold State.setPred; split <;> simp
@[simp] theorem State.setReg_thr_loc (s : State) (n : RegNo) (v : Reg) : (s.setReg n v).thr.loc = s.thr.loc := by unfold State.setReg; split <;> simp
@[simp] theorem State.setX_thr_loc (s : State) (n : RegNo) (v : Word) : (s.setX n v).thr.loc = s.thr.loc := State.setReg_thr_loc _ _ _
@[simp] theorem State.setPred_thr_loc (s : State) (n : PredNo) (v : Bool) : (s.setPred n v).thr.loc = s.thr.loc := by unfold State.setPred; split <;> simp
@[simp] theorem State.setReg_thr_ltn (s : State) (n : RegNo) (v : Reg) : (s.setReg n v).thr.ltn = s.thr.ltn := by unfold State.setReg; split <;> simp
@[simp] theorem State.setX_thr_ltn (s : State) (n : RegNo) (v : Word) : (s.setX n v).thr.ltn = s.thr.ltn := State.setReg_thr_ltn _ _ _
@[simp] theorem State.setPred_thr_ltn (s : State) (n : PredNo) (v : Bool) : (s.setPred n v).thr.ltn = s.thr.ltn := by unfold State.setPred; split <;> simp
@[simp] theorem State.setReg_thr_park (s : State) (n : RegNo) (v : Reg) : (s.setReg n v).thr.park = s.thr.park := by unfold State.setReg; split <;> simp
@[simp] theorem State.setX_thr_park (s : State) (n : RegNo) (v : Word) : (s.setX n v).thr.park = s.thr.park := State.setReg_thr_park _ _ _
@[simp] theorem State.setPred_thr_park (s : State) (n : PredNo) (v : Bool) : (s.setPred n v).thr.park = s.thr.park := by unfold State.setPred; split <;> simp
@[simp] theorem State.setReg_thr_sb (s : State) (n : RegNo) (v : Reg) : (s.setReg n v).thr.sb = s.thr.sb := by unfold State.setReg; split <;> simp
@[simp] theorem State.setX_thr_sb (s : State) (n : RegNo) (v : Word) : (s.setX n v).thr.sb = s.thr.sb := State.setReg_thr_sb _ _ _
@[simp] theorem State.setPred_thr_sb (s : State) (n : PredNo) (v : Bool) : (s.setPred n v).thr.sb = s.thr.sb := by unfold State.setPred; split <;> simp
@[simp] theorem State.setReg_thr_rhome (s : State) (n : RegNo) (v : Reg) : (s.setReg n v).thr.rhome = s.thr.rhome := by unfold State.setReg; split <;> simp
@[simp] theorem State.setX_thr_rhome (s : State) (n : RegNo) (v : Word) : (s.setX n v).thr.rhome = s.thr.rhome := State.setReg_thr_rhome _ _ _
@[simp] theorem State.setPred_thr_rhome (s : State) (n : PredNo) (v : Bool) : (s.setPred n v).thr.rhome = s.thr.rhome := by unfold State.setPred; split <;> simp
@[simp] theorem State.setReg_thr_rcnt (s : State) (n : RegNo) (v : Reg) : (s.setReg n v).thr.rcnt = s.thr.rcnt := by unfold State.setReg; split <;> simp
@[simp] theorem State.setX_thr_rcnt (s : State) (n : RegNo) (v : Word) : (s.setX n v).thr.rcnt = s.thr.rcnt := State.setReg_thr_rcnt _ _ _
@[simp] theorem State.setPred_thr_rcnt (s : State) (n : PredNo) (v : Bool) : (s.setPred n v).thr.rcnt = s.thr.rcnt := by unfold State.setPred; split <;> simp
@[simp] theorem State.setReg_thr_short (s : State) (n : RegNo) (v : Reg) : (s.setReg n v).thr.short = s.thr.short := by unfold State.setReg; split <;> simp
@[simp] theorem State.setX_thr_short (s : State) (n : RegNo) (v : Word) : (s.setX n v).thr.short = s.thr.short := State.setReg_thr_short _ _ _
@[simp] theorem State.setPred_thr_short (s : State) (n : PredNo) (v : Bool) : (s.setPred n v).thr.short = s.thr.short := by unfold State.setPred; split <;> simp
@[simp] theorem State.setReg_thr_pinc (s : State) (n : RegNo) (v : Reg) : (s.setReg n v).thr.pinc = s.thr.pinc := by unfold State.setReg; split <;> simp
@[simp] theorem State.setX_thr_pinc (s : State) (n : RegNo) (v : Word) : (s.setX n v).thr.pinc = s.thr.pinc := State.setReg_thr_pinc _ _ _
@[simp] theorem State.setPred_thr_pinc (s : State) (n : PredNo) (v : Bool) : (s.setPred n v).thr.pinc = s.thr.pinc := by unfold State.setPred; split <;> simp
@[simp] theorem State.setReg_thr_pinx (s : State) (n : RegNo) (v : Reg) : (s.setReg n v).thr.pinx = s.thr.pinx := by unfold State.setReg; split <;> simp
@[simp] theorem State.setX_thr_pinx (s : State) (n : RegNo) (v : Word) : (s.setX n v).thr.pinx = s.thr.pinx := State.setReg_thr_pinx _ _ _
@[simp] theorem State.setPred_thr_pinx (s : State) (n : PredNo) (v : Bool) : (s.setPred n v).thr.pinx = s.thr.pinx := by unfold State.setPred; split <;> simp
@[simp] theorem State.setReg_thr_refault (s : State) (n : RegNo) (v : Reg) : (s.setReg n v).thr.refault = s.thr.refault := by unfold State.setReg; split <;> simp
@[simp] theorem State.setX_thr_refault (s : State) (n : RegNo) (v : Word) : (s.setX n v).thr.refault = s.thr.refault := State.setReg_thr_refault _ _ _
@[simp] theorem State.setPred_thr_refault (s : State) (n : PredNo) (v : Bool) : (s.setPred n v).thr.refault = s.thr.refault := by unfold State.setPred; split <;> simp
@[simp] theorem State.setReg_thr_faultAt (s : State) (n : RegNo) (v : Reg) : (s.setReg n v).thr.faultAt = s.thr.faultAt := by unfold State.setReg; split <;> simp
@[simp] theorem State.setX_thr_faultAt (s : State) (n : RegNo) (v : Word) : (s.setX n v).thr.faultAt = s.thr.faultAt := State.setReg_thr_faultAt _ _ _
@[simp] theorem State.setPred_thr_faultAt (s : State) (n : PredNo) (v : Bool) : (s.setPred n v).thr.faultAt = s.thr.faultAt := by unfold State.setPred; split <;> simp
@[simp] theorem State.setReg_thr_since (s : State) (n : RegNo) (v : Reg) : (s.setReg n v).thr.since = s.thr.since := by unfold State.setReg; split <;> simp
@[simp] theorem State.setX_thr_since (s : State) (n : RegNo) (v : Word) : (s.setX n v).thr.since = s.thr.since := State.setReg_thr_since _ _ _
@[simp] theorem State.setPred_thr_since (s : State) (n : PredNo) (v : Bool) : (s.setPred n v).thr.since = s.thr.since := by unfold State.setPred; split <;> simp
@[simp] theorem State.setReg_thr_races (s : State) (n : RegNo) (v : Reg) : (s.setReg n v).thr.races = s.thr.races := by unfold State.setReg; split <;> simp
@[simp] theorem State.setX_thr_races (s : State) (n : RegNo) (v : Word) : (s.setX n v).thr.races = s.thr.races := State.setReg_thr_races _ _ _
@[simp] theorem State.setPred_thr_races (s : State) (n : PredNo) (v : Bool) : (s.setPred n v).thr.races = s.thr.races := by unfold State.setPred; split <;> simp
@[simp] theorem State.setReg_thr_after (s : State) (n : RegNo) (v : Reg) : (s.setReg n v).thr.after = s.thr.after := by unfold State.setReg; split <;> simp
@[simp] theorem State.setX_thr_after (s : State) (n : RegNo) (v : Word) : (s.setX n v).thr.after = s.thr.after := State.setReg_thr_after _ _ _
@[simp] theorem State.setPred_thr_after (s : State) (n : PredNo) (v : Bool) : (s.setPred n v).thr.after = s.thr.after := by unfold State.setPred; split <;> simp
@[simp] theorem State.setReg_thr_vec (s : State) (n : RegNo) (v : Reg) : (s.setReg n v).thr.vec = s.thr.vec := by unfold State.setReg; split <;> simp
@[simp] theorem State.setX_thr_vec (s : State) (n : RegNo) (v : Word) : (s.setX n v).thr.vec = s.thr.vec := State.setReg_thr_vec _ _ _
@[simp] theorem State.setPred_thr_vec (s : State) (n : PredNo) (v : Bool) : (s.setPred n v).thr.vec = s.thr.vec := by unfold State.setPred; split <;> simp
end Sys2Proof.Machine
end

