-- ==== Sys2Proof/Laws/Memory.lean ====
section
/-! SUPPORT. The laws of memory: a read after a write, what a write leaves alone, and that every operation keeps the canonical form
(Machine/Mem.lean; spec/05_scratchpad.md R104, R112-R114, spec/07_home_memory.md R156). -/
namespace Sys2Proof.Machine

-- reading after writing
theorem Memory.get_insert (m : List Host.Cell) (a b : Nat) (v : Byte) (h : ∀ c ∈ m, c.1 ≠ a) :
    Memory.get (Memory.insert m a v) b = if b = a then v else Memory.get m b := by
  induction m with
  | nil => simp [Memory.insert, Memory.get, eq_comm]
  | cons c r ih =>
    obtain ⟨k, w⟩ := c
    have hk : k ≠ a := h (k, w) (by simp)
    have ih := ih fun c hc => h c (by simp [hc])
    unfold Memory.insert
    split
    · by_cases e : b = a
      · simp [Memory.get, e]
      · simp [Memory.get, e, Ne.symm e]
    · by_cases e : k = b
      · subst e; simp [Memory.get, hk]
      · simp [Memory.get, e, ih]

theorem Memory.get_filter (m : List Host.Cell) (p : Nat → Bool) (a : Nat) :
    Memory.get (m.filter fun c => p c.1) a = if p a then Memory.get m a else 0 := by
  induction m with
  | nil => simp [Memory.get]
  | cons c r ih =>
    obtain ⟨k, w⟩ := c
    by_cases e : k = a
    · subst e; by_cases hp : p k <;> simp [hp, Memory.get, ih]
    · by_cases hp : p k <;> simp [hp, Memory.get, ih, e]

/-- A read after a write of one byte. -/
theorem Memory.get_set (m : List Host.Cell) (a b : Nat) (v : Byte) :
    Memory.get (Memory.set m a v) b = if b = a then v else Memory.get m b := by
  have hf := Memory.get_filter m (fun k => decide (k ≠ a)) b
  unfold Memory.set
  split
  · rename_i h0
    simp only [hf, h0]; by_cases e : b = a <;> simp [e]
  · rw [Memory.get_insert _ _ _ _ (by simp), hf]; by_cases e : b = a <;> simp [e]

/-- A write of bytes leaves every other byte alone. -/
theorem Memory.get_write_of_not_mem (vs : List Byte) (m : List Host.Cell) (a b : Nat) (h : b < a ∨ a + vs.length ≤ b) :
    Memory.get (Memory.write m a vs) b = Memory.get m b := by
  induction vs generalizing m a with
  | nil => rfl
  | cons v vs ih =>
    simp only [List.length_cons] at h
    rw [Memory.write, ih _ _ (by omega), Memory.get_set, if_neg (by omega)]

/-- A read after a write of bytes. -/
theorem Memory.get_write (vs : List Byte) (m : List Host.Cell) (a i : Nat) (h : i < vs.length) :
    Memory.get (Memory.write m a vs) (a + i) = vs[i] := by
  induction vs generalizing m a i with
  | nil => simp at h
  | cons v vs ih =>
    cases i with
    | zero => rw [Memory.write, Memory.get_write_of_not_mem _ _ _ _ (by omega), Memory.get_set]; simp
    | succ i =>
      rw [Memory.write, show a + (i + 1) = a + 1 + i by omega, ih _ _ _ (by simpa using h)]; simp

theorem Memory.length_read (m : List Host.Cell) (a n : Nat) : (Memory.read m a n).length = n := by simp [Memory.read]

/-- Bytes written read back. -/
theorem Memory.read_write (m : List Host.Cell) (a : Nat) (vs : List Byte) :
    Memory.read (Memory.write m a vs) a vs.length = vs := by
  apply List.ext_getElem
  · simp [Memory.read]
  · intro i _ h; simp [Memory.read, Memory.get_write vs m a i h]

/-- Bytes elsewhere read as before. -/
theorem Memory.read_write_disjoint (m : List Host.Cell) (a b n : Nat) (vs : List Byte) (h : b + n ≤ a ∨ a + vs.length ≤ b) :
    Memory.read (Memory.write m a vs) b n = Memory.read m b n := by
  simp only [Memory.read, List.map_inj_left, List.mem_range]
  intro i hi; exact Memory.get_write_of_not_mem vs m a (b + i) (by omega)

-- the canonical form of the bytes
theorem Memory.wfFrom_mono {m : List Host.Cell} {j k : Nat} (hjk : j ≤ k) (h : Memory.wfFrom k m = true) :
    Memory.wfFrom j m = true := by
  cases m with
  | nil => rfl
  | cons c r => obtain ⟨b, w⟩ := c; simp [Memory.wfFrom] at h ⊢; exact ⟨⟨by omega, h.1.2⟩, h.2⟩

theorem Memory.wfFrom_filter (p : Host.Cell → Bool) (m : List Host.Cell) (k : Nat) (h : Memory.wfFrom k m = true) :
    Memory.wfFrom k (m.filter p) = true := by
  induction m generalizing k with
  | nil => rfl
  | cons c r ih =>
    obtain ⟨b, w⟩ := c
    simp only [Memory.wfFrom, Bool.and_eq_true, decide_eq_true_eq] at h
    by_cases hp : p (b, w)
    · rw [List.filter_cons_of_pos hp]; simp [Memory.wfFrom, h.1.1, ih _ h.2]; simpa using h.1.2
    · rw [List.filter_cons_of_neg hp]; exact Memory.wfFrom_mono (by omega) (ih _ h.2)

theorem Memory.wfFrom_insert (m : List Host.Cell) (k a : Nat) (v : Byte) (hv : v ≠ 0) (hk : k ≤ a) (hm : ∀ c ∈ m, c.1 ≠ a)
    (h : Memory.wfFrom k m = true) : Memory.wfFrom k (Memory.insert m a v) = true := by
  induction m generalizing k with
  | nil => simpa [Memory.insert, Memory.wfFrom, hk] using hv
  | cons c r ih =>
    obtain ⟨b, w⟩ := c
    have hb : b ≠ a := hm (b, w) (by simp)
    simp only [Memory.wfFrom, Bool.and_eq_true, decide_eq_true_eq] at h
    unfold Memory.insert
    split
    · simp only [Memory.wfFrom, Bool.and_eq_true, decide_eq_true_eq]; exact ⟨⟨by simpa using hk, by simpa using hv⟩, ⟨by rename_i h3; omega, h.1.2⟩, h.2⟩
    · simp only [Memory.wfFrom, Bool.and_eq_true, decide_eq_true_eq]
      exact ⟨h.1, ih (b + 1) (by omega) (fun c hc => hm c (by simp [hc])) h.2⟩

/-- A write of one byte keeps the canonical form. -/
theorem Memory.wf_set (m : List Host.Cell) (a : Nat) (v : Byte) (h : Memory.wf m = true) : Memory.wf (Memory.set m a v) = true := by
  unfold Memory.wf Memory.set at *
  have hf := Memory.wfFrom_filter (fun c => decide (c.1 ≠ a)) m 0 h
  split
  · exact hf
  · exact Memory.wfFrom_insert _ _ _ _ ‹_› (by omega) (by simp) hf

/-- A write of bytes keeps the canonical form. -/
theorem Memory.wf_write (vs : List Byte) (m : List Host.Cell) (a : Nat) (h : Memory.wf m = true) :
    Memory.wf (Memory.write m a vs) = true := by
  induction vs generalizing m a with
  | nil => exact h
  | cons v vs ih => exact ih _ _ (Memory.wf_set m a v h)

-- the canonical form of the sets
theorem Keys.mem_put {l : List Nat} {k x : Nat} : x ∈ Keys.put l k ↔ x = k ∨ x ∈ l := by
  induction l with
  | nil => simp [Keys.put]
  | cons b r ih =>
    unfold Keys.put
    split
    · simp
    · split
      · rename_i e; subst e; simp
      · simp only [List.mem_cons, ih]; exact or_left_comm

theorem Keys.mem_drop {l : List Nat} {k x : Nat} : x ∈ Keys.drop l k ↔ x ∈ l ∧ x ≠ k := by simp [Keys.drop]

theorem Keys.wf_put {l : List Nat} (k : Nat) (h : Keys.wf l) : Keys.wf (Keys.put l k) := by
  induction l with
  | nil => simp [Keys.put, Keys.wf]
  | cons b r ih =>
    unfold Keys.wf at h ih ⊢
    rw [List.pairwise_cons] at h
    unfold Keys.put
    split
    · refine List.pairwise_cons.mpr ⟨?_, List.pairwise_cons.mpr h⟩
      intro x hx; rcases List.mem_cons.mp hx with e | e
      · omega
      · have := h.1 x e; omega
    · split
      · exact List.pairwise_cons.mpr h
      · refine List.pairwise_cons.mpr ⟨?_, ih h.2⟩
        intro x hx; rcases Keys.mem_put.mp hx with e | e
        · omega
        · exact h.1 x e

theorem Keys.wf_filter {l : List Nat} (p : Nat → Bool) (h : Keys.wf l) : Keys.wf (l.filter p) := List.Pairwise.filter p h

theorem Keys.wf_drop {l : List Nat} (k : Nat) (h : Keys.wf l) : Keys.wf (Keys.drop l k) := Keys.wf_filter _ h

theorem Keys.wf_assign {l : List Nat} (k : Nat) (v : Bool) (h : Keys.wf l) : Keys.wf (Keys.assign l k v) := by
  unfold Keys.assign; split
  · exact Keys.wf_put k h
  · exact Keys.wf_drop k h

theorem Keys.wf_foldl_drop {ks l : List Nat} (h : Keys.wf l) : Keys.wf (ks.foldl Keys.drop l) := by
  induction ks generalizing l with
  | nil => exact h
  | cons k ks ih => exact ih (Keys.wf_drop k h)

theorem Keys.wf_run {vs : List Bool} {l : List Nat} (k : Nat) (h : Keys.wf l) : Keys.wf (Keys.run l k vs) := by
  induction vs generalizing l k with
  | nil => exact h
  | cons v vs ih => exact ih (k + 1) (Keys.wf_assign k v h)

theorem Keys.has_drop (l : List Nat) (k x : Nat) : Keys.has (Keys.drop l k) x = (Keys.has l x && decide (x ≠ k)) := by
  by_cases h : x = k <;> simp [Keys.has, Keys.drop, h]

theorem Keys.has_assign (l : List Nat) (k x : Nat) (v : Bool) :
    Keys.has (Keys.assign l k v) x = if x = k then v else Keys.has l x := by
  unfold Keys.assign
  cases v
  · rw [if_neg (by simp), Keys.has_drop]; by_cases h : x = k <;> simp [h]
  · rw [if_pos rfl]; unfold Keys.has; by_cases h : x = k
    · simp [h, Keys.mem_put]
    · simp only [h, if_false, List.contains_eq_mem, Keys.mem_put, false_or]

theorem Keys.has_foldl_drop (ks l : List Nat) (x : Nat) :
    Keys.has (ks.foldl Keys.drop l) x = (Keys.has l x && !ks.contains x) := by
  induction ks generalizing l with
  | nil => simp
  | cons k ks ih => rw [List.foldl_cons, ih, Keys.has_drop]; by_cases h : x = k <;> simp [h]

-- the canonical form of the state
/-- The form rests on memory and its metadata alone. -/
theorem State.Canonical.of_eq {s t : State} (h : s.Canonical) (h1 : t.mem = s.mem) (h2 : t.tags = s.tags) (h3 : t.full = s.full)
    (h4 : t.psn = s.psn) (h5 : t.psnBits = s.psnBits) : t.Canonical :=
  ⟨h1 ▸ h.mem, h2 ▸ h.tags, h3 ▸ h.full, h4 ▸ h.psn, h5 ▸ h.bits⟩

/-- The poison-present bits stay a sorted set. -/
theorem Keys.wf_presentAfter {l : List Nat} (pa : Nat) (v : Bool) (h : Keys.wf l) : Keys.wf (presentAfter l pa v) := by
  unfold presentAfter; split
  · exact Keys.wf_put _ h
  · exact h

theorem State.Canonical.poke {s : State} (h : s.Canonical) (pa : Nat) (bs : List Byte) : (s.poke pa bs).Canonical :=
  ⟨Memory.wf_write bs s.mem pa h.mem, Keys.wf_foldl_drop h.tags, h.full, Keys.wf_foldl_drop h.psn, h.bits⟩

theorem State.Canonical.setTag {s : State} (h : s.Canonical) (pa : Nat) (v : Bool) : (s.setTag pa v).Canonical :=
  ⟨h.mem, Keys.wf_assign _ v h.tags, h.full, h.psn, h.bits⟩

theorem State.Canonical.setFull {s : State} (h : s.Canonical) (pa : Nat) (v : Bool) : (s.setFull pa v).Canonical :=
  ⟨h.mem, h.tags, Keys.wf_assign _ v h.full, h.psn, h.bits⟩

theorem State.Canonical.setPoison {s : State} (h : s.Canonical) (pa : Nat) (v : Bool) : (s.setPoison pa v).Canonical :=
  ⟨h.mem, h.tags, h.full, Keys.wf_assign _ v h.psn, Keys.wf_presentAfter pa v h.bits⟩

theorem State.Canonical.clearRange {s : State} (h : s.Canonical) (pa n : Nat) : (s.clearRange pa n).Canonical :=
  ⟨Memory.wfFrom_filter _ s.mem 0 h.mem, Keys.wf_filter _ h.tags, Keys.wf_filter _ h.full, Keys.wf_filter _ h.psn, Keys.wf_drop _ h.bits⟩

theorem State.Canonical.restore {s : State} (h : s.Canonical) (b : Block) : (s.restore b).Canonical :=
  ⟨Memory.wf_write b.data s.mem b.base h.mem, Keys.wf_run _ h.tags, Keys.wf_run _ h.full, Keys.wf_run _ h.psn,
    Keys.wf_presentAfter b.base _ h.bits⟩

/-- What data written to memory leaves and changes (R112-R114, R167). -/
theorem State.memoryKeptBut_poke (s : State) (pa : Nat) (bs : List Byte) : s.MemoryKeptBut (s.poke pa bs) pa bs.length := by
  intro a
  refine ⟨fun h => Memory.get_write_of_not_mem bs s.mem pa a h, fun h => ?_, fun _ => rfl, fun h => ?_⟩
  · simp only [State.tagAt, State.poke, Keys.has_foldl_drop, List.contains_eq_mem, h]; simp
  · simp only [State.psnAt, State.poke, Keys.has_foldl_drop, List.contains_eq_mem, List.mem_filter, h]; simp

/-- Bytes written to memory read back. -/
theorem State.bytes_poke (s : State) (pa : Nat) (bs : List Byte) : (s.poke pa bs).bytes pa bs.length = bs :=
  Memory.read_write s.mem pa bs

end Sys2Proof.Machine
end

