-- ==== Sys2Proof/Laws/Registers.lean ====
section
/-! SUPPORT. What a write of a register or a predicate and a retirement do to the issuing thread: the laws that the result
statements of register instructions rest on (spec/02_encoding.md R27, R31). -/
namespace Sys2Proof.Machine

@[simp] theorem pc_withCursor (r : Reg) (v : VAddr) : (r.withCursor v).bits.setWidth 48 = v := by
  unfold Reg.withCursor; ext i hi
  simp [BitVec.getElem_setWidth, BitVec.getLsbD_or]
theorem getLsbD_clear3 (x : BitVec 9) (k : Nat) : (statBit x 3 false).getLsbD k = (decide (k ≠ 3) && x.getLsbD k) := by
  rcases Nat.lt_or_ge k 9 with h | h
  · have : k ∈ List.range 9 := by simp [h]
    unfold statBit
    rw [if_neg (by simp), BitVec.getLsbD_and]
    have h2 : (~~~((1 : BitVec 9) <<< 3)).getLsbD k = decide (k ≠ 3) := by revert this k; decide
    rw [h2, Bool.and_comm]
  · simp [BitVec.getLsbD_of_ge, h]
theorem cr_stat_eq (th : Thread) : th.countRetired.stat = th.stat ∨ th.countRetired.stat = statBit th.stat 3 false := by
  have : ∀ c d : Prop, ∀ [Decidable c], (if c then statBit th.stat 3 false else th.stat) = th.stat ∨ (if c then statBit th.stat 3 false else th.stat) = statBit th.stat 3 false := by
    intro c _ _; by_cases h : c <;> simp [h]
  unfold Thread.countRetired; simp only []
  split <;> exact this _ True
theorem cr_stat (th : Thread) (k : Nat) (hk : k ≠ 3) : th.countRetired.stat.getLsbD k = th.stat.getLsbD k := by
  rcases cr_stat_eq th with h | h <;> simp [h, getLsbD_clear3, hk]
theorem cr_pin (th : Thread) : th.countRetired.pinned = true → th.pinned = true := by
  unfold Thread.pinned
  rcases cr_stat_eq th with h | h <;> rw [h]
  · exact id
  · rw [getLsbD_clear3]; simp

/-- Retiring after register and predicate writes alone. -/
theorem regOnly_retire (s u : State) (pg : Nat) (p : Pfx) (ds ps)
   (hp : u.thr.pcc = s.thr.pcc) (h1 : s.RegsKept u ds) (h2 : s.PredsKept u ps) (hs : u.thr.specials = s.thr.specials)
   (hm : s.MemoryKept u) (hself : s.thr.SameSelf u.thr) (ha : u.surroundings = s.surroundings)
   (hr : u.thr.retc = s.thr.retc) (hst : u.thr.stat = s.thr.stat) (hb : u.thr.sb = s.thr.sb) :
   s.RegisterOnly (u.retire pg p) ds ps (s.nextPc pg p) := by
  have hpc : u.nextPc pg p = s.nextPc pg p := by simp [State.nextPc, State.pc, Arch.pc, hp]
  unfold State.retire State.retireTo
  refine { retires := ⟨?_, ?_, ?_, ?_, ?_⟩, regs := ?_, preds := ?_, specials := ?_, memory := hm, self := ?_, sb := ?_, around := ha }
  · simp [State.pc, Arch.pc, hpc]
  · simp [hp, hpc]
  · simp [hr]
  · intro k hk; simp [cr_stat _ k hk, hst]
  · intro h; simpa [Thread.pinned, hst] using cr_pin _ h
  · intro r h; have := h1 r h; simp only [State.reg] at this ⊢; simpa using this
  · intro q h; have := h2 q h; simp only [State.pred] at this ⊢; simpa using this
  · simpa [Arch.specials] using hs
  · obtain ⟨a, b, c, d, e, f⟩ := hself
    refine ⟨?_, ?_, ?_, ?_, ?_, ?_⟩ <;> simp [*]
  · simp [hb]

theorem reg_setReg (s : State) (d r : RegNo) (v : Reg) : (s.setReg d v).reg r = if r = d then readBack d v else s.reg r := by
  unfold State.setReg readBack State.reg
  by_cases h0 : d = 0
  · rw [if_pos h0, if_pos h0]; by_cases h : r = d
    · rw [if_pos h, if_pos (h.trans h0)]
    · rw [if_neg h]
  · rw [if_neg h0, if_neg h0]
    by_cases h : r = d
    · subst h; simp only [if_true, if_neg h0, State.withThr_thr, Vector.getElem_set_self]
    · rw [if_neg h]
      by_cases hr : r = 0
      · rw [if_pos hr, if_pos hr]
      · rw [if_neg hr, if_neg hr]
        exact Vector.getElem_set_ne d.isLt r.isLt fun e => h (BitVec.eq_of_toNat_eq e.symm)

theorem regOnly_setReg (s : State) (pg : Nat) (p : Pfx) (d : RegNo) (v : Reg) :
   ((s.setReg d v).retire pg p).reg d = readBack d v ∧ s.RegisterOnly ((s.setReg d v).retire pg p) [d] [] (s.nextPc pg p) := by
  constructor
  · have := reg_setReg s d d v
    simp only [State.reg, State.retire, State.retireTo] at this ⊢; simpa using this
  · apply regOnly_retire
    · simp
    · intro r hr; rw [reg_setReg]; simp at hr; simp [hr]
    · intro q _; unfold State.pred; simp
    · simp [Arch.specials]
    · intro a; simp [State.tagAt, State.fullAt, State.psnAt]
    · simp [Thread.SameSelf]
    · simp [State.surroundings]
    · simp
    · simp
    · simp

theorem getLsbD_setBit (x : BitVec 8) (n k : Nat) (v : Bool) (hk : k < 8) :
    (setBit x n v).getLsbD k = if k = n then v else x.getLsbD k := by
  have h : ((1 : BitVec 8) <<< n).getLsbD k = decide (k = n) := by
    rw [BitVec.getLsbD_shiftLeft]
    rcases Nat.lt_trichotomy k n with h | h | h
    · simp [h]; omega
    · simp [h]; omega
    · have : k - n ≠ 0 := by omega
      simp [this]; omega
  unfold setBit
  cases v
  · rw [if_neg (by simp), BitVec.getLsbD_and, BitVec.getLsbD_not, h]; by_cases e : k = n <;> simp [e, hk]
  · rw [if_pos rfl, BitVec.getLsbD_or, h]; by_cases e : k = n <;> simp [e]
theorem pred_setPred (s : State) (d r : PredNo) (v : Bool) : (s.setPred d v).pred r = if r = d then predBack d v else s.pred r := by
  unfold State.setPred predBack State.pred
  by_cases h0 : d = 0
  · rw [if_pos h0, h0]; by_cases h : r = 0 <;> simp [h]
  · rw [if_neg h0]
    simp only [State.withThr_thr]
    rw [getLsbD_setBit _ _ _ _ r.isLt]
    by_cases h : r = d
    · subst h; simp
    · have : r.toNat ≠ d.toNat := fun e => h (BitVec.eq_of_toNat_eq e)
      simp [h, this]
theorem regOnly_setPred (s : State) (pg : Nat) (p : Pfx) (d : PredNo) (v : Bool) :
   ((s.setPred d v).retire pg p).pred d = predBack d v ∧ s.RegisterOnly ((s.setPred d v).retire pg p) [] [d] (s.nextPc pg p) := by
  constructor
  · have := pred_setPred s d d v
    simp only [State.pred, State.retire, State.retireTo] at this ⊢; simpa using this
  · apply regOnly_retire
    · simp
    · intro r _; unfold State.reg; simp
    · intro q hq; rw [pred_setPred]; simp at hq; simp [hq]
    · simp [Arch.specials]
    · intro a; simp [State.tagAt, State.fullAt, State.psnAt]
    · simp [Thread.SameSelf]
    · simp [State.surroundings]
    · simp
    · simp
    · simp

end Sys2Proof.Machine
end

