-- ==== Sys2Proof/Laws/Ops.lean ====
section
/-! SUPPORT. What each shared operation of Machine/Ops.lean can do, said once: guards, levels, checks, traps, transfers and returns
(spec/02_encoding.md R35, R46; spec/04_threads_registers.md R77, R95; spec/16_traps_preemption.md R361-R369). -/
namespace Sys2Proof.Machine

-- guards, levels and boundaries
theorem guarded_of_holds {pg : Nat} {p : Pfx} {s : State} {k : State → State} (h : s.guardHolds p = true) :
    guarded pg p s k = .next (k s) := by simp [guarded, h]

theorem guarded_of_not {pg : Nat} {p : Pfx} {s : State} {k : State → State} (h : s.guardHolds p = false) :
    guarded pg p s k = .next (s.retire pg p) := by simp [guarded, h]

/-- A guarded meaning always answers a next state. -/
theorem guarded_next (pg : Nat) (p : Pfx) (s : State) (k : State → State) : ∃ t, guarded pg p s k = .next t := ⟨_, rfl⟩

/-- Guarded off, an instruction only retires (R35). -/
theorem retire_registerOnly (s : State) (pg : Nat) (p : Pfx) : s.RegisterOnly (s.retire pg p) [] [] (s.nextPc pg p) :=
  regOnly_retire s s pg p [] [] rfl (fun _ _ => rfl) (fun _ _ => rfl) rfl (fun _ => ⟨rfl, rfl, rfl, rfl⟩) ⟨rfl, rfl, rfl, rfl, rfl, rfl⟩
    rfl rfl rfl rfl

theorem sysOnly_of_system {i : Instr} {pg : Nat} {p : Pfx} {s : State} {k : State → State} (h : s.thr.priv ≠ 0) :
    sysOnly i pg p s k = guarded pg p s k := by simp [sysOnly, h]

theorem sysOnly_of_user {i : Instr} {pg : Nat} {p : Pfx} {s : State} {k : State → State} (h : s.thr.priv = 0) :
    sysOnly i pg p s k = .next (s.privileged i) := by simp [sysOnly, h]

theorem boundary_of_closed {s : State} {k : State → State} (h : s.thr.intervalOpen = false) : s.boundary k = k s := by
  simp [State.boundary, h]

theorem boundary_of_open {s : State} {k : State → State} (h : s.thr.intervalOpen = true) : s.boundary k = s.parkOn .follower := by
  simp [State.boundary, h]

-- checks (R8, R77)
theorem checked_ok {α : Type} {s : State} {a : α} {k : α → State} : s.checked (.ok a) k = k a := rfl

theorem checked_error {α : Type} {s : State} {c : Nat} {v : Word} {k : α → State} :
    s.checked (.error (c, v)) k = s.takeTrap c v := rfl

/-- CheckCap grants exactly what the capability covers. -/
theorem checkCap_ok {r : Reg} {n : Nat} {perm : BitVec 9} {v : VAddr} : checkCap r n perm = .ok v ↔ r.Covers n perm ∧ v = r.cursor := by
  constructor
  · intro h
    simp only [checkCap] at h
    split at h
    · cases h
    split at h
    · cases h
    split at h
    · cases h
    split at h
    · cases h
    rename_i h1 h2 h3 h4
    simp only [Bool.not_eq_true', Bool.or_eq_true, decide_eq_true_eq, not_or, Bool.not_eq_false] at h1 h2 h3 h4
    injection h with h
    exact ⟨⟨h1, h2, by omega, by omega, by omega, by omega⟩, h.symm⟩
  · rintro ⟨⟨h1, h2, h3, h4, h5, h6⟩, rfl⟩
    unfold checkCap
    rw [if_neg (by simp [h1]), if_neg (by simp [h2]), if_neg (by simp; omega), if_neg (by simpa using h6)]

theorem checkCap_of_covers {r : Reg} {n : Nat} {perm : BitVec 9} (h : r.Covers n perm) : checkCap r n perm = .ok r.cursor :=
  checkCap_ok.mpr ⟨h, rfl⟩

theorem checkCap_untagged {r : Reg} {n : Nat} {perm : BitVec 9} (h : r.tag = false) : checkCap r n perm = .error (0x03, 0) := by
  simp [checkCap, h]

theorem checkCap_permission {r : Reg} {n : Nat} {perm : BitVec 9} (h : r.tag = true) (hp : r.can perm = false) :
    checkCap r n perm = .error (0x05, r.cursor.setWidth 64) := by simp [checkCap, h, hp]

theorem checkCap_span {r : Reg} {n : Nat} {perm : BitVec 9} (h : r.tag = true) (hp : r.can perm = true)
    (hs : r.cursor.toNat < r.base ∨ r.limit < r.cursor.toNat + n ∨ 2 ^ 48 < r.cursor.toNat + n) :
    checkCap r n perm = .error (0x04, r.cursor.setWidth 64) := by
  unfold checkCap
  rw [if_neg (by simp [h]), if_neg (by simp [hp]), if_pos (by simpa [or_assoc] using hs)]

theorem checkCap_alignment {r : Reg} {n : Nat} {perm : BitVec 9} (h : r.tag = true) (hp : r.can perm = true)
    (hb : r.base ≤ r.cursor.toNat) (hl : r.cursor.toNat + n ≤ r.limit) (ht : r.cursor.toNat + n ≤ 2 ^ 48)
    (ha : r.cursor.toNat % n ≠ 0) : checkCap r n perm = .error (0x06, r.cursor.setWidth 64) := by
  unfold checkCap
  rw [if_neg (by simp [h]), if_neg (by simp [hp]), if_neg (by simp; omega), if_pos ha]

-- traps (R361-R366)
@[simp] theorem saveTrap_trapSaved (s : State) (c : Nat) (v : Word) : s.TrapSaved (s.saveTrap c v) c v := ⟨rfl, rfl, rfl, rfl⟩

/-- A cause that goes to TVEC, raised at user level with an executable TVEC and no interval open (R361-R363). -/
theorem takeTrap_entersTvec {s : State} {c : Nat} {v : Word} (hi : s.thr.intervalOpen = false) (hp : s.thr.priv = 0)
    (hc : toTvec c = true) (ht : s.tvec.Executable) : s.EntersTvec (s.takeTrap c v) c v := by
  have e : s.takeTrap c v = ((s.saveTrap c v).enterVector s.tvec).clearRounding := by
    simp [State.takeTrap, hi, hp, State.trapUser, hc, checkCap_of_covers ht]
  rw [e]
  refine { saved := ⟨rfl, rfl, rfl, rfl⟩, pcc := rfl, stat := rfl, regs := rfl, preds := rfl, retc := rfl, memory := ?_, around := rfl }
  intro a; exact ⟨rfl, rfl, rfl, rfl⟩

/-- Any other cause at user level waits for system software, but for consumed poison of a gang that rolls back (R361, R363, R344). -/
theorem takeTrap_holds {s : State} {c : Nat} {v : Word} (hi : s.thr.intervalOpen = false) (hp : s.thr.priv = 0)
    (hc : toTvec c = false) (h0 : c ≠ 0x0A) : s.takeTrap c v = (s.saveTrap c v).parkOn (.trapHold c v) := by
  simp [State.takeTrap, hi, hp, State.trapUser, hc, h0]

/-- At system level every cause goes to SVEC, PCC being saved in SPCC, where SVEC is executable (R366). -/
theorem takeTrap_entersSvec {s : State} {c : Nat} {v : Word} (hi : s.thr.intervalOpen = false) (hp : s.thr.priv = 1)
    (ht : (s.tile s.tileNo).svec.Executable) :
    s.takeTrap c v = (((s.saveTrap c v).modTile s.tileNo fun x => { x with spcc := s.thr.pcc }).enterVector (s.tile s.tileNo).svec) := by
  simp [State.takeTrap, hi, hp, State.trapSystem, checkCap_of_covers ht]

/-- A trap leaves memory as it was. -/
theorem takeTrap_memory (s : State) (c : Nat) (v : Word) :
    (s.takeTrap c v).mem = s.mem ∧ (s.takeTrap c v).tags = s.tags ∧ (s.takeTrap c v).full = s.full ∧ (s.takeTrap c v).psn = s.psn ∧
      (s.takeTrap c v).psnBits = s.psnBits := by
  unfold State.takeTrap State.trapUser State.trapSystem State.stopSlot State.consumePoison
  simp only
  repeat' split
  all_goals exact ⟨rfl, rfl, rfl, rfl, rfl⟩

theorem State.Canonical.takeTrap {s : State} (h : s.Canonical) (c : Nat) (v : Word) : (s.takeTrap c v).Canonical :=
  have ⟨h1, h2, h3, h4, h5⟩ := takeTrap_memory s c v
  h.of_eq h1 h2 h3 h4 h5

theorem State.Canonical.retire {s : State} (h : s.Canonical) (pg : Nat) (p : Pfx) : (s.retire pg p).Canonical :=
  h.of_eq rfl rfl rfl rfl rfl

theorem State.Canonical.withThr {s : State} (h : s.Canonical) (f : Thread → Thread) : (s.withThr f).Canonical :=
  h.of_eq rfl rfl rfl rfl rfl

theorem State.Canonical.modTile {s : State} (h : s.Canonical) (t : Nat) (f : Tile → Tile) : (s.modTile t f).Canonical :=
  h.of_eq rfl rfl rfl rfl rfl

theorem State.Canonical.appendTrap {s : State} (h : s.Canonical) (t : Nat) (r : TrapRec) : (s.appendTrap t r).Canonical := by
  simp only [State.appendTrap]
  exact State.Canonical.modTile (h.poke _ _) _ _

theorem State.Canonical.queueTrap {s : State} (h : s.Canonical) (t : Nat) (r : TrapRec) : (s.queueTrap t r).Canonical := by
  simp only [State.queueTrap]
  split
  · exact h.appendTrap t r
  · split
    · exact h.modTile _ _
    · exact h.modTile _ _

-- transfers (R95)
/-- Control goes to a capability that may be executed. -/
theorem transfer_goesTo {s : State} {c : Reg} (h : c.Executable) : s.GoesTo (s.transfer c) c [] := by
  have e : s.transfer c = s.withThr fun th => { th with pcc := c }.countRetired := by
    simp only [State.transfer, checkCap_of_covers h, checked_ok]
  rw [e]
  refine { pcc := by simp, retc := by simp, regs := fun r _ => by simp [State.reg], preds := fun q _ => by simp [State.pred],
           specials := by simp [Arch.specials], stat := fun k hk => ?_, memory := fun a => ⟨rfl, rfl, rfl, rfl⟩, sb := by simp,
           around := rfl }
  simpa using cr_stat { s.thr with pcc := c } k hk

-- finding things again
theorem assocGet_assocSet {α : Type} (k j : Nat) (d v : α) (l : List (Nat × α)) :
    assocGet j d (assocSet k v l) = if j = k then v else assocGet j d l := by
  induction l with
  | nil => simp [assocSet, assocGet, eq_comm]
  | cons e r ih =>
    obtain ⟨x, w⟩ := e
    unfold assocSet
    split
    · rename_i h; subst h; by_cases h : j = x
      · simp [assocGet, h]
      · simp [assocGet, h, Ne.symm h]
    · rename_i h; by_cases h2 : x = j
      · subst h2; simp [assocGet, h]
      · simp [assocGet, h2, ih]

@[simp] theorem tile_modTile (s : State) (t u : Nat) (f : Tile → Tile) :
    (s.modTile t f).tile u = if u = t then f (s.tile t) else s.tile u := assocGet_assocSet t u Tile.reset (f (s.tile t)) s.tiles

@[simp] theorem core_modCore (x : Tile) (c d : Nat) (f : Core → Core) :
    (x.modCore c f).core d = if d = c then f (x.core c) else x.core d := assocGet_assocSet c d Core.reset (f (x.core c)) x.cores

@[simp] theorem zone_modZone (s : State) (z y : Nat) (f : Zone → Zone) :
    (s.modZone z f).zone y = if y = z then f (s.zone z) else s.zone y := assocGet_assocSet z y Zone.reset (f (s.zone z)) s.zones

@[simp] theorem module_modModule (s : State) (m n : Nat) (f : Module → Module) :
    (s.modModule m f).module n = if n = m then f (s.module m) else s.module n := assocGet_assocSet m n Module.reset (f (s.module m)) s.modules

@[simp] theorem port_modPort (s : State) (m n : Nat) (f : Port → Port) :
    (s.modPort m f).port n = if n = m then f (s.port m) else s.port n := assocGet_assocSet m n Port.reset (f (s.port m)) s.ports

end Sys2Proof.Machine
end

