-- ==== Sys2Proof/Machine/Reserve.lean ====
section
/-! DEFINITION. The system reserve of a tile as bytes at its addresses (spec/07_home_memory.md R157, R163; spec/15_resilience.md R330-R335, R340,
R349).  No descriptor and no window reaches the reserve (R157, R182), so State holds these regions as typed lists; here each is laid out where
the spec puts it. -/
namespace Sys2Proof.Machine

/-- A range of a vault: its first address and its bytes. -/
abbrev Extent := Nat × List Byte

/-- The seven metadata bits of a sector (R167): poison, four full/empty bits, two granule tags. -/
def sectorFlags (psn : Bool) (full tags : List Bool) : List (Nat × Nat) := (1, bit psn) :: (full ++ tags).map fun b => (1, bit b)

/-- The 16 check bits of a sector, over its data and its metadata (R163, R167): a function that the spec does not give (log 51). -/
def sectorCheck (data : List Byte) (psn : Bool) (full tags : List Bool) : BitVec 16 :=
  Config.checkBits (ofBytes data + 2 ^ 256 * packBits (sectorFlags psn full tags))

/-- Metadata of a sector as an undo record or a log header keeps it, in 8 bytes: check bits, poison, four full/empty bits, two granule tags
(R332). -/
def sectorMeta (data : List Byte) (psn : Bool) (full tags : List Bool) : List Byte :=
  bytesOf 8 (packBits ((16, (sectorCheck data psn full tags).toNat) :: sectorFlags psn full tags))

/-- What a sector of a vault or of the slice stores beside its data, at a key (R163, R167). -/
def State.sectorMetaAt (s : State) (pa : Nat) : List Byte :=
  let b := s.block (pa / 32 * 32) 32
  sectorMeta b.data (b.psn.getD 0 false) b.full b.tags

/-- Metadata of the first four sectors of a block. -/
def Block.meta (b : Block) : List Byte :=
  (List.range 4).flatMap fun i =>
    sectorMeta ((b.data.drop (32 * i)).take 32) (b.psn.getD i false) ((b.full.drop (4 * i)).take 4) ((b.tags.drop (2 * i)).take 2)

/-- The 256 bytes of an undo record (R332): ADDR, KIND, LGEN, ASID, STK, reserved, META and DATA, from its first byte on. -/
def Undo.bytes (u : Undo) : List Byte :=
  bytesOf 16 (u.addr / 128 % 2 ^ 20) ++ bytesOf 4 u.kind ++ bytesOf 16 u.lgen ++ bytesOf 12 u.asid ++ bytesOf 16 u.stk ++ List.replicate 32 0 ++
  u.block.meta ++ ((u.block.data ++ List.replicate 128 0).take 128)

/-- The undo ring (R157, R330): record j of a gang in the segment of 4,096 records of the quarter number that it holds as its j / 4,096-th. -/
def State.undoArea (s : State) (t : Nat) : List Extent :=
  (s.tile t).resid.flatMap fun r =>
    let mine := (s.tile t).undo.filter fun u => u.asid = r.asid && u.lgen = r.lgen
    (mine.zipIdx.take (4096 * r.quarters.length)).map fun (u, j) =>
      (s.areaBase t r.ltn (0x00880000 + r.quarters.getD (j / 4096) 0 * 2 ^ 20 + j % 4096 * 256), u.bytes)

/-- The scratchpad snapshot area (R157, R335): each block with its snap bit at its own offset. -/
def State.snapshotArea (s : State) (t : Nat) : List Extent :=
  (s.tile t).snaps.map fun b =>
    let w := (s.tile t).owner (quarterOf b.base)
    (s.areaBase t (s.entryName t (qownAsid w) (qownGen w)) (0x00C80000 + scratchOff b.base), b.data)

/-- An item of a commit record, which carries its gang's ASID, LGEN and stroke number (R331), its kind, core or mailbox and length (log 38). -/
def Commit.item (c : Commit) (kind place : Nat) (bs : List Byte) : List Byte :=
  bytesOf 16 (packBits [(12, c.asid), (16, c.lgen), (64, c.stk), (4, kind), (8, place), (16, bs.length)]) ++ bs

/-- The items of a commit record (R331): contexts, hardware-deque records, messages, tag bitmaps, event-engine context, block map. -/
def Commit.items (c : Commit) : List (List Byte) :=
  (c.threads.map fun th => c.item 0 0 th.record) ++
  (c.deques.flatMap fun (core, rs) => rs.map fun r => c.item 1 core (bytesOf 64 r.bits)) ++
  (c.mbx.flatMap fun (k, ms) => ms.map fun m => c.item 2 k (bytesOf 32 m.data.toNat)) ++
  (c.tags.map fun (core, m) => c.item 3 core (bytesOf 8 m.tags.toNat ++ bytesOf 8 m.ovf.toNat)) ++
  (c.ev.ctx.toList.map fun e => c.item 4 0 (e.area none)) ++
  [c.item 5 0 (c.bmap.flatMap fun e => bytesOf 4 (scratchOff e.1 / 1024 * 2 + e.2))]

/-- Where a copy of a commit begins in a commit-record area, by the lowest of its quarters: 256 KiB for each quarter, 128 KiB for each copy
(R331). -/
def Commit.place (c : Commit) : Nat := (c.quarters.foldl min 3) * 2 ^ 18 + c.copy * 2 ^ 17

/-- The commit record area (R157, R331), each commit's items as one list. -/
def State.commitArea (s : State) (t : Nat) : List Extent :=
  (s.tile t).commits.map fun c => (s.areaBase t c.ltn 0x00D40000 + c.place, c.items.flatten)

/-- Event state of a gang's banks as its shadow holds it (R340): each state word and each dynamics record under its number. -/
def EvImage.bytes (e : EvImage) : List Byte :=
  (e.acc.flatMap fun (i, w) => bytesOf 4 i ++ bytesOf 4 w.toNat) ++ e.dyn.flatMap fun (i, q) => bytesOf 16 i ++ bytesOf 16 q.toNat

/-- What a shadow tile keeps of a source tile (R157, R340) beside the image of the source's reserve entries and the shadow frames, which lie in its
vault: both copies of the scratchpad shadow, the image of the commit record area, the event state, and the shadow log with its headers. -/
def State.shadowArea (s : State) (u : Nat) : List Extent :=
  let base := reserveFirst (s.module (siteModule u)).mirror * 16384
  (s.tile u).shadow.flatMap fun h =>
    (h.blocks.map fun (k, b) => ((if k = 0 then 0x07E40000 else base) + scratchOff b.base, b.data)) ++
    ((h.items ++ h.pendItems).map fun c => (0x07E40000 + 768 * 1024 + c.place, c.items.flatten)) ++
    ((h.items ++ h.pendItems).map fun c => (base + 768 * 1024 + c.stk % 2 * (256 * 1024) + c.quarters.foldl min 3 * (64 * 1024), c.ev.bytes)) ++
    h.log.zipIdx.flatMap fun (e, i) =>
      [(base + 1280 * 1024 + 128 * i, e.2.data), (base + 3072 * 1024 + 16 * i, bytesOf 8 (keyVault e.2.base) ++ (e.2.meta.take 8))]

/-- Spill records, overflow messages and event-queue lines of a site for one of its logical tiles (R157, R329, R349); heap contexts lie in the vault
itself. -/
def State.entryArea (s : State) (t : Nat) (name : Ltn) : List Extent :=
  ((s.reserveEntries t name).filter fun e => 5632 * 1024 ≤ e.2.2.1).map fun e =>
    let o := e.2.2.1
    (if o < 8192 * 1024 then s.areaBase t name (0x00080000 + o) else s.queueBase t name + (o - 8192 * 1024), e.2.2.2)

/-- What stands in the reserve regions of a site that State holds as lists. -/
def State.reserve (s : State) (t : Nat) : List Extent :=
  ((s.tileName t :: (s.tile t).resid.map (·.ltn)).eraseDups.flatMap (s.entryArea t)) ++ s.undoArea t ++ s.snapshotArea t ++ s.commitArea t ++ s.shadowArea t

/-- The byte at a vault address of a site, the system reserve and the mirror reservation included. -/
def State.vaultByte (s : State) (t a : Nat) : Byte :=
  match (s.reserve t).find? fun x => decide (x.1 ≤ a) && decide (a < x.1 + x.2.length) with
  | some x => x.2.getD (a - x.1) 0
  | none => (s.bytes (vaultKey t a) 1).getD 0 0

end Sys2Proof.Machine
end

