-- ==== Sys2Proof/Tests/Base.lean ====
section
/-! SUPPORT. The small states that the tests and the witnesses start from, and the forms in which a witness shows a capability, a window
address or an arrival. -/
namespace Sys2Proof.Tests

open Sys2Proof.Machine

-- capabilities and registers
/-- Every permission but X. -/
def dataPerms : BitVec 9 := 0x1FB

/-- A capability to the whole local window of four quarters, its cursor at an offset. -/
def win (off : Nat) : Reg := mkCap 0xFF0000000000 5 24576 dataPerms (BitVec.ofNat 48 (0xFF0000000000 + off))

/-- The code of the tests' gang: 16 KiB with R and X from 0x10000 on, its cursor at an offset. -/
def code (off : Nat) : Reg := mkCap 0x10000 0 16384 (permR ||| permX) (BitVec.ofNat 48 (0x10000 + off))

/-- An integer in a register. -/
def int (v : Word) : Reg := .int v

-- the tests' gang: ASID 5, generation 7, on the sites 0 and 1 of module 0 and zone 0, with all four quarters of each
/-- An owner record of the gang (R108). -/
def ownRecord : Word := BitVec.ofNat 64 (2 ^ 63 + 7 * 2 ^ 28 + 5 * 2 ^ 16)

/-- Its residency entry on a site. -/
def resid (name : Ltn) : Resid :=
  { asid := 5, lgen := 7, ltn := name, idx := 0, quarters := [0, 1, 2, 3], weight := 1, slotFirst := 0, slotCount := 8, cxbase := some 64,
    preempted := false, quenching := false, doms := [(0, (0, 1))], recv := false, rounds := [], nrb := false, forming := false }

/-- A site of the gang, whose name cache holds both names. -/
def site (name : Ltn) : Tile :=
  { Tile.reset with
    resid := [resid name], qown := (List.range 4).map fun q => (q, ownRecord), ncache := [(0, 0), (1, 1)] }

/-- The gang. -/
def gang : Gang :=
  { asid := 5, lgen := 7, num := 1, code := code 0, tvec := code 0x800, arg := .zero, entry := 0, q := 4, rb := false, mir := false, mlo := 0, mhi := 0,
    seed := 0, tiles := [0, 1], steal := [(1, 0)], x0 := 0, y0 := 0, w := 2, h := 1, excused := [], stk := 3, committed := true, strokeOpen := false,
    lastPoison := none, order := none, commit := none, partialMir := false, bareMir := false, egress := [], stopped := false, saved := [], slots := [],
    hostBytes := [] }

/-- A thread of the gang, in slot 2 of core 0 of site 0, at the start of its code: c1 holds the window at offset 256. -/
def thread : Thread :=
  { Thread.idle with
    id := 1, asid := 5, lgen := 7, loc := .slot 0 0 2, ltn := 0, pcc := code 0, carry := 0xFFFE, regs := (Vector.replicate 16 Reg.zero).set 1 (win 256) }

/-- The domain with the gang, its thread, and everything else as after reset. -/
def demo : State :=
  { State.reset with thr := thread, tiles := [(0, site 0), (1, site 1)], gangs := [gang], nextId := 100 }

-- changes to it
/-- Registers set. -/
def regs (l : List (Nat × Reg)) (s : State) : State :=
  s.withThr fun th => { th with regs := l.foldl (fun v e => v.setIfInBounds e.1 e.2) th.regs }

/-- The thread changed. -/
def thr (f : Thread → Thread) (s : State) : State := s.withThr f

/-- The thread at system level. -/
def sys (s : State) : State := s.withThr fun th => { th with stat := th.stat ||| 0x40 }

/-- Site 0 changed. -/
def tile (f : Tile → Tile) (s : State) : State := s.modTile 0 f

/-- A core of site 0 changed. -/
def core (c : Nat) (f : Core → Core) (s : State) : State := s.modCore 0 c f

/-- The gang changed. -/
def withGang (f : Gang → Gang) (s : State) : State := { s with gangs := s.gangs.map f }

/-- Another thread added. -/
def other (th : Thread) (s : State) : State := { s with others := s.others ++ [th] }

/-- Another thread of the gang, number 2, at a place and waiting. -/
def fellow (loc : Loc) (p : Option Park) : Thread := { thread with id := 2, loc := loc, park := p }

/-- A task record of the gang. -/
def task : TaskRec :=
  { pc := 0x10040, arg1 := int 11, arg2 := int 12, jc := .zero, asid := 5, lgen := 7, hook := false, pending := [] }

/-- A request of core 0 of the other site to steal from core 1 of site 0. -/
def stealMsg : StealMsg := { id := 60, refusal := false, thief := 1, thiefCore := 0, victim := 0, victimCore := some 1, asid := 5, lgen := 7 }

/-- A store-buffer entry that writes 8 bytes. -/
def entry (seq : Nat) (data : Quad) (h : Home) : SbItem := .entry seq (.write 8 data false) 0xFF0000000008 h true .plain .tile none

/-- Another thread of the gang with a store buffer. -/
def fellowStores (sb : List SbItem) : Thread := { fellow (.slot 0 0 3) none with sb := sb }

/-- A packet of the gang that has reached a site from the other one. -/
def arrived (t : Nat) (body : Payload) : Packet :=
  { id := 50, vc := 1, len := 1, src := 1 - t, dst := t, asid := 5, lgen := 7, gen := false, turns := [], dport := 0, fwdc := 0, pos := .arrived t, body := body }

/-- An answer to a site from itself, on VC2. -/
def answer (t : Nat) (body : Payload) : Packet := { arrived t body with vc := 2, src := t }

/-- A trap record of nothing. -/
def trapRec : TrapRec := { eval := 0, epc := 0, asid := 0, lgen := 0, cause := 0, held := none, tid := 0, slot := 0, core := 0 }

/-- What a load into a register waits for. -/
def await (d : RegNo) : Await := { d := d, how := 0, pd := 0, inc := none, len := 2 }

/-- A store-buffer entry that has left in a packet. -/
def sentEntry (seq pk : Nat) : SbItem := .entry seq (.write 8 0x55 false) 0 (.tile 1 (vaultKey 1 64) 1) false .plain .tile (some pk)

/-- A superblock of the slice with four valid lines. -/
def superOf0 : Super := { sb := 3, filling := false, lines := List.replicate 4 { valid := true, dirty := false, round := none, old := none } }

/-- A capability to the data page at 0x20000, its cursor at an offset. -/
def data (off : Nat) : Reg := mkCap 0x20000 0 16384 dataPerms (BitVec.ofNat 48 (0x20000 + off))

/-- A TLB entry of the gang that maps the 16 KiB at 0x20000 to 0x14000 of every tile's own vault, for reading. -/
def dataPage : Nat × Word := (5 * 2 ^ 34 + 8, BitVec.ofNat 64 (2 ^ 62 + 2 ^ 58 + 5))

/-- Site 0 with that entry and the first lines of the page in its slice. -/
def mapped (s : State) : State :=
  s.modTile 0 fun x => { x with tlb := dataPage :: x.tlb, slice := { superOf0 with sb := superOf 0x14000 } :: x.slice }

/-- The domain with that page, 8 bytes in it and a capability to them in c2; and the same once its translation is found. -/
def vaultDemo : State := mapped (regs [(2, data 8)] (demo.poke 0x14008 [1, 2, 3, 4, 5, 6, 7, 0x88]))
def vaultDemo' : State := (vaultDemo.lookup 0 0 5 0x20008).2

/-- A message of the gang, told from others by a number. -/
def msg (n : Nat) : Msg := { src := 1, asid := 5, lgen := 7, data := BitVec.ofNat 256 (n * (2 ^ 128 + 1)) }

/-- A store-buffer entry that is a message for the other site. -/
def msgEntry (seq : Nat) : SbItem := .entry seq (.msg 1 0 7 5) 0 (.tile 1 0 1) false .plain .system none

/-- Copy tags of the gang set on core 0. -/
def tagSet (w : Word) (s : State) : State := core 0 (fun c => { c with tags := [(gangKey 5 7, { tags := w, ovf := 0 })] }) s

/-- A copy descriptor: to the other site at a window offset. -/
def descWord (off : Nat) : Word := BitVec.ofNat 64 (off * 2 ^ 19 + 1)

/-- A copy of 512 bytes of the window to the other site, not begun. -/
def copy : Copy :=
  { id := 9, asid := 5, lgen := 7, ltn := 0, core := 0, cap := win 0, n := 512, desc := descWord 64, done := 0, ended := false, miss := none,
    unmapped := none, pks := [] }

/-- A packet of the gang at a place, for a name. -/
def at_ (pos : Pos) (name : Ltn) : Packet :=
  { id := 50, vc := 1, len := 1, src := 0, dst := name, asid := 5, lgen := 7, gen := false, turns := [], dport := 0, fwdc := 0, pos := pos,
    body := .proxyLoad 1 8 0 0 }

/-- Route tables that reach the sites of router 0 of quadrant 0 without a turn. -/
def routes : RouteBank := { RouteBank.empty with quad := [(0, BitVec.ofNat 128 (2 ^ 63))] }

/-- A waiter on no word. -/
def waiter : Waiter := { pa := 0, th := 0, proxy := none, op := 0, d := 0, data := 0, va := 0, page := 0, races := 0, len := 0, src := 0, name := 0, asid := 0, lgen := 0 }

/-- A packet added. -/
def packet (p : Packet) (s : State) : State := { s with packets := s.packets ++ [p] }

/-- A chain with an inverted guard p0, which never holds. -/
def never : Pfx := { Pfx.none with xr := true, neg := true }

/-- A segment record of the gang for a level-0 domain, and the domain with it in slot 0 of the gong of zone 0. -/
def segRec : Word := BitVec.ofNat 64 (2 ^ 63 + 5 * 2 ^ 48 + 7 * 2 ^ 32 + 1)
def gongOf (f : GongSlot → GongSlot) (s : State) : State := { s with gong := [(0, f { GongSlot.empty with record := segRec })] }

/-- A thread of the gang parked in `garr` at level 0. -/
def inRound (op : GOp) (v : Word) : Thread := fellow (.slot 0 0 3) (some (.garr 0 op v 5 3))

/-- A shape record: 2 rows and 2 columns of INT8 over K of 32, A at 0, D at 64, tag 5; of a group with the tiles 1 to 3, with a handler,
with D unaligned, and a group's of 200 columns. -/
def shapeNo : Nat := 2 + 2 * 2 ^ 16 + 32 * 2 ^ 32 + 32 * 2 ^ 96 + 64 * 2 ^ 192 + 32 * 2 ^ 224 + 5 * 2 ^ 320
def shape : BitVec 512 := BitVec.ofNat 512 shapeNo
def groupShape : BitVec 512 := BitVec.ofNat 512 (shapeNo + 2 ^ 58 + 2 ^ 352 + 2 * 2 ^ 384 + 3 * 2 ^ 416)
def handledShape : BitVec 512 := BitVec.ofNat 512 (shapeNo + 2 ^ 57)
def badShape : BitVec 512 := BitVec.ofNat 512 (shapeNo + 2 ^ 192)
def bigShape : BitVec 512 := BitVec.ofNat 512 (shapeNo + 2 ^ 58 + 198 * 2 ^ 16 + 224 * 2 ^ 224 + 2 ^ 352 + 2 * 2 ^ 384 + 3 * 2 ^ 416)

/-- A queued command of that shape, the group's, and a partner's share of it. -/
def mcmd : MatCmd :=
  { seq := 20, load := false, core := 0, asid := 5, lgen := 7, ltn := 0, shape := shape, fmt := 0, src := 0, part := 0, lead := 0, leadCmd := 20,
    accepted := true, pass := 0, stopping := false, th := 1, answers := [], reports := [], flags := 0, psn := false, early := [] }
def groupCmd : MatCmd := { mcmd with shape := groupShape, accepted := false, th := 2, src := 3, answers := [(1, 0)], reports := [1, 2, 3] }
def share : MatCmd := { mcmd with seq := 21, shape := groupShape, part := 1, lead := 1 }

/-- The control word of a load of that panel. -/
def loadWord : Word := BitVec.ofNat 64 (32 * 2 ^ 16 + 32 * 2 ^ 32 + 2 * 2 ^ 52)

/-- Site 0 with the panel loaded, and a gang of four tiles with a shape record in its window. -/
def mat (f : Matrix → Matrix) (s : State) : State :=
  tile (fun x => { x with mat := f { x.mat with
    slots := [(0, { head := true, first := 0, fmt := 0, k := 32, w := 2, asid := 5, lgen := 7 })] } }) s
def record (r : BitVec 512) : State :=
  mat id (withGang (fun g => { g with tiles := [0, 1, 2, 3] }) (demo.poke (windowKey 0 [0, 1, 2, 3] 256) (bytesOf 64 r.toNat)))

/-- A row of the command in buffer 0. -/
def held : HeldRow :=
  { cmd := 20, core := 0, asid := 5, lgen := 7, buf := 0, row := 0, col := 0, n := 2, dOff := 64, fmt := 0, hent := 64, handed := false,
    ltn := 0 }

/-- A fan-out capability to 48 bytes of the window, an `evset` record that uses it, and the state with that record in its window. -/
def foCap : Reg := mkCap (0xFF0000000000 + 512) 0 48 dataPerms (BitVec.ofNat 48 (0xFF0000000000 + 512))
def evRec : Nat := 4 * 2 ^ 16 + 4 * 2 ^ 40 + 3 * 2 ^ 64 + foCap.bits.toNat * 2 ^ 128
def ev (f : EvEngine → EvEngine) (s : State) : State := tile (fun x => { x with ev := f { x.ev with own := [(0, ownRecord)] } }) s
def evDemo : State :=
  ev id ((demo.poke (windowKey 0 [0, 1, 2, 3] 256) (bytesOf 64 evRec)).setTag (windowKey 0 [0, 1, 2, 3] 272) true)

/-- The gang's context, a run of it, and an event. -/
def ectx : EvCtx :=
  { asid := 5, lgen := 7, ltn := 0, first := 0, count := 4, look := 4, ltrap := false, hzn := 3, fo := foCap, pages := [], nextCore := 0,
    fire := 2, late := 3, drop := 4, sLate := true, sDrop := false, sPsn := false }
def run : EvRun := { id := 30, asid := 5, lgen := 7, ltn := 0, left := 2, tag := 1, core := 0 }
def anEvent (tick : Nat) (idx : Nat) : Event := { tick := tick, wt := 9, idx := idx }

/-- Key and command operand of the gang, and a thread of system software that commands it. -/
def gangWord : Word := BitVec.ofNat 64 (5 * 2 ^ 16 + 7 * 2 ^ 28)
def system (s : State) : State := regs [(2, int gangWord)] (sys (thr (fun th => { th with kind := .system, asid := 0, lgen := 0 }) s))

/-- A coupled thread with a fresh checkpoint, its fellow coupled and at the end of an interval. -/
def tandem : Tandem := Tandem.fresh thread.toArch 50 2
def coupled (f : Tandem → Tandem) : Thread :=
  { fellow (.slot 0 0 3) (some .follower) with tandem := some (f tandem), regs := (Vector.replicate 16 Reg.zero).set 1 (int 3), sb := [entry 60 1 (.tile 0 8 0)] }

/-- A line in the gang's round, and the slice that holds it. -/
def roundLine : Line := { valid := true, dirty := true, round := some (gangKey 5 7), old := none }
def roundSuper : Super := { sb := 3, filling := false, lines := [roundLine, roundLine, Line.empty, Line.empty] }

/-- The gang in a commit at both sites, its progress at site 0, and a module with a reservation for shadows. -/
def commitRun : CommitRun := { todo := [0, 1], req := none, slot := 0 }
def committing (r : CommitRun) (s : State) : State := withGang (fun g => { g with commit := some r, mir := true }) s
def items : Commit :=
  { copy := 0, live := true, asid := 5, lgen := 7, ltn := 0, quarters := [0, 1, 2, 3], stk := 4, threads := [], deques := [], spill := [], mbx := [], mbxOvf := [], tags := [],
    ev := { ctx := none, acc := [], dyn := [], queue := [] }, bmap := [] }
def phase : Phase :=
  { g := gangKey 5 7, lines := [1536], blocks := [], items := [items], full := false, sent := false, acked := false, short := false,
    bare := false }
def mirrorPk : Packet :=
  { id := 50, vc := 3, len := 1, src := 0, dst := ltnOf 0 9 0, asid := 0, lgen := 0, gen := false, turns := [], dport := 0, fwdc := 0,
    pos := .arrived 2304, body := .mirror 0 (gangKey 5 7) }
def mirrored (s : State) : State := s.modModule 0 fun m => { m with mirror := 4 }

/-- A port window to 2 MiB of the vault of site 0 whose first lines are in its slice, and a write held for it. -/
def winDesc : Word := BitVec.ofNat 64 (2 ^ 62 + 128)
def port (f : Port → Port) (s : State) : State :=
  (s.modPort 0 fun p => f { p with windows := [(0, winDesc)] }).modTile 0 fun x => { x with slice := [{ superOf0 with sb := superOf 0x200000 }] }
def stripeDesc : Word := BitVec.ofNat 64 (2 ^ 63)
def heldWrite : HeldWrite := { id := 70, seq := 1, relaxed := false, desc := winDesc, off := 8, data := [1, 2, 3, 4] }

/-- A window of a group that is being reshelved. -/
def striped : State :=
  (demo.modPort 0 fun p => { p with windows := [(0, stripeDesc)] }).modZone 0 fun z => { z with reshelving := true }

/-- A stitch link. -/
def linked (l : Link) : State := ({ demo with links := [(4, l)] } : State).modModule 0 fun m => { m with stitch := [(4, 644)] }

/-- A read of a host by the gang that waits at its port. -/
def hostRead : Packet := { arrived 0 (.hostLoad 2 8 0x20008 0 0x1000) with dst := 0 }

/-- A launch record for one tile and one thread; the domain with it in slot 3, when the gang is ready for it, in a state of the slot. -/
def launchNo : Nat :=
  (code 0).bits.toNat + (code 0x800).bits.toNat * 2 ^ 128 + 5 * 2 ^ 448 + 7 * 2 ^ 460 + 3 * 2 ^ 478 + 2 ^ 480 + 2 ^ 520 + 2 ^ 536
def launchRec : BitVec 2048 := BitVec.ofNat 2048 launchNo
def launch (phase st : Nat) : State :=
  (({ tile (fun x => { x with resid := [{ resid 0 with doms := [(2, (0, 1))] }] }) demo with thr := Thread.idle } : State).modModule 0 fun m =>
    { m with phase := phase }).modPort 0 fun p => { p with slots := [(3, launchRec)], lstat := [(3, BitVec.ofNat 64 st)], armed := [3] }

/-- A stopped thread of system software, and a gang that spans two modules. -/
def stopped : Thread := { fellow (.slot 0 8 1) (some .stopped) with kind := .system }
def wide : Gang := { gang with mlo := 0, mhi := 1 }

/-- The domain with VL of n and streams at the window offsets 256, 512 and 768. -/
def streams (n : Nat) : State := regs [(2, win 512), (3, win 768)] (thr (fun th => { th with vl := BitVec.ofNat 15 n }) demo)

/-- The same with 8 bytes at the offset 256. -/
def indexed : State := (streams 2).poke (windowKey 0 [0, 1, 2, 3] 256) [1, 0, 0, 0, 5, 0, 0, 0]

-- forms of a witness
/-- The state that a meaning answers, and the given one where it answers none. -/
def after (i : Instr) (s : State) : State :=
  match exec i s with
  | .next t => t
  | _ => s

theorem wit_after (i : Instr) (s : State) (h : (match exec i s with | .next _ => true | _ => false) = true) :
    exec i s = .next (after i s) := by
  unfold after
  revert h
  cases exec i s <;> simp

theorem wit_covers (r : Reg) (n : Nat) (p : BitVec 9)
    (h : (r.tag && r.can p && decide (r.base ≤ r.cursor.toNat) && decide (r.cursor.toNat + n ≤ r.limit) &&
      decide (r.cursor.toNat + n ≤ 2 ^ 48) && decide (r.cursor.toNat % n = 0)) = true) : r.Covers n p := by
  simp only [Bool.and_eq_true, decide_eq_true_eq] at h
  obtain ⟨⟨⟨⟨⟨h1, h2⟩, h3⟩, h4⟩, h5⟩, h6⟩ := h
  exact ⟨h1, h2, h3, h4, h5, h6⟩

theorem wit_executable (r : Reg)
    (h : (r.tag && r.can permX && decide (r.base ≤ r.cursor.toNat) && decide (r.cursor.toNat + 2 ≤ r.limit) &&
      decide (r.cursor.toNat + 2 ≤ 2 ^ 48) && decide (r.cursor.toNat % 2 = 0)) = true) : r.Executable := wit_covers r 2 permX h

theorem wit_granted (r : Reg) (n : Nat) (p : BitVec 9) (h : r.Covers n p) : ∃ v, checkCap r n p = .ok v := ⟨_, checkCap_of_covers h⟩

theorem wit_inWindow (s : State) (va : VAddr) (n : Nat)
    (h : (inWindow va && decide (winOffset va + n ≤ windowBytes s.quarters.length) && s.quarters.all fun q => decide (q < 4)) = true) :
    s.InWindow va n := by
  simp only [Bool.and_eq_true, decide_eq_true_eq, List.all_eq_true] at h
  exact ⟨h.1.1, h.1.2, h.2⟩

theorem wit_arrives (s : State) (pk : Nat) (p : Packet) (t : Nat) (h : decide (s.packet? pk = some p ∧ s.arrivedAt p = some t) = true) :
    s.Arrives pk p t := by have := of_decide_eq_true h; exact this

theorem wit_only (l : List Thread) (P : Thread → Prop) (Q : Thread → Bool) (y : Thread) (hq : ∀ x, P x → Q x = true)
    (h : (l.all fun x => !Q x || decide (x = y)) = true) : ∀ x ∈ l, P x → x = y := by
  intro x hx hp
  have := List.all_eq_true.mp h x hx
  simpa [hq x hp] using this

theorem wit_noRequests (s : State) (n : Nat) (h : (s.tiles.all fun x => x.2.sliceq.isEmpty) = true) :
    ∀ t, ∀ r ∈ (s.tile t).sliceq, r.who ≠ n := by
  intro t r hr
  have : ∀ l : List (Nat × Tile), (l.all fun x => x.2.sliceq.isEmpty) = true → (assocGet t Tile.reset l).sliceq = [] := by
    intro l hl
    induction l with
    | nil => rfl
    | cons a l ih =>
      simp only [List.all_cons, Bool.and_eq_true, List.isEmpty_iff] at hl
      unfold assocGet
      split <;> simp_all
  rw [show (s.tile t).sliceq = [] from this s.tiles h] at hr
  exact absurd hr (by simp)

theorem wit_pair {α β : Type} (a : Option α) (b : Option β) (P : α → β → Prop) [∀ x y, Decidable (P x y)]
    (h : (match a, b with | some x, some y => decide (P x y) | _, _ => true) = true) : ∀ x y, a = some x → b = some y → P x y := by
  intro x y hx hy; subst hx; subst hy; exact of_decide_eq_true h

theorem wit_resident (s : State) (t asid lgen : Nat) (name : Ltn) (Q : Resid → Bool) (P : Resid → Prop) (hq : ∀ r, Q r = true → P r)
    (h : (match s.residentAt t asid lgen name with | some r => Q r | none => true) = true) :
    ∀ r, s.residentAt t asid lgen name = some r → P r := by
  intro r hr; rw [hr] at h; exact hq r h

theorem wit_vaultHome (k : State → Home → Out) :
    vaultDemo.withHome ((vaultDemo.reg 2).at (0 * BitVec.ofNat 64 8)).cursor 8 0 false .open k =
      k vaultDemo' (.tile 0 (vaultKey 0 0x14008) vaultDemo'.thr.ltn) := by
  have h : vaultDemo.lookup vaultDemo.tileNo vaultDemo.coreNo vaultDemo.accessAsid ((vaultDemo.reg 2).at (0 * BitVec.ofNat 64 8)).cursor.toNat =
      (some dataPage, vaultDemo') := by decide +kernel
  unfold State.withHome
  rw [if_neg (by decide +kernel), h]
  unfold State.homeUnder
  simp only [show descType dataPage.2 = 1 from by decide +kernel]
  rw [if_pos (by decide +kernel), if_neg (by decide +kernel)]
  unfold State.step7a
  rw [if_neg (by decide +kernel)]
  exact congrArg (fun h => k vaultDemo' (.tile h.1 h.2 vaultDemo'.thr.ltn)) (show (vaultDemo'.tileNo, vaultKey vaultDemo'.tileNo
    (wbits dataPage.2 12 0 * 16384 + pageOffset dataPage ((vaultDemo.reg 2).at (0 * BitVec.ofNat 64 8)).cursor)) = (0, vaultKey 0 0x14008)
    from by decide +kernel)

theorem wit_windowPages (s : State) (start limit : Nat)
    (h : (decide (start < limit) && inWindow (BitVec.ofNat 48 start) && decide (limit ≤ start / 16384 * 16384 + 16384) &&
      inWindow (BitVec.ofNat 48 (start / 16384 * 16384))) = true) (k : State → List EvPage → State) : s.withPages start limit 64 k = k s [] := by
  simp only [Bool.and_eq_true, decide_eq_true_eq] at h
  obtain ⟨⟨⟨h1, h2⟩, h3⟩, h4⟩ := h
  have hp : State.foPages limit 65 start s = ([(start, .page { va := start / 16384 * 16384, bits := 14, at' := 0, stale := false })], s) := by
    rw [State.foPages, if_neg (by omega), if_pos h2, State.foPages, if_pos (show limit ≤ pageEnd start 14 from h3)]
  unfold State.withPages
  rw [hp]
  simp [h4, FoPage.trap]

theorem wit_unitFree (s : State) (h : (s.unitQueue s.tileNo s.coreNo).isEmpty = true) :
    ∀ id, (s.unitQueue s.tileNo s.coreNo).head? = some id → id = s.thr.id := by
  intro id hid
  rw [List.isEmpty_iff.mp h] at hid
  exact absurd hid (by simp)

/-- Whether a check answers a value. -/
def okIs {ε α : Type} [DecidableEq α] (x : Except ε α) (v : α) : Bool := match x with | .ok w => decide (w = v) | .error _ => false

theorem wit_ok {ε α : Type} [DecidableEq α] {x : Except ε α} {v : α} (h : okIs x v = true) : x = .ok v := by
  cases x <;> simp_all [okIs]

theorem wit_canonical (s : State)
    (h : (Memory.wf s.mem && decide (s.tags.Pairwise (· < ·)) && decide (s.full.Pairwise (· < ·)) && decide (s.psn.Pairwise (· < ·)) &&
      decide (s.psnBits.Pairwise (· < ·))) = true) : s.Canonical := by
  simp only [Bool.and_eq_true, decide_eq_true_eq] at h
  exact ⟨h.1.1.1.1, h.1.1.1.2, h.1.1.2, h.1.2, h.2⟩

-- a reshelving
theorem wit_noShelf (s : State) (z : Zone) (t p n : Nat) (rest old : List (Nat × Nat))
    (hf : ∀ a, a + n ≤ recoveryFirst (s.module (siteModule t)).mirror * 16384 → old.any (fun x => rangesMeet a n x.1 x.2) = true) :
    s.chooseShelves z t ((p, n) :: rest) old = none := by
  have hfind : ∀ l : List Nat, l.find? (fun a => s.shelfFits z t old a n) = none := by
    intro l
    rw [List.find?_eq_none]
    intro a _ h
    simp only [State.shelfFits, Bool.and_eq_true, decide_eq_true_eq, Bool.not_eq_true'] at h
    rw [hf a h.1.1] at h
    exact absurd h.2 (by simp)
  rw [State.chooseShelves, show s.findShelf z t p n old = none from hfind _]
  rfl

theorem wit_noRoom (s : State) (zone t j p n : Nat) (z : Zone) (ps : List Nat) (old : List (Nat × Nat)) (hm : (s.homeSites zone z).contains (t, j) = true)
    (hn : shelfCount z j p * 128 = n) (ho : (s.stripePages zone).map (fun p => s.shelfOf zone t p) = old)
    (hf : ∀ a, a + n ≤ recoveryFirst (s.module (siteModule t)).mirror * 16384 → old.any (fun x => rangesMeet a n x.1 x.2) = true) :
    s.newShelves zone z (p :: ps) = none := by
  have hc := wit_noShelf s z t p n (ps.map fun p => (p, shelfCount z j p * 128)) old hf
  unfold State.newShelves
  refine if_neg fun h => ?_
  have := List.all_eq_true.mp h none (List.mem_map.mpr ⟨(t, j), by simpa using hm, by
    show Option.map _ (s.chooseShelves z t (List.map (fun p => (p, shelfCount z j p * 128)) (p :: ps)) (List.map (fun p => s.shelfOf zone t p) (s.stripePages zone))) = none
    rw [ho, List.map_cons, hn, hc]; rfl⟩)
  simp at this

/-- Zone 3 at a reshelving, and the same with half its vaults reserved and four shelves that fill what is left at index 0. -/
def reshelving : State := demo.modZone 3 fun z => { z with reshelving := true, retiring := [9], live := 160 }
def crowded : State :=
  (List.range 4).foldl (fun s p => s.poke (vaultKey 768 (p * 512)) (bytesOf 8 (p * 8388480) ++ bytesOf 2 65535))
    ((reshelving.modZone 3 fun z => { z with stripeP := 4 }).modModule 0 fun m => { m with mirror := 3 })

/-- That state with the bindings that the zone is to have. -/
def toBe (s : State) : State := s.modZone 3 fun x => { x with binds := (s.zone 3).reshelved.binds }
theorem crowded_pages : crowded.stripePages 3 = [0, 1, 2, 3] := by decide +kernel
theorem crowded_idle : (crowded.gangs.any fun g => crowded.usesGroup 3 g && (g.order.isSome || g.stopped)) = false := by
  rw [show crowded.gangs = [gang] from by decide +kernel]
  simp [gang]
theorem crowded_none : (toBe crowded).newShelves 3 (crowded.zone 3).reshelved [0, 1, 2, 3] = none := by
  refine wit_noRoom _ _ 768 0 0 (shelfCount (crowded.zone 3).reshelved 0 0 * 128) _ _ [(0, 8388480), (8388480, 8388480), (16776960, 8388480), (25165440, 8388480)] (by decide +kernel) rfl (by decide +kernel) ?_
  have hn : 0 < shelfCount (crowded.zone 3).reshelved 0 0 := by decide +kernel
  intro a ha
  rw [show recoveryFirst ((toBe crowded).module (siteModule 768)).mirror = 1792 from by decide +kernel] at ha
  simp [rangesMeet]
  omega

end Sys2Proof.Tests
end

