-- ==== Sys2Proof/Tests/Slice0.lean ====
section
/-! SUPPORT. Tests on fixed values: well-formedness, words written out from the spec's encodings and its worked examples, numbers the spec
works out, and single instructions. -/
namespace Sys2Proof.Tests

open Sys2Proof.Machine

set_option maxRecDepth 20000
set_option Elab.async false

-- well-formedness: every check of R39 refuses an ill-formed term
/-- A well-formed instruction. -/
theorem test_wf_add : (Instr.add .none 1 2 3).wf = true := by decide +kernel

/-- R32: more than four prefixes, XP among them. -/
theorem test_wf_chain : (Instr.send { Pfx.none with xr := true, xm := true, xi := 2 } 1 2 3).wf = false ∧
    (Instr.caddi { Pfx.none with xr := true, xi := 4 } 1 2 3).wf = false := by decide +kernel

/-- R35: a guard or a negation without XR. -/
theorem test_wf_guard : (Instr.add { Pfx.none with guard := 3 } 1 2 3).wf = false ∧
    (Instr.add { Pfx.none with neg := true } 1 2 3).wf = false := by decide +kernel

/-- R30, R33: c9 without XR; a predicate has no high bit. -/
theorem test_wf_high : (Instr.add .none 9 2 3).wf = false ∧ (Instr.add { Pfx.none with xr := true } 9 2 3).wf = true := by decide +kernel

/-- R34: an immediate that the XI words present do not hold, or outside the instruction's range, or XI where none is taken. -/
theorem test_wf_imm : (Instr.movi .none 5 1000).wf = false ∧ (Instr.movi { Pfx.none with xi := 1 } 5 1000).wf = true ∧
    (Instr.shli { Pfx.none with xi := 1 } 1 2 64).wf = false ∧ (Instr.add { Pfx.none with xi := 1 } 1 2 3).wf = false := by decide +kernel

/-- R37: an order of another class, an order without XM, a scope without an order, XM where none is taken. -/
theorem test_wf_xm : (Instr.stD { Pfx.none with xm := true } 1 2 0 .acquire .field).wf = false ∧
    (Instr.ldD .none 1 2 0 .acquire .tile).wf = false ∧ (Instr.ldD { Pfx.none with xm := true } 1 2 0 .plain .field).wf = false ∧
    (Instr.add { Pfx.none with xm := true } 1 2 3).wf = false := by decide +kernel

/-- R37, R130: an element format the instruction does not take, and one that is the default refused. -/
theorem test_wf_format : (Instr.vsqrt { Pfx.none with xm := true } 1 2 false (some .i8)).wf = false ∧
    (Instr.vsqrt { Pfx.none with xm := true } 1 2 false (some .f32)).wf = true := by decide +kernel

/-- R42: c15 is not the first of a pair. -/
theorem test_wf_pair : (Instr.fcas { Pfx.none with xr := true } 15 2 3 false .plain .tile).wf =
    decide (isPair 1 0x1D = false) := by decide +kernel

/-- R45: an unassigned encoding has an unassigned point; a machine event has no encoding. -/
theorem test_wf_unassigned : (Instr.unassignedOpcode 0 0x0400 0).wf = false ∧ (Instr.unassignedOpcode 3 0xE800 1).wf = true ∧
    Instr.bellWindowClose.wf = false := by decide +kernel

-- decoding: a word of every encoded instruction, with the fields d = 1, a = 2, b = 3, p = 5, imm = 5 and every variant bit set
/-- Whether each list of words decodes to its instruction. -/
def decodes (l : List (Instr × List Half)) : Bool := l.all fun x => decide (decode x.2 = .ok x.1 x.2.length)

theorem test_decode_page0_0 : decodes
  [ (.nop .none, [0b000000_0000000000]),
    (.add .none 1 2 3, [0b000001_0010100110]),
    (.sub .none 1 2 3, [0b000010_0010100110]),
    (.mul .none 1 2 3, [0b000011_0010100110]),
    (.mulh .none 1 2 3 true, [0b000100_0010100111]),
    (.div .none 1 2 3 true, [0b000101_0010100111]),
    (.rem .none 1 2 3 true, [0b000110_0010100111]),
    (.and .none 1 2 3, [0b000111_0010100110]),
    (.or .none 1 2 3, [0b001000_0010100110]),
    (.xor .none 1 2 3, [0b001001_0010100110]),
    (.andn .none 1 2 3, [0b001010_0010100110]),
    (.shl .none 1 2 3, [0b001011_0010100110]),
    (.shr .none 1 2 3, [0b001100_0010100110]),
    (.sar .none 1 2 3, [0b001101_0010100110]),
    (.rol .none 1 2 3, [0b001110_0010100110]),
    (.min .none 1 2 3 true, [0b001111_0010100111]) ] = true := by decide +kernel

theorem test_decode_page0_1 : decodes
  [ (.max .none 1 2 3 true, [0b010000_0010100111]),
    (.addi .none 1 2 5, [0b010001_0010100101]),
    (.andi .none 1 2 5, [0b010010_0010100101]),
    (.ori .none 1 2 5, [0b010011_0010100101]),
    (.xori .none 1 2 5, [0b010100_0010100101]),
    (.shli .none 1 2 5, [0b010101_0010100101]),
    (.shri .none 1 2 5, [0b010110_0010100101]),
    (.sari .none 1 2 5, [0b010111_0010100101]),
    (.movi .none 1 5, [0b011000_0010000101]),
    (.mov .none 1 2, [0b011001_0010100000]),
    (.cmpeq .none 5 2 3 true, [0b011010_1010100111]),
    (.cmplt .none 5 2 3 true, [0b011011_1010100111]),
    (.cmple .none 5 2 3 true, [0b011100_1010100111]),
    (.cmpieq .none 5 2 5, [0b011101_1010100101]),
    (.cmpilt .none 5 2 5, [0b011110_1010100101]),
    (.clz .none 1 2 true, [0b011111_0010100001]) ] = true := by decide +kernel

theorem test_decode_page0_2 : decodes
  [ (.popc .none 1 2, [0b100000_0010100000]),
    (.ext .none 1 2 .w true, [0b100001_0010100101]),
    (.ldB .none 1 2 5 .plain .tile, [0b100010_0010100101]),
    (.ldH .none 1 2 5 .plain .tile, [0b100011_0010100101]),
    (.ldW .none 1 2 5 .plain .tile, [0b100100_0010100101]),
    (.ldD .none 1 2 5 .plain .tile, [0b100101_0010100101]),
    (.ldQ .none 1 2 5 .plain .tile, [0b100110_0010100101]),
    (.stB .none 1 2 5 .plain .tile, [0b100111_0010100101]),
    (.stH .none 1 2 5 .plain .tile, [0b101000_0010100101]),
    (.stW .none 1 2 5 .plain .tile, [0b101001_0010100101]),
    (.stD .none 1 2 5 .plain .tile, [0b101010_0010100101]),
    (.stQ .none 1 2 5 .plain .tile, [0b101011_0010100101]),
    (.ldp .none 1 2 5 .plain .tile, [0b101100_0010100101]),
    (.stp .none 1 2 5 .plain .tile, [0b101101_0010100101]),
    (.br .none 5 true 9, [0b101110_1011001001]),
    (.jmp .none 9, [0b101111_0000001001]) ] = true := by decide +kernel

theorem test_decode_page0_3 : decodes
  [ (.call .none 9, [0b110000_0000001001]),
    (.jr .none 2, [0b110001_0000100000]),
    (.callr .none 2, [0b110010_0000100000]),
    (.ret .none, [0b110011_0000000000]),
    (.rds .none 1 77, [0b110100_0011001101]),
    (.wrs .none 1 77, [0b110101_0011001101]),
    (.yield .none, [0b110110_0000000000]),
    (.trap .none 9, [0b110111_0000001001]),
    (.lea .none 1 5, [0b111000_0010000101]),
    (.cadd .none 1 2 3, [0b111001_0010100110]),
    (.caddi .none 1 2 5, [0b111010_0010100101]) ] = true := by decide +kernel

theorem test_decode_page1_0 : decodes
  [ (.pand .none 1 2 3, [0b111110_0100000000, 0b000000_0010100110]),
    (.por .none 1 2 3, [0b111110_0100000000, 0b000001_0010100110]),
    (.pxor .none 1 2 3, [0b111110_0100000000, 0b000010_0010100110]),
    (.pnot .none 1 2, [0b111110_0100000000, 0b000011_0010100000]),
    (.pmov .none 1 2, [0b111110_0100000000, 0b000100_0010100000]),
    (.cset .none 1 2 3, [0b111110_0100000000, 0b000101_0010100110]),
    (.cgetb .none 1 2, [0b111110_0100000000, 0b000110_0010100000]),
    (.cgetl .none 1 2, [0b111110_0100000000, 0b000111_0010100000]),
    (.cperm .none 1 2 3, [0b111110_0100000000, 0b001000_0010100110]),
    (.ctag .none 5 2, [0b111110_0100000000, 0b001001_1010100000]),
    (.cclr .none 1 2, [0b111110_0100000000, 0b001010_0010100000]),
    (.cgeta .none 1 2, [0b111110_0100000000, 0b001011_0010100000]),
    (.cfrom .none 1 2 3, [0b111110_0100000000, 0b001100_0010100110]),
    (.ldc .none 1 2 5 .plain .tile, [0b111110_0100000000, 0b001101_0010100101]),
    (.stc .none 1 2 5 .plain .tile, [0b111110_0100000000, 0b001110_0010100101]),
    (.lds .none 1 2 5 .plain .tile, [0b111110_0100000000, 0b001111_0010100101]) ] = true := by decide +kernel

theorem test_decode_page1_1 : decodes
  [ (.ldk .none 1 2 5 .plain .tile, [0b111110_0100000000, 0b010000_0010100101]),
    (.sts .none 1 2 5 .plain .tile, [0b111110_0100000000, 0b010001_0010100101]),
    (.fes .none 2 true, [0b111110_0100000000, 0b010010_0000100001]),
    (.fer .none 5 2 .plain .tile, [0b111110_0100000000, 0b010011_1010100000]),
    (.aadd .none 2 3 true .plain .tile, [0b111110_0100000000, 0b010100_0000100111]),
    (.aor .none 2 3 true .plain .tile, [0b111110_0100000000, 0b010101_0000100111]),
    (.aand .none 2 3 true .plain .tile, [0b111110_0100000000, 0b010110_0000100111]),
    (.axor .none 2 3 true .plain .tile, [0b111110_0100000000, 0b010111_0000100111]),
    (.amin .none 2 3 true true .plain .tile, [0b111110_0100000001, 0b011000_0000100111]),
    (.amax .none 2 3 true true .plain .tile, [0b111110_0100000001, 0b011001_0000100111]),
    (.aaddf .none 2 3 .plain .tile, [0b111110_0100000000, 0b011010_0000100110]),
    (.fadd .none 1 2 3 true .plain .tile, [0b111110_0100000000, 0b011011_0010100111]),
    (.fswp .none 1 2 3 true .plain .tile, [0b111110_0100000000, 0b011100_0010100111]),
    (.fcas .none 1 2 3 true .plain .tile, [0b111110_0100000000, 0b011101_0010100111]),
    (.fior .none 1 2 3 true .plain .tile, [0b111110_0100000000, 0b011110_0010100111]),
    (.home .none 1 2, [0b111110_0100000000, 0b011111_0010100000]) ] = true := by decide +kernel

theorem test_decode_page1_2 : decodes
  [ (.fence .none .plain .tile, [0b111110_0100000000, 0b100000_0000000000]),
    (.migr .none 2, [0b111110_0100000000, 0b100001_0000100000]),
    (.pin .none, [0b111110_0100000000, 0b100010_0000000000]),
    (.unpin .none, [0b111110_0100000000, 0b100011_0000000000]),
    (.spawn .none 2 3 5, [0b111110_0100000000, 0b100100_0100110101]),
    (.tend .none, [0b111110_0100000000, 0b100101_0000000000]),
    (.jinit .none 2 3, [0b111110_0100000000, 0b100110_0000100110]),
    (.join .none 2, [0b111110_0100000000, 0b100111_0000100000]),
    (.msend .none 1 2, [0b111110_0100000000, 0b101000_0010100000]),
    (.recv .none 1 2, [0b111110_0100000000, 0b101001_0010100000]),
    (.send .none 1 2 3, [0b111110_0100000000, 0b101010_0010100110]),
    (.waitany .none 1 2, [0b111110_0100000000, 0b101011_0010100000]),
    (.waitall .none 2, [0b111110_0100000000, 0b101100_0000100000]),
    (.ffr .none 1 2, [0b111110_0100000000, 0b101101_0010100000]),
    (.tclr .none 2, [0b111110_0100000000, 0b101110_0000100000]),
    (.brk .none 9, [0b111110_0100000000, 0b101111_0000001001]) ] = true := by decide +kernel

theorem test_decode_page1_3 : decodes
  [ (.eret .none, [0b111110_0100000000, 0b110000_0000000000]) ] = true := by decide +kernel

theorem test_decode_page2_0 : decodes
  [ (.vadd .none 1 2 3 true none, [0b111110_1000000000, 0b000000_0010100111]),
    (.vsub .none 1 2 3 true none, [0b111110_1000000000, 0b000001_0010100111]),
    (.vmul .none 1 2 3 true none, [0b111110_1000000000, 0b000010_0010100111]),
    (.vfma .none 1 2 3 true none, [0b111110_1000000000, 0b000011_0010100111]),
    (.vfms .none 1 2 3 true none, [0b111110_1000000000, 0b000100_0010100111]),
    (.vmin .none 1 2 3 true none, [0b111110_1000000000, 0b000101_0010100111]),
    (.vmax .none 1 2 3 true none, [0b111110_1000000000, 0b000110_0010100111]),
    (.vabs .none 1 2 true none, [0b111110_1000000000, 0b000111_0010100001]),
    (.vneg .none 1 2 true none, [0b111110_1000000000, 0b001000_0010100001]),
    (.vcvt .none 1 2 true .bf16 none, [0b111110_1000000110, 0b001001_0010100001]),
    (.vrcp .none 1 2 true none, [0b111110_1000000000, 0b001010_0010100001]),
    (.vrsq .none 1 2 true none, [0b111110_1000000000, 0b001011_0010100001]),
    (.vsqrt .none 1 2 true none, [0b111110_1000000000, 0b001100_0010100001]),
    (.vexp .none 1 2 true none, [0b111110_1000000000, 0b001101_0010100001]),
    (.vlog .none 1 2 true none, [0b111110_1000000000, 0b001110_0010100001]),
    (.vsin .none 1 2 true none, [0b111110_1000000000, 0b001111_0010100001]) ] = true := by decide +kernel

theorem test_decode_page2_1 : decodes
  [ (.vcos .none 1 2 true none, [0b111110_1000000000, 0b010000_0010100001]),
    (.vtanh .none 1 2 true none, [0b111110_1000000000, 0b010001_0010100001]),
    (.vpswp .none 1 2 true none, [0b111110_1000000000, 0b010010_0010100001]),
    (.vperm .none 1 2 3 true none, [0b111110_1000000000, 0b010011_0010100111]),
    (.vsum .none 1 2 true none, [0b111110_1000000000, 0b010100_0010100001]),
    (.vrmax .none 1 2 true none, [0b111110_1000000000, 0b010101_0010100001]),
    (.vdot .none 1 2 3 true none, [0b111110_1000000000, 0b010110_0010100111]),
    (.vcmp .none 1 2 3 true .le none, [0b111110_1000000011, 0b010111_0010100111]),
    (.vsel .none 1 2 3 true none, [0b111110_1000000000, 0b011000_0010100111]),
    (.vscl .none 1 2 3 true none, [0b111110_1000000000, 0b011001_0010100111]),
    (.vaxpy .none 1 2 3 true none, [0b111110_1000000000, 0b011010_0010100111]),
    (.vclmp .none 1 2 3 true none, [0b111110_1000000000, 0b011011_0010100111]),
    (.vqnt .none 1 2 3 true .bf16 none, [0b111110_1000000110, 0b011100_0010100111]),
    (.vgth .none 1 2 3 true none, [0b111110_1000000000, 0b011101_0010100111]),
    (.vsct .none 1 2 3 true none, [0b111110_1000000000, 0b011110_0010100111]),
    (.vset .none 1 3 true none, [0b111110_1000000000, 0b011111_0010000111]) ] = true := by decide +kernel

theorem test_decode_page2_2 : decodes
  [ (.vmov .none 1 2 true none, [0b111110_1000000000, 0b100000_0010100001]),
    (.vand .none 1 2 3 true none, [0b111110_1000000000, 0b100001_0010100111]),
    (.vor .none 1 2 3 true none, [0b111110_1000000000, 0b100010_0010100111]) ] = true := by decide +kernel

theorem test_decode_page3_0 : decodes
  [ (.mfmt .none 2, [0b111110_1100000000, 0b000000_0000100000]),
    (.mbld .none 2 3, [0b111110_1100000000, 0b000001_0000100110]),
    (.mmq .none 2, [0b111110_1100000000, 0b000010_0000100000]),
    (.mstat .none 1, [0b111110_1100000000, 0b000011_0010000000]),
    (.mcan .none 2, [0b111110_1100000000, 0b000100_0000100000]),
    (.hrel .none, [0b111110_1100000000, 0b000101_0000000000]),
    (.evset .none 2, [0b111110_1100000000, 0b000110_0000100000]),
    (.evdyn .none 2 3, [0b111110_1100000000, 0b000111_0000100110]),
    (.evpost .none 2 3, [0b111110_1100000000, 0b001000_0000100110]),
    (.evrun .none 2, [0b111110_1100000000, 0b001001_0000100000]),
    (.evrd .none 1 2, [0b111110_1100000000, 0b001010_0010100000]),
    (.evwr .none 2 3, [0b111110_1100000000, 0b001011_0000100110]),
    (.evcnt .none 1 2, [0b111110_1100000000, 0b001100_0010100000]),
    (.garr .none 1 2 .minu 2, [0b111110_1100001010, 0b001101_0010100000]),
    (.gset .none 2 3, [0b111110_1100000000, 0b001110_0000100110]),
    (.gstat .none 1 2, [0b111110_1100000000, 0b001111_0010100000]) ] = true := by decide +kernel

theorem test_decode_page3_1 : decodes
  [ (.dset .none 2 3, [0b111110_1100000000, 0b010000_0000100110]),
    (.tlbw .none 2 3, [0b111110_1100000000, 0b010001_0000100110]),
    (.tlbi .none 2, [0b111110_1100000000, 0b010010_0000100000]),
    (.ptsync .none, [0b111110_1100000000, 0b010011_0000000000]),
    (.namei .none 2, [0b111110_1100000000, 0b010100_0000100000]),
    (.rtsw .none 2, [0b111110_1100000000, 0b010101_0000100000]),
    (.tdm .none, [0b111110_1100000000, 0b010110_0000000000]),
    (.tchk .none, [0b111110_1100000000, 0b010111_0000000000]),
    (.halt .none, [0b111110_1100000000, 0b011000_0000000000]),
    (.cxsv .none 2, [0b111110_1100000000, 0b011001_0000100000]),
    (.cxld .none 2, [0b111110_1100000000, 0b011010_0000100000]),
    (.qnch .none 2, [0b111110_1100000000, 0b011011_0000100000]),
    (.rcmt .none 2, [0b111110_1100000000, 0b011100_0000100000]),
    (.rbak .none 2, [0b111110_1100000000, 0b011101_0000100000]),
    (.mwgt .none 2 3, [0b111110_1100000000, 0b011110_0000100110]),
    (.wfi .none, [0b111110_1100000000, 0b011111_0000000000]) ] = true := by decide +kernel

/-- The worked encodings of spec/02, 04, 06, 07, 18 and 19. -/
theorem test_decode_examples : decodes
  [ (.add .none 3 1 2, [0x0594]),
    (.stD { xr := true, guard := 3, neg := true, xm := true, xi := 0 } 9 4 2 .release .field, [0xF638, 0xFE40, 0xA8C2]),
    (.fadd .none 6 2 7 false .plain .tile, [0xF900, 0x6F2E]),
    (.garr .none 5 6 .max 2, [0xFB0E, 0x36E0]),
    (.movi { Pfx.none with xi := 1 } 5 1000, [0xF007, 0x62E8]),
    (.movi .none 5 (-24), [0x62E8]),
    (.movi { Pfx.none with xi := 1 } 7 10327, [0xF050, 0x63D7]),
    (.caddi { Pfx.none with xi := 3 } 7 1 0x20000000, [0xF020, 0xF000, 0xF000, 0xEB90]),
    (.stD { Pfx.none with xr := true, guard := 3 } 0 8 (-1) .plain .tile, [0xF530, 0xA80F]),
    (.fior { Pfx.none with xr := true } 4 15 9 false .plain .tile, [0xF900, 0xF580, 0x7A72]),
    (.aadd { Pfx.none with xr := true } 3 10 false .plain .tile, [0xF900, 0xF480, 0x5034]),
    (.aadd .none 4 5 true .plain .tile, [0xF900, 0x504B]),
    (.vmul { Pfx.none with xr := true, xm := true } 14 12 9 false (some .bf16), [0xFA00, 0xF780, 0xFC18, 0x0B42]),
    (.vcvt { Pfx.none with xm := true } 4 5 true .bf16 (some .f32), [0xFA06, 0xFC14, 0x2651]),
    (.vcmp .none 4 5 6 false .lt none, [0xFA02, 0x5E5C]),
    (.vshl { Pfx.none with xm := true } 4 5 6 true true (some .i32), [0xFA80, 0xFC0C, 0x8E5D]),
    (.vqnt { Pfx.none with xm := true } 4 5 6 false .f4b (some .f32), [0xFA0A, 0xFC14, 0x725C]),
    (.evwr { Pfx.none with xr := true, guard := 1 } 13 14, [0xFB00, 0xF590, 0x2C5C]) ] = true := by decide +kernel

/-- R45, R40: the store class refuses acquire, EVAL 0x0001_FD40; an unassigned word of page 0 is an unassigned encoding. -/
theorem test_decode_refused : (match decode [0xF638, 0xFD40, 0xA8C2] with | .bad e => decide (e.eval = 0x1FD40) | _ => false) = true ∧
    decode [0xF900, 0xE401] = .ok (.unassignedOpcode 1 0xE401 1) 2 := by decide +kernel

/-- The words of the statement EncodingsDecode. -/
theorem test_decode_statement : Obligations.EncodingsDecode := by unfold Obligations.EncodingsDecode; decide +kernel

-- numbers the spec works out
/-- The conversions of R64's example: the result and the flags NX = 16, UF = 8, OF = 4, NV = 1. -/
theorem test_convert_examples :
    ([ (Fmt.bf16, false, 0, FFmt.f32.decode 0x3F808000, 0x3F80, 16), (.bf16, false, 0, FFmt.f32.decode 0x3F818000, 0x3F82, 16),
       (.e4, false, 0, FFmt.f32.decode 0x43960000, 0x79, 16), (.e4, false, 0, FFmt.f32.decode 0x43E10000, 0x7E, 16),
       (.e4, false, 0, FFmt.f32.decode 0x43FA0000, 0x7F, 20), (.e4, true, 0, FFmt.f32.decode 0x43FA0000, 0x7E, 20),
       (.e4, false, 1, FFmt.f32.decode 0x43FA0000, 0x7E, 20), (.e5, false, 0, FFmt.f32.decode 0x38D1B717, 0x07, 16),
       (.bf16, false, 0, FFmt.f32.decode 1, 0, 24), (.f32, false, 0, FFmt.f16.decode 0x7D00, 0x7FC00000, 1),
       (.i8, false, 0, FFmt.f32.decode 0xC0600000, 0xFC, 16), (.i8, false, 1, FFmt.f32.decode 0xC0600000, 0xFD, 16),
       (.i8, false, 0, FFmt.f32.decode 0x4348B333, 127, 1), (.f32, false, 0, FVal.ofInt 16777217 0 false, 0x4B800000, 16) ].all
      fun (f, sat, rm, v, x, fl) =>
        let (y, r) := convert f sat { rm := rm, sr := false, seed := 0, fl := 0 } v
        decide (y = x) && decide (r.fl = fl)) = true := by decide +kernel

/-- R60's example of stochastic rounding: two conversions of 0x3F80_4000 to BF16 from SEED 0x9000_0001. -/
theorem test_stochastic :
    (let r0 : Rnd := { rm := 0, sr := true, seed := 0x90000001, fl := 0 }
     let (x, r1) := convert .bf16 false r0 (FFmt.f32.decode 0x3F804000)
     let (y, r2) := convert .bf16 false r1 (FFmt.f32.decode 0x3F804000)
     decide (x = 0x3F80 ∧ r1.seed = 0xA0200001 ∧ y = 0x3F81 ∧ r2.seed = 0xC0600001 ∧ r2.fl = 16)) = true := by decide +kernel

/-- R57's example: a block of scale 0x81 with the codes 5 and 9 holds 12 and -2. -/
theorem test_fp4 : (FFmt.f32.deliver .rne false (fp4Val 0x81 5)).1 = 0x41400000 ∧ (FFmt.f32.deliver .rne false (fp4Val 0x81 9)).1 = 0xC0000000 :=
  by decide +kernel

/-- R66's example: 2^24 plus 1 and 1, in groups of one and of two. -/
theorem test_accumulate : (floatCell 1 (FFmt.f32.decode 0x4B800000) [.ofInt 1 0 false, .ofInt 1 0 false] [.ofInt 1 0 false, .ofInt 1 0 false]).1 =
      0x4B800000 ∧
    (floatCell 2 (FFmt.f32.decode 0x4B800000) [.ofInt 1 0 false, .ofInt 1 0 false] [.ofInt 1 0 false, .ofInt 1 0 false]).1 = 0x4B800001 :=
  by decide +kernel

/-- R147's example: 10, -0.7 and 3.1 quantised to FP4B. -/
theorem test_quantise :
    (let vs := [FFmt.f32.decode 0x41200000, FFmt.f32.decode 0xBF333333, FFmt.f32.decode 0x40466666] ++ List.replicate 29 (FFmt.f32.decode 0)
     let (cs, k, _) := quantBlock { rm := 0, sr := false, seed := 0, fl := 0 } vs
     decide (cs.take 4 = [6, 9, 3, 0] ∧ k = 128)) = true := by decide +kernel

/-- R160's example: lines 5 and 0x0002_0001 in groups of 160 and 159. -/
theorem test_homeIndex : homeIndex 160 5 = 65 ∧ homeIndex 159 5 = 33 ∧ homeIndex 160 0x20001 = 128 ∧ homeIndex 159 0x20001 = 32 := by decide +kernel

/-- FIPS 180-4: SHA-256 of 64 zero bytes (R391). -/
theorem test_sha256 : sha256 0 = 0xf5a5fd42d16a20302798ef6ed309979b43003d2320d9f0e8ea9831a92759fb4b := by decide +kernel

/-- The example of R94: 100,001 bytes at offset 0x4000 of the window of one quarter. -/
theorem test_cset : (match narrow ((mkCap 0xFF0000000000 3 24576 dataPerms 0xFF0000004000)) 100001 with
    | .ok (r, longer) => decide (r.tag ∧ longer ∧ r.base = 0xFF0000004000 ∧ r.limit = 0xFF000001C6A4 ∧
        r.bits.extractLsb' 64 64 = 0x161A8FF000000400)
    | .error _ => false) = true := by decide +kernel

-- single instructions
/-- Whether an instruction completes and its next state has a property. -/
def runs (i : Instr) (s : State) (f : State → Bool) : Bool := match exec i s with | .next t => f t | _ => false

/-- Two integers in c2 and c3. -/
def two (a b : Word) : State := regs [(2, int a), (3, int b)] demo

/-- Whether an instruction writes an integer to c1. -/
def gives (i : Instr) (s : State) (v : Word) : Bool := runs i s fun t => t.x 1 = v && t.pc = s.pc + BitVec.ofNat 48 (2 * (encode i).length)

/-- R83: wrapping, signed and unsigned products, division by zero and of the least number. -/
theorem test_integer : gives (.add .none 1 2 3) (two (-1) 1) 0 ∧ gives (.mulh .none 1 2 3 false) (two (-1) (-1)) 0 ∧
    gives (.mulh .none 1 2 3 true) (two (-1) (-1)) 0xFFFFFFFFFFFFFFFE ∧ gives (.div .none 1 2 3 false) (two 7 0) (-1) ∧
    gives (.rem .none 1 2 3 false) (two (-7) 2) (-1) ∧ gives (.div .none 1 2 3 false) (two 0x8000000000000000 (-1)) 0x8000000000000000 ∧
    gives (.rem .none 1 2 3 true) (two 7 0) 7 := by decide +kernel

/-- R83: shifts take six bits of the count; rotation; the signed and the unsigned lesser. -/
theorem test_shift : gives (.shl .none 1 2 3) (two 3 65) 6 ∧ gives (.sar .none 1 2 3) (two (-8) 1) (-4) ∧
    gives (.rol .none 1 2 3) (two 0x8000000000000001 1) 3 ∧ gives (.min .none 1 2 3 false) (two (-1) 1) (-1) ∧
    gives (.min .none 1 2 3 true) (two (-1) 1) 1 := by decide +kernel

/-- R84-R87: sign-extended immediates, extension, bit counts of zero. -/
theorem test_immediate : gives (.andi .none 1 2 (-2)) (two 7 0) 6 ∧ gives (.ext .none 1 2 .b false) (two 0x180 0) 0xFFFFFFFFFFFFFF80 ∧
    gives (.ext .none 1 2 .h true) (two 0x18000 0) 0x8000 ∧ gives (.clz .none 1 2 false) (two 0 0) 64 ∧
    gives (.clz .none 1 2 true) (two 8 0) 3 := by decide +kernel

/-- R86: p4 is written by signed and by unsigned order. -/
theorem test_compare : runs (.cmplt .none 4 2 3 false) (two (-1) 1) (fun t => t.pred 4) ∧
    runs (.cmplt .none 4 2 3 true) (two (-1) 1) (fun t => !t.pred 4) := by decide +kernel

/-- R223: with PINX an instruction leaves PINC; `unpin` clears it. -/
theorem test_pin : runs (.nop .none) (thr (fun th => { th with stat := 8, pinx := true, pinc := 5 }) demo) (fun t => t.thr.pinc = 5) ∧
    runs (.unpin .none) (thr (fun th => { th with stat := 8, pinx := true, pinc := 5 }) demo) (fun t => t.thr.pinc = 0 && !t.thr.pinned) := by
  decide +kernel

/-- R88: a high bit of XR, the x bit and the unused field of `pnot` are refused. -/
theorem test_predicate_fields : ([[0xF900, 0xF600, 0x029E], [0xF900, 0x029F], [0xF900, 0x0E9E]].all fun ws =>
    match decode ws with | .bad _ => true | _ => false) = true := by decide +kernel

/-- R31, R76: a write of c0 is discarded. -/
theorem test_zero : runs (.add .none 0 2 3) (two 5 6) (fun t => t.x 0 = 0) = true := by decide +kernel

/-- R35: with a false guard only the PC moves, past XR and the word. -/
theorem test_guard : runs (.add { Pfx.none with xr := true, neg := true } 9 2 3) (two 5 6) (fun t => t.x 9 = 0 && t.pc = 0x10004) = true := by
  decide +kernel

/-- R96: a taken branch is relative to its own address; p1 is false at start, so `br p1` falls through. -/
theorem test_branch : runs (.br .none 1 true 8) demo (fun t => t.pc = 0x10010) ∧ runs (.br .none 1 false 8) demo (fun t => t.pc = 0x10002) := by
  decide +kernel

/-- R97: `call` leaves the address after it in c15, tagged. -/
theorem test_call : runs (.call .none 8) demo (fun t => t.pc = 0x10010 && (t.reg 15).tag && (t.reg 15).cursor = 0x10002) = true := by decide +kernel

/-- R95: a jump past the code's bounds traps with 0x04 and the target in EVAL. -/
theorem test_target : runs (.jr .none 2) (two 0x20000 0)
    (fun t => t.thr.ecause = 4 && t.thr.eval = 0x20000 && t.thr.epc = 0x10000) = true := by decide +kernel

/-- R121: the store waits in the buffer and the load takes its byte from it, zero-extended. -/
theorem test_forward : runs (.stD .none 2 1 0 .plain .tile) (two 0x80 0) (fun t => t.thr.sb.length = 1 &&
    runs (.ldB .none 3 1 0 .plain .tile) t (fun u => u.x 3 = 0x80)) = true := by decide +kernel

/-- R119: a misaligned load traps with 0x06 and the address in EVAL. -/
theorem test_align : runs (.ldD .none 3 1 0 .plain .tile) (regs [(1, win 257)] demo)
    (fun t => t.thr.ecause = 6 && t.thr.eval = 0xFF0000000101) = true := by decide +kernel

/-- R46: a system-only instruction at user level traps with 0x02. -/
theorem test_privilege : runs (.tlbw .none 2 3) demo (fun t => t.thr.ecause = 2) = true := by decide +kernel

/-- R37, R142: without XM the elements are FP32, 1.5 + 2.25 = 3.75; the stream pointers advance. -/
theorem test_vector : runs (.vadd .none 3 1 2 true none)
    (((streams 2).poke (windowKey 0 [0, 1, 2, 3] 256) [0, 0, 0xC0, 0x3F]).poke (windowKey 0 [0, 1, 2, 3] 512) [0, 0, 0x10, 0x40])
    (fun t => t.vget 768 4 = 0x40700000 && t.vget 772 4 = 0 && (t.reg 1).cursor = 0xFF0000000108) = true := by decide +kernel

/-- R172: an atomic returns the old value and wraps. -/
theorem test_atomic : runs (.fadd .none 3 1 2 true .plain .tile) (regs [(2, int 2)] (demo.poke (windowKey 0 [0, 1, 2, 3] 256) [0xFF, 0xFF, 0xFF, 0xFF, 7]))
    (fun t => t.x 3 = 0xFFFFFFFF && t.nat (windowKey 0 [0, 1, 2, 3] 256) 4 = 1 && t.nat (windowKey 0 [0, 1, 2, 3] 260) 1 = 7) = true := by decide +kernel

/-- R332: ADDR holds [26:7] of 0x4080 from byte 0 on, KIND is byte 16, LGEN byte 20, ASID byte 36, STK byte 48, DATA byte 128. -/
theorem test_undo_record :
    let u : Undo := { asid := 3, lgen := 5, stk := 7, kind := 2, addr := 0x4080, block := Block.zeros 0 128 }
    let b := ({ u with block := { u.block with data := 9 :: u.block.data.drop 1 } } : Undo).bytes
    [0, 16, 20, 36, 48, 64, 128].map (fun i => b.getD i 255) = [0x81, 2, 5, 3, 7, 0, 9] := by decide +kernel

-- reset and a step
/-- The memory after reset is in canonical form. -/
theorem test_reset_canonical : State.reset.Canonical := wit_canonical _ (by decide +kernel)

/-- A step after reset runs the instruction placed for it: `movi c5, #-24`. -/
theorem test_step : (match step (State.reset.withFetchWord 16 0x62E8) with | .next t => decide (t.x 5 = -24 ∧ t.pc = 0x10002) | _ => false) = true := by
  decide +kernel

end Sys2Proof.Tests
end

