-- ==== Sys2Proof/Tests/Witness.lean ====
section
/-! SUPPORT. For every statement with hypotheses, and every clause of one, a concrete state and operands that meet all the hypotheses
together. -/
namespace Sys2Proof.Tests

open Sys2Proof.Machine

set_option maxRecDepth 20000
set_option Elab.async false
set_option linter.unusedVariables false

-- a step
/-- The reset state with `add c1, c2, c3` placed; the state of its core's turn; and the one in which it is fetched. -/
def stepDemo : State := State.reset.withFetchWord 16 0b0000010010100110
def stepDemo1 : State := { stepDemo.advanceTime with schedule := stepDemo.advanceTime.background }
def stepDemo2 : State := ((stepDemo1.modCore 0 0 fun k => k.issued (some 2)).focus 0).unpark

/-- What a fetch answers as an instruction, if it does. -/
def fetched (f : Fetched) : Option Instr := match f with | .instr i _ => some i | .stop _ => none
def fetchedIn (f : Fetched) (s : State) : State := match f with | .instr _ s => s | .stop _ => s

theorem wit_fetched (f : Fetched) (i : Instr) (s : State) (h : fetched f = some i) : f = .instr i (fetchedIn f s) := by
  cases f <;> simp_all [fetched, fetchedIn]

/-- The same machine with a vector instruction under way in the thread that is to issue. -/
def vecDemo : State :=
  (stepDemo.withThr fun th => { th with vec := { th.vec with instr := some (.vset .none 1 2 false none) } })
def vecDemo1 : State := { vecDemo.advanceTime with schedule := vecDemo.advanceTime.background }
def vecDemo2 : State := ((vecDemo1.modCore 0 0 fun k => k.issued (some 2)).focus 0).unpark

theorem witness_StepRunsDecoded_goesOn : ∃ (s s1 s2 : State) (t c m n id : Nat) (i : Instr), s.schedule = [] ∧
    s.thr.loc = .slot t c m ∧ s1 = { s.advanceTime with schedule := s.advanceTime.background } ∧ s1.choose t c = some (n, id) ∧
    s2 = ((s1.modCore t c fun k => k.issued (some n)).focus id).unpark ∧ s2.thr.vec.instr = some i :=
  ⟨vecDemo, vecDemo1, vecDemo2, 0, 0, 2, 2, 0, .vset .none 1 2 false none, rfl, by decide +kernel, rfl, by decide +kernel, rfl, by decide +kernel⟩

theorem witness_StepRunsDecoded_fetched : ∃ (s s1 s2 : State) (t c m n id : Nat) (i : Instr) (s3 : State), s.schedule = [] ∧
    s.thr.loc = .slot t c m ∧ s1 = { s.advanceTime with schedule := s.advanceTime.background } ∧ s1.choose t c = some (n, id) ∧
    s2 = ((s1.modCore t c fun k => k.issued (some n)).focus id).unpark ∧ s2.thr.vec.instr = none ∧ s2.fetch = .instr i s3 :=
  ⟨stepDemo, stepDemo1, stepDemo2, 0, 0, 2, 2, 0, .add .none 1 2 3, _, rfl, by decide +kernel, rfl, by decide +kernel, rfl, by decide +kernel,
    wit_fetched _ _ State.reset (by decide +kernel)⟩

theorem witness_StepRunsDecoded_held : ∃ (s s1 s2 : State) (t c m n id : Nat) (ws : List Half) (i : Instr) (k : Nat) (e : Nat × Word),
    s.schedule = [] ∧ s.thr.loc = .slot t c m ∧ s1 = { s.advanceTime with schedule := s.advanceTime.background } ∧
    s1.choose t c = some (n, id) ∧ s2 = ((s1.modCore t c fun k => k.issued (some n)).focus id).unpark ∧ decode ws = .ok i k ∧
    s2.thr.vec.instr = none ∧
    ((∀ r ∈ (s2.tile s2.tileNo).sliceq, r.who ≠ s2.thr.id) ∨ ∀ r ∈ (s2.tile s2.tileNo).sliceq, r.who = s2.thr.id) ∧
    (s2.lookup s2.tileNo s2.coreNo s2.accessAsid s2.pc.toNat).1 = some e ∧
    ∀ j w, j < k → ws[j]? = some w → s2.HoldsWord e (s2.pc + BitVec.ofNat 48 (2 * j)) w :=
  ⟨stepDemo, stepDemo1, stepDemo2, 0, 0, 2, 2, 0, [0b0000010010100110], .add .none 1 2 3, 1, placedPage 0, rfl, by decide +kernel, rfl,
    by decide +kernel, rfl, by decide +kernel, by decide +kernel, by decide +kernel, by decide +kernel, by
      intro j w hj hw
      obtain rfl : j = 0 := by omega
      obtain rfl : (0b0000010010100110 : Half) = w := by simpa using hw
      exact ⟨by rfl, by decide +kernel, by decide +kernel, 0x4000, by decide +kernel, by decide +kernel, by decide +kernel⟩⟩

-- the machine as a whole
theorem witness_StepKeepsMemoryCanonical : ∃ (s : State) (t : State),
    s.Canonical ∧
    step s = Host.Outcome.next t :=
  ⟨{ demo with schedule := [.event .bellWindowClose] }, _, (wit_canonical _ (by decide +kernel)), (rfl)⟩

theorem witness_DecodeOfEncode : ∃ (i : Instr) (rest : List Half),
    i.wf = true :=
  ⟨(.cset never 9 10 11), [0xFFFF], by decide +kernel⟩

theorem witness_DecodedIsWellFormed : ∃ (ws : List Half) (i : Instr) (n : Nat),
    decode ws = Decoded.ok i n :=
  ⟨[0b111101_1_1_1_011_1_000#16, 0b000001_001_010_011_0#16], (.add { Pfx.none with xr := true, guard := 3, neg := true } 9 10 11), 2, by decide +kernel⟩

theorem witness_GuardedOffOnlyRetires_user : ∃ (s : State) (i : Instr) (pg : Nat) (op : Nat) (f : Fields),
    fieldsOf i = some (pg, op, f) ∧
    i.wf = true ∧
    s.guardHolds f.p = false ∧
    (systemOnly pg op = true → s.thr.priv ≠ 0) ∧
    (∀ (p : Pfx) (d : RegNo) (n : BitVec 7), i = Instr.rds p d n → sregAssigned n.toNat = true ∧ (n.toNat ≤ 27 ∨ s.thr.priv ≠ 0)) ∧
    (∀ (p : Pfx) (d : RegNo) (n : BitVec 7),
      i = Instr.wrs p d n →
        sregAssigned n.toNat = true ∧ sregNoWrite n.toNat = false ∧ (sregUserWrite n.toNat = true ∨ s.thr.priv ≠ 0)) ∧
    (∀ (p : Pfx) (d a : RegNo) (imm : Word) (o : Order) (sc : Scope), i = Instr.ldp p d a imm o sc → d ≠ a) ∧
    (pg = 2 → ∀ (id : Nat), (s.unitQueue s.tileNo s.coreNo).head? = some id → id = s.thr.id) :=
  ⟨demo, (.add never 1 2 3), 0, 0x01, { Fields.plain never with f1 := 1, f2 := 2, f3 := 3 }, by decide +kernel, by decide +kernel, by decide +kernel, by decide +kernel, by simp, by simp, by simp, by decide +kernel⟩

theorem witness_GuardedOffOnlyRetires_system : ∃ (s : State) (i : Instr) (pg : Nat) (op : Nat) (f : Fields),
    fieldsOf i = some (pg, op, f) ∧
    i.wf = true ∧
    s.guardHolds f.p = false ∧
    (systemOnly pg op = true → s.thr.priv ≠ 0) ∧
    (∀ (p : Pfx) (d : RegNo) (n : BitVec 7), i = Instr.rds p d n → sregAssigned n.toNat = true ∧ (n.toNat ≤ 27 ∨ s.thr.priv ≠ 0)) ∧
    (∀ (p : Pfx) (d : RegNo) (n : BitVec 7),
      i = Instr.wrs p d n →
        sregAssigned n.toNat = true ∧ sregNoWrite n.toNat = false ∧ (sregUserWrite n.toNat = true ∨ s.thr.priv ≠ 0)) ∧
    (∀ (p : Pfx) (d a : RegNo) (imm : Word) (o : Order) (sc : Scope), i = Instr.ldp p d a imm o sc → d ≠ a) ∧
    (pg = 2 → ∀ (id : Nat), (s.unitQueue s.tileNo s.coreNo).head? = some id → id = s.thr.id) :=
  ⟨(sys demo), (.tlbw never 1 2), 3, 0x11, { Fields.plain never with f2 := 1, f3 := 2 }, by decide +kernel, by decide +kernel, by decide +kernel, by decide +kernel, by simp, by simp, by simp, by decide +kernel⟩

theorem witness_GuardedOffOnlyRetires_rds : ∃ (s : State) (i : Instr) (pg : Nat) (op : Nat) (f : Fields),
    fieldsOf i = some (pg, op, f) ∧
    i.wf = true ∧
    s.guardHolds f.p = false ∧
    (systemOnly pg op = true → s.thr.priv ≠ 0) ∧
    (∀ (p : Pfx) (d : RegNo) (n : BitVec 7), i = Instr.rds p d n → sregAssigned n.toNat = true ∧ (n.toNat ≤ 27 ∨ s.thr.priv ≠ 0)) ∧
    (∀ (p : Pfx) (d : RegNo) (n : BitVec 7),
      i = Instr.wrs p d n →
        sregAssigned n.toNat = true ∧ sregNoWrite n.toNat = false ∧ (sregUserWrite n.toNat = true ∨ s.thr.priv ≠ 0)) ∧
    (∀ (p : Pfx) (d a : RegNo) (imm : Word) (o : Order) (sc : Scope), i = Instr.ldp p d a imm o sc → d ≠ a) ∧
    (pg = 2 → ∀ (id : Nat), (s.unitQueue s.tileNo s.coreNo).head? = some id → id = s.thr.id) :=
  ⟨(sys demo), (.rds never 1 40), 0, 0x34, { Fields.plain never with f1 := 1, imm := 40 }, (by decide +kernel), (by decide +kernel), (by decide +kernel), (by decide +kernel), (by rintro _ _ _ ⟨⟩; decide +kernel), (by simp), (by simp), by decide +kernel⟩

theorem witness_GuardedOffOnlyRetires_wrs : ∃ (s : State) (i : Instr) (pg : Nat) (op : Nat) (f : Fields),
    fieldsOf i = some (pg, op, f) ∧
    i.wf = true ∧
    s.guardHolds f.p = false ∧
    (systemOnly pg op = true → s.thr.priv ≠ 0) ∧
    (∀ (p : Pfx) (d : RegNo) (n : BitVec 7), i = Instr.rds p d n → sregAssigned n.toNat = true ∧ (n.toNat ≤ 27 ∨ s.thr.priv ≠ 0)) ∧
    (∀ (p : Pfx) (d : RegNo) (n : BitVec 7),
      i = Instr.wrs p d n →
        sregAssigned n.toNat = true ∧ sregNoWrite n.toNat = false ∧ (sregUserWrite n.toNat = true ∨ s.thr.priv ≠ 0)) ∧
    (∀ (p : Pfx) (d a : RegNo) (imm : Word) (o : Order) (sc : Scope), i = Instr.ldp p d a imm o sc → d ≠ a) ∧
    (pg = 2 → ∀ (id : Nat), (s.unitQueue s.tileNo s.coreNo).head? = some id → id = s.thr.id) :=
  ⟨demo, (.wrs never 1 10), 0, 0x35, { Fields.plain never with f1 := 1, imm := 10 }, (by decide +kernel), (by decide +kernel), (by decide +kernel), (by decide +kernel), (by simp), (by rintro _ _ _ ⟨⟩; decide +kernel), (by simp), by decide +kernel⟩

theorem witness_GuardedOffOnlyRetires_ldp : ∃ (s : State) (i : Instr) (pg : Nat) (op : Nat) (f : Fields),
    fieldsOf i = some (pg, op, f) ∧
    i.wf = true ∧
    s.guardHolds f.p = false ∧
    (systemOnly pg op = true → s.thr.priv ≠ 0) ∧
    (∀ (p : Pfx) (d : RegNo) (n : BitVec 7), i = Instr.rds p d n → sregAssigned n.toNat = true ∧ (n.toNat ≤ 27 ∨ s.thr.priv ≠ 0)) ∧
    (∀ (p : Pfx) (d : RegNo) (n : BitVec 7),
      i = Instr.wrs p d n →
        sregAssigned n.toNat = true ∧ sregNoWrite n.toNat = false ∧ (sregUserWrite n.toNat = true ∨ s.thr.priv ≠ 0)) ∧
    (∀ (p : Pfx) (d a : RegNo) (imm : Word) (o : Order) (sc : Scope), i = Instr.ldp p d a imm o sc → d ≠ a) ∧
    (pg = 2 → ∀ (id : Nat), (s.unitQueue s.tileNo s.coreNo).head? = some id → id = s.thr.id) :=
  ⟨demo, (.ldp never 2 1 1 .plain .tile), 0, 0x2C, { Fields.plain never with f1 := 2, f2 := 1, imm := 1 }, (by decide +kernel), (by decide +kernel), (by decide +kernel), (by decide +kernel), (by simp), (by simp), (by rintro _ _ _ _ _ _ ⟨⟩; decide +kernel), by decide +kernel⟩

theorem witness_SystemOnlyTrapsAtUserLevel_page3 : ∃ (s : State) (i : Instr) (pg : Nat) (op : Nat) (f : Fields),
    fieldsOf i = some (pg, op, f) ∧
    s.thr.priv = 0 ∧
    s.thr.intervalOpen = false ∧
    (systemOnly pg op = true ∨ ∃ p d n, (i = Instr.rds p d n ∨ i = Instr.wrs p d n) ∧ 32 ≤ n.toNat ∧ sregAssigned n.toNat = true) :=
  ⟨demo, (.tlbw .none 1 2), 3, 0x11, { Fields.plain .none with f2 := 1, f3 := 2 }, (by decide +kernel), (by decide +kernel), (by decide +kernel), (.inl (by decide +kernel))⟩

theorem witness_SystemOnlyTrapsAtUserLevel_rds : ∃ (s : State) (i : Instr) (pg : Nat) (op : Nat) (f : Fields),
    fieldsOf i = some (pg, op, f) ∧
    s.thr.priv = 0 ∧
    s.thr.intervalOpen = false ∧
    (systemOnly pg op = true ∨ ∃ p d n, (i = Instr.rds p d n ∨ i = Instr.wrs p d n) ∧ 32 ≤ n.toNat ∧ sregAssigned n.toNat = true) :=
  ⟨demo, (.rds .none 1 40), 0, 0x34, { Fields.plain .none with f1 := 1, imm := 40 }, (by decide +kernel), (by decide +kernel), (by decide +kernel), (.inr ⟨_, _, _, .inl rfl, by decide +kernel, by decide +kernel⟩)⟩

theorem witness_UnassignedEncodingTraps : ∃ (s : State) (page : BitVec 2) (base : Half) (pos : BitVec 3),
    (Instr.unassignedOpcode page base pos).wf = true ∧
    s.thr.priv = 0 ∧
    s.thr.intervalOpen = false :=
  ⟨demo, 3, 0b111010_0000000000, 1, by decide +kernel⟩

-- integers, compares, capabilities
theorem witness_IntegerResults_three : ∃ (s : State) (p : Pfx) (d : RegNo) (a : RegNo) (b : RegNo),
    s.guardHolds p = true :=
  ⟨(regs [(2, int 0x8000000000000000), (3, int 0xFFFFFFFFFFFFFFFF)] demo), Pfx.none, 1, 2, 3, by decide +kernel⟩

theorem witness_IntegerResults_three0 : ∃ (s : State) (p : Pfx) (d : RegNo) (a : RegNo) (b : RegNo),
    s.guardHolds p = true :=
  ⟨(regs [(2, int 0x8000000000000000), (3, int 0)] demo), Pfx.none, 0, 2, 3, by decide +kernel⟩

theorem witness_IntegerResults_three2 : ∃ (s : State) (p : Pfx) (d : RegNo) (a : RegNo) (b : RegNo),
    s.guardHolds p = true :=
  ⟨(regs [(2, int 0x8000000000000001), (3, int 0x45)] demo), Pfx.none, 2, 2, 3, by decide +kernel⟩

theorem witness_IntegerResults_immediate : ∃ (s : State) (p : Pfx) (d : RegNo) (a : RegNo) (imm : Word),
    s.guardHolds p = true :=
  ⟨(regs [(2, int 0xFFFFFFFFFFFFFF80)] demo), Pfx.none, 1, 2, 63, by decide +kernel⟩

theorem witness_IntegerResults_nop : ∃ (s : State) (p : Pfx) (d : RegNo) (a : RegNo) (imm : Word),
    s.guardHolds p = true :=
  ⟨(regs [(2, int 0xFFFFFFFFFFFFFF80)] demo), Pfx.none, 0, 2, 63, by decide +kernel⟩

theorem witness_CountsComparesAndPredicates_zero : ∃ (s : State) (p : Pfx) (d : RegNo) (a : RegNo),
    s.guardHolds p = true :=
  ⟨(regs [(2, int 0)] demo), Pfx.none, 1, 2, by decide +kernel⟩

theorem witness_CountsComparesAndPredicates_one : ∃ (s : State) (p : Pfx) (d : RegNo) (a : RegNo),
    s.guardHolds p = true :=
  ⟨(regs [(2, int 4)] demo), Pfx.none, 1, 2, by decide +kernel⟩

theorem witness_CountsComparesAndPredicates_top : ∃ (s : State) (p : Pfx) (d : RegNo) (a : RegNo),
    s.guardHolds p = true :=
  ⟨(regs [(2, int 0xFFFFFFFFFFFFFFFF)] demo), Pfx.none, 1, 2, by decide +kernel⟩

theorem witness_CountsComparesAndPredicates_p0 : ∃ (s : State) (p : Pfx) (pd : PredNo) (pa : PredNo) (pb : PredNo) (a : RegNo) (b : RegNo) (imm : Word),
    s.guardHolds p = true :=
  ⟨(regs [(2, int 0xFFFFFFFFFFFFFFFF), (3, int 1)] demo), Pfx.none, 0, 1, 2, 2, 3, 0xFFFFFFFFFFFFFFFF, by decide +kernel⟩

theorem witness_CountsComparesAndPredicates_p7 : ∃ (s : State) (p : Pfx) (pd : PredNo) (pa : PredNo) (pb : PredNo) (a : RegNo) (b : RegNo) (imm : Word),
    s.guardHolds p = true :=
  ⟨(regs [(2, int 0xFFFFFFFFFFFFFFFF), (3, int 1)] demo), Pfx.none, 7, 0, 2, 2, 3, 0, by decide +kernel⟩

theorem witness_CapabilityFields_tagged : ∃ (s : State) (p : Pfx) (d : RegNo) (a : RegNo) (b : RegNo) (imm : Word),
    s.guardHolds p = true :=
  ⟨(regs [(2, win 16), (3, int 0xFFFFFFFFFFFF0000)] demo), Pfx.none, 4, 2, 3, 0x800000000000, by decide +kernel⟩

theorem witness_CapabilityFields_untagged : ∃ (s : State) (p : Pfx) (d : RegNo) (a : RegNo) (b : RegNo) (imm : Word),
    s.guardHolds p = true :=
  ⟨(regs [(2, int 0xFFFFFFFFFFFFFFFF), (3, int 1)] demo), Pfx.none, 0, 2, 3, 0xFFFFFFFFFFFFFFFF, by decide +kernel⟩

theorem witness_CapabilityFields_perm : ∃ (s : State) (p : Pfx) (d : RegNo) (a : RegNo) (b : RegNo),
    s.guardHolds p = true :=
  ⟨(regs [(2, win 16), (3, int 0x103)] demo), Pfx.none, 4, 2, 3, by decide +kernel⟩

theorem witness_CapabilitiesOnlyNarrow_exact : ∃ (s : State) (p : Pfx) (d : RegNo) (a : RegNo) (b : RegNo) (e : Nat) (m : Nat),
    s.guardHolds p = true ∧
    (s.reg a).tag = true ∧
    BitVec.toNat (s.reg a).cursor % 16 = 0 ∧
    BitVec.toNat (s.x b) ≤ 2 ^ 46 ∧
    max 1 (BitVec.toNat (s.x b)) ≤ m * 2 ^ e ∧
    (m - 1) * 2 ^ e < max 1 (BitVec.toNat (s.x b)) ∧
    m ≤ 32768 ∧
    (e = 0 ∨ 16384 < m) ∧
    (s.reg a).base ≤ BitVec.toNat (s.reg a).cursor ∧
    BitVec.toNat (s.reg a).cursor + m * 2 ^ e ≤ (s.reg a).limit :=
  ⟨(regs [(2, win 16), (3, int 48)] demo), Pfx.none, 4, 2, 3, 0, 48, by decide +kernel⟩

theorem witness_CapabilitiesOnlyNarrow_zero : ∃ (s : State) (p : Pfx) (d : RegNo) (a : RegNo) (b : RegNo) (e : Nat) (m : Nat),
    s.guardHolds p = true ∧
    (s.reg a).tag = true ∧
    BitVec.toNat (s.reg a).cursor % 16 = 0 ∧
    BitVec.toNat (s.x b) ≤ 2 ^ 46 ∧
    max 1 (BitVec.toNat (s.x b)) ≤ m * 2 ^ e ∧
    (m - 1) * 2 ^ e < max 1 (BitVec.toNat (s.x b)) ∧
    m ≤ 32768 ∧
    (e = 0 ∨ 16384 < m) ∧
    (s.reg a).base ≤ BitVec.toNat (s.reg a).cursor ∧
    BitVec.toNat (s.reg a).cursor + m * 2 ^ e ≤ (s.reg a).limit :=
  ⟨(regs [(2, win 786416), (3, int 0)] demo), Pfx.none, 4, 2, 3, 0, 1, by decide +kernel⟩

theorem witness_CapabilitiesOnlyNarrow_rounded : ∃ (s : State) (p : Pfx) (d : RegNo) (a : RegNo) (b : RegNo) (e : Nat) (m : Nat),
    s.guardHolds p = true ∧
    (s.reg a).tag = true ∧
    BitVec.toNat (s.reg a).cursor % 16 = 0 ∧
    BitVec.toNat (s.x b) ≤ 2 ^ 46 ∧
    max 1 (BitVec.toNat (s.x b)) ≤ m * 2 ^ e ∧
    (m - 1) * 2 ^ e < max 1 (BitVec.toNat (s.x b)) ∧
    m ≤ 32768 ∧
    (e = 0 ∨ 16384 < m) ∧
    (s.reg a).base ≤ BitVec.toNat (s.reg a).cursor ∧
    BitVec.toNat (s.reg a).cursor + m * 2 ^ e ≤ (s.reg a).limit :=
  ⟨(regs [(2, win 0), (3, int 32769)] demo), Pfx.none, 4, 2, 3, 1, 16385, by decide +kernel⟩

theorem witness_CapabilitiesOnlyNarrow_whole : ∃ (s : State) (p : Pfx) (d : RegNo) (a : RegNo) (b : RegNo) (e : Nat) (m : Nat),
    s.guardHolds p = true ∧
    (s.reg a).tag = true ∧
    BitVec.toNat (s.reg a).cursor % 16 = 0 ∧
    BitVec.toNat (s.x b) ≤ 2 ^ 46 ∧
    max 1 (BitVec.toNat (s.x b)) ≤ m * 2 ^ e ∧
    (m - 1) * 2 ^ e < max 1 (BitVec.toNat (s.x b)) ∧
    m ≤ 32768 ∧
    (e = 0 ∨ 16384 < m) ∧
    (s.reg a).base ≤ BitVec.toNat (s.reg a).cursor ∧
    BitVec.toNat (s.reg a).cursor + m * 2 ^ e ≤ (s.reg a).limit :=
  ⟨(regs [(2, win 0), (3, int 786432)] demo), Pfx.none, 4, 2, 3, 5, 24576, by decide +kernel⟩

theorem witness_CapabilitiesOnlyNarrow_never : ∃ (s : State) (t : State) (p : Pfx) (d : RegNo) (a : RegNo) (b : RegNo) (imm : Word) (i : Instr),
    s.guardHolds p = true ∧
    s.thr.priv = 0 ∧
    d ≠ 0 ∧
    exec i s = Host.Outcome.next t ∧
    t.thr.retc = s.thr.retc + 1 ∧
    (t.reg d).tag = true :=
  ⟨(regs [(2, win 0), (3, int 64)] demo), _, Pfx.none, 4, 2, 3, 0, (.cset .none 4 2 3), (by decide +kernel), (by decide +kernel), (by decide +kernel), (rfl), by decide +kernel⟩

theorem witness_CapabilitiesOnlyNarrow_lea : ∃ (s : State) (t : State) (p : Pfx) (d : RegNo) (a : RegNo) (b : RegNo) (imm : Word) (i : Instr),
    s.guardHolds p = true ∧
    s.thr.priv = 0 ∧
    d ≠ 0 ∧
    exec i s = Host.Outcome.next t ∧
    t.thr.retc = s.thr.retc + 1 ∧
    (t.reg d).tag = true :=
  ⟨demo, _, Pfx.none, 4, 2, 3, 64, (.lea .none 4 64), (by decide +kernel), (by decide +kernel), (by decide +kernel), (rfl), by decide +kernel⟩

-- contexts and tasks
theorem witness_ContextsMove_departure : ∃ (s : State) (th : Nat) (x : Thread) (dst : Ltn) (keep : BitVec 16) (t : Nat) (c : Nat) (n : Nat),
    s.thread? th = some x ∧
    x.park = some (Park.migrate dst keep) ∧
    x.loc = Loc.slot t c n ∧
    drained x.sb = true ∧
    Option.any (fun x => x.preempted) ((s.tile t).resid? x.asid x.lgen) = false :=
  ⟨(other (fellow (.slot 0 0 3) (some (.migrate 1 0x0010))) demo), 2, (fellow (.slot 0 0 3) (some (.migrate 1 0x0010))), 1, 0x0010, 0, 0, 3, by decide +kernel⟩

theorem witness_ContextsMove_arrival : ∃ (s : State) (pk : Nat) (id : Nat) (t : Nat) (p : Packet) (th : Thread) (r : Resid),
    s.Arrives pk p t ∧
    p.id = pk ∧
    pk < s.nextId ∧
    p.body = Payload.context id ∧
    s.thread? id = some th ∧
    th.inGang p.asid p.lgen = true ∧
    s.residentAt t p.asid p.lgen p.dst = some r ∧
    r.running = true ∧
    s.replayable t = [] ∧
    (s.tile t).ctxq.length < 32 ∧
    (s.heapFree t).isSome = true :=
  ⟨(other (fellow .fabric none) (packet (arrived 0 (.context 2)) demo)), 50, 2, 0, (arrived 0 (.context 2)), (fellow .fabric none), (resid 0), wit_arrives _ _ _ _ (by decide +kernel), by decide +kernel⟩

theorem witness_ContextsMove_toHeap : ∃ (s : State) (t : Nat),
    28 ≤ (s.tile t).ctxq.length ∧
    s.replayable t = [] ∧
    (s.tile t).ctxq.Nodup ∧
    (∀ (id : Nat), id ∈ (s.tile t).ctxq → (s.thread? id).isSome = true) ∧
    (s.heapFree t).isSome = true :=
  ⟨(tile (fun x => { x with ctxq := (List.range 28).map (· + 2) }) { demo with others := (List.range 28).map fun n => { fellow (.queue 0) none with id := n + 2 } }), 0, by decide +kernel⟩

theorem witness_ContextsMove_replay : ∃ (s : State) (t : Nat) (id : Nat) (rest : List Nat),
    (s.tile t).ctxq.length < 16 ∧
    s.replayable t = id :: rest ∧
    (∀ (th : Thread), s.thread? id = some th → ∃ r, s.residentAt t th.asid th.lgen th.ltn = some r ∧ r.preempted = false) :=
  ⟨(tile (fun x => { x with heapq := [2] }) (other (fellow (.heap 0 0 false false) none) demo)), 0, 2, [], by decide +kernel⟩

theorem witness_ContextsMove_trapHold : ∃ (s : State) (th : Nat) (x : Thread) (cause : Nat) (i : Nat) (value : Word) (t : Nat) (c : Nat) (n : Nat),
    s.thread? th = some x ∧
    x.park = some (Park.trapHold cause value) ∧
    x.loc = Loc.slot t c n ∧
    drained x.sb = true ∧
    s.heapFree t = some i ∧
    (s.tile t).trapq.length < 64 ∧
    (s.tile t).trapWait = [] ∧
    s.trappedEarlier t x = false :=
  ⟨(other (fellow (.slot 0 0 3) (some (.trapHold 8 0x123))) demo), 2, (fellow (.slot 0 0 3) (some (.trapHold 8 0x123))), 8, 0, 0x123, 0, 0, 3, by decide +kernel⟩

theorem witness_ContextsMove_resume : ∃ (s : State) (t : Nat) (i : Nat) (th : Thread) (h : Bool) (r : Resid),
    th ∈ s.threads ∧
    th.loc = Loc.heap t i h true ∧
    (∀ (x : Thread), x ∈ s.threads → (x.id = th.id ∨ ∃ h', x.loc = Loc.heap t i h' true) → x = th) ∧
    s.residentAt t th.asid th.lgen th.ltn = some r ∧
    r.running = true ∧
    s.replayable t = [] ∧
    (s.tile t).ctxq.length < 32 :=
  ⟨(other (fellow (.heap 0 3 false true) none) demo), 0, 3, (fellow (.heap 0 3 false true) none), false, (resid 0), (by decide +kernel), (by decide +kernel), (wit_only _ _
  (fun x =>
    x.id = 2 ||
      (match x.loc with
      | .heap 0 3 _ true => true
      | _ => false))
  _ (by rintro x (h | ⟨_, h⟩) <;> simp [h, fellow]) (by decide +kernel)), by decide +kernel⟩

theorem witness_ContextsMove_deliver : ∃ (s : State) (t : Nat) (i : Nat) (th : Thread) (h : Bool) (dst : Nat),
    th ∈ s.threads ∧
    th.loc = Loc.heap t i h true ∧
    (∀ (x : Thread), x ∈ s.threads → (x.id = th.id ∨ ∃ h', x.loc = Loc.heap t i h' true) → x = th) :=
  ⟨(other (fellow (.heap 0 3 false true) none) demo), 0, 3, (fellow (.heap 0 3 false true) none), false, 1, (by decide +kernel), (by decide +kernel), (wit_only _ _
  (fun x =>
    x.id = 2 ||
      (match x.loc with
      | .heap 0 3 _ true => true
      | _ => false))
  _ (by rintro x (h | ⟨_, h⟩) <;> simp [h, fellow]) (by decide +kernel))⟩

theorem witness_ContextsMove_discard : ∃ (s : State) (t : Nat) (i : Nat) (th : Thread) (h : Bool),
    th ∈ s.threads ∧
    th.loc = Loc.heap t i h true ∧
    (∀ (x : Thread), x ∈ s.threads → (x.id = th.id ∨ ∃ h', x.loc = Loc.heap t i h' true) → x = th) :=
  ⟨(other (fellow (.heap 0 3 false true) none) demo), 0, 3, (fellow (.heap 0 3 false true) none), false, (by decide +kernel), (by decide +kernel), (wit_only _ _
  (fun x =>
    x.id = 2 ||
      (match x.loc with
      | .heap 0 3 _ true => true
      | _ => false))
  _ (by rintro x (h | ⟨_, h⟩) <;> simp [h, fellow]) (by decide +kernel))⟩

theorem witness_ContextsMove_retire : ∃ (s : State) (t : Nat) (n : Nat),
    n ≤ (s.tile t).trapq.length ∧
    (s.tile t).trapWait = [] :=
  ⟨(tile (fun x => { x with trapHead := 63, trapq := List.replicate 2 { eval := 0, epc := 0, asid := 0, lgen := 0, cause := 0, held := none, tid := 0, slot := 0, core := 0 } }) demo), 0, 2, by decide +kernel⟩

theorem witness_TasksAreScheduled_queued : ∃ (s : State) (t : Nat) (core : Nat) (n : Nat) (credit : Nat) (more : List Nat) (r : Resid) (th : Thread),
    core < 8 ∧
    s.slotOwed t core = false ∧
    s.freeSlots t core = n :: more ∧
    s.chooseGang t core = some (r, credit) ∧
    s.queuedFor t core r = some th ∧
    s.fedNext t core = true :=
  ⟨(tile (fun x => { x with ctxq := [2], feed := 0 }) (other (fellow (.queue 0) none) demo)), 0, 1, 2, 0, [3, 4, 5, 6, 7, 8, 9, 10, 11, 12, 13, 14, 15], (resid 0), (fellow (.queue 0) none), by decide +kernel⟩

theorem witness_TasksAreScheduled_record : ∃ (s : State) (t : Nat) (core : Nat) (n : Nat) (credit : Nat) (more : List Nat) (r : Resid) (e : Resid) (g : Gang) (x : TaskRec) (rest : List TaskRec),
    core < 8 ∧
    s.slotOwed t core = false ∧
    s.freeSlots t core = n :: more ∧
    s.chooseGang t core = some (r, credit) ∧
    s.queuedFor t core r = none ∧
    takeNewest (fun x => x.inGang r.asid r.lgen) ((s.tile t).core core).deque = some (x, rest) ∧
    s.isPending x = false ∧
    s.gang? x.asid x.lgen = some g ∧
    (s.tile t).resid? x.asid x.lgen = some e :=
  ⟨(core 1 (fun c => { c with deque := [task] }) demo), 0, 1, 2, 0, [3, 4, 5, 6, 7, 8, 9, 10, 11, 12, 13, 14, 15], (resid 0), (resid 0), gang, task, [], by decide +kernel⟩

theorem witness_TasksAreScheduled_operand : ∃ (s : State) (th : Nat),
    s.waitOf th = some (some Park.operand) :=
  ⟨(other (fellow (.slot 0 0 3) (some .operand)) demo), 2, by decide +kernel⟩

theorem witness_TasksAreScheduled_spawn : ∃ (s : State) (p : Pfx) (a : RegNo) (b : RegNo) (off : Word) (pc : VAddr),
    s.guardHolds p = true ∧
    s.thr.intervalOpen = false ∧
    checkCap (s.codeAt (s.target off)) 2 permX = Except.ok pc ∧
    ((s.tile s.tileNo).core s.coreNo).deque.length < 64 :=
  ⟨demo, Pfx.none, 2, 1, 32, 0x10040, by decide +kernel, by decide +kernel, wit_ok (by decide +kernel), by decide +kernel⟩

theorem witness_TasksAreScheduled_spill : ∃ (s : State) (t : Nat) (core : Nat),
    s.pushWaits t core = true ∧
    64 ≤ ((s.tile t).core core).deque.length ∧
    ((s.tile t).core core).spill.length + 32 ≤ 4096 :=
  ⟨(core 1 (fun c => { c with deque := List.replicate 64 task }) (other (fellow (.slot 0 1 3) (some .deque)) demo)), 0, 1, by decide +kernel⟩

theorem witness_TasksAreScheduled_refill : ∃ (s : State) (t : Nat) (core : Nat) (g : Nat),
    (∀ (r : TaskRec), r ∈ ((s.tile t).core core).deque → gangKey r.asid r.lgen ≠ g) ∧
    (∃ r, r ∈ ((s.tile t).core core).spill ∧ gangKey r.asid r.lgen = g) ∧
    ((s.tile t).core core).deque.length ≤ 32 ∧
    (s.popFails t core g (Option.map (fun x => x.fst) (s.chooseGang t core)) fun r => (s.queuedFor t core r).isSome) = true :=
  ⟨(core 1 (fun c => { c with deque := [], spill := List.replicate 33 task }) demo), 0, 1, (gangKey 5 7), by decide +kernel⟩

-- stealing, stores
theorem witness_StealingRounds_start : ∃ (s : State) (t : Nat) (core : Nat) (n : Nat) (more : List Nat) (r : Resid) (g : Gang) (x : Steal) (y : Steal) (victim : Ltn) (vc : Option Nat),
    core < 8 ∧
    ((s.tile t).core core).steal.waiting = none ∧
    ((s.tile t).core core).steal.backoff = none ∧
    (s.tile t).ctxq = [] ∧
    s.poppable t core = false ∧
    s.freeSlots t core = n :: more ∧
    s.roundGang t ((s.tile t).core core).steal = some (r, x) ∧
    s.gang? r.asid r.lgen = some g ∧
    nextVictim core g r x = (y, some (victim, vc)) :=
  ⟨demo, 0, 1, 2, [3, 4, 5, 6, 7, 8, 9, 10, 11, 12, 13, 14, 15], (resid 0), gang, { Core.reset.steal with gang := some (gangKey 5 7), gangPos := 0 }, { Core.reset.steal with gang := some (gangKey 5 7), gangPos := 0, coreAt := 2 }, 0, (some 2), by decide +kernel⟩

theorem witness_StealingRounds_refused : ∃ (s : State) (msg : Nat) (m : StealMsg),
    List.find? (fun m => decide (m.id = msg)) s.steals = some m ∧
    m.refusal = false ∧
    s.stealInOrder m = true ∧
    s.stealWaits m = false ∧
    s.victimCore m = none :=
  ⟨{ demo with steals := [stealMsg] }, 60, stealMsg, by decide +kernel⟩

theorem witness_StealingRounds_served : ∃ (s : State) (msg : Nat) (m : StealMsg) (v : Nat) (c : Nat) (r : TaskRec) (rest : Core),
    List.find? (fun m => decide (m.id = msg)) s.steals = some m ∧
    m.refusal = false ∧
    s.stealInOrder m = true ∧
    s.stealWaits m = false ∧
    s.victimCore m = some (v, c, r, rest) ∧
    m.thief ≠ m.victim :=
  ⟨(other (fellow (.slot 0 0 3) (some .pairSlot)) (core 1 (fun c => { c with deque := [task, task] }) { demo with steals := [stealMsg] })), 60, stealMsg, 0, 1, task, { Core.reset with deque := [task] }, by decide +kernel⟩

theorem witness_StealingRounds_answer : ∃ (s : State) (msg : Nat) (t : Nat) (m : StealMsg),
    List.find? (fun m => decide (m.id = msg)) s.steals = some m ∧
    m.refusal = true ∧
    s.stealInOrder m = true ∧
    s.siteOf m.thief = t ∧
    ((s.tile t).core m.thiefCore).steal.waiting = some m.id :=
  ⟨(({ demo with steals := [{ stealMsg with refusal := true }] }).modCore 1 0 fun c => { c with steal := { c.steal with waiting := some 60 } }), 60, 1, { stealMsg with refusal := true }, by decide +kernel⟩

theorem witness_StealingRounds_timeout : ∃ (s : State) (t : Nat) (core : Nat),
    ((s.tile t).core core).steal.waiting.isSome = true ∧
    8192 ≤ s.time - ((s.tile t).core core).steal.sentAt :=
  ⟨(core 1 (fun c => { c with steal := { c.steal with waiting := some 60, sentAt := 8 } }) { demo with time := 8200 }), 0, 1, by decide +kernel⟩

theorem witness_StealingRounds_backoff : ∃ (s : State) (t : Nat) (core : Nat) (b : Nat),
    ((s.tile t).core core).steal.backoff = some b ∧
    256 ≤ s.time - b :=
  ⟨(core 1 (fun c => { c with steal := { c.steal with backoff := some 8 } }) { demo with time := 264 }), 0, 1, 8, by decide +kernel⟩

theorem witness_StealingRounds_unasked : ∃ (s : State) (pk : Nat) (core : Nat) (req : Nat) (t : Nat) (p : Packet) (r : TaskRec) (e : Resid),
    s.Arrives pk p t ∧
    p.id = pk ∧
    pk < s.nextId ∧
    p.body = Payload.task r core req ∧
    s.residentAt t p.asid p.lgen p.dst = some e ∧
    e.quenching = false ∧
    (s.heapFree t).isSome = true ∧
    ((s.tile t).core core).steal.waiting ≠ some req ∧
    ((s.tile t).core core).deque.length < 64 :=
  ⟨(packet (arrived 0 (.task task 1 60)) demo), 50, 1, 60, 0, (arrived 0 (.task task 1 60)), task, (resid 0), wit_arrives _ _ _ _ (by decide +kernel), by decide +kernel⟩

theorem witness_StealingRounds_awaited : ∃ (s : State) (pk : Nat) (core : Nat) (req : Nat) (t : Nat) (p : Packet) (r : TaskRec) (e : Resid) (g : Gang),
    s.Arrives pk p t ∧
    p.id = pk ∧
    pk < s.nextId ∧
    p.body = Payload.task r core req ∧
    s.residentAt t p.asid p.lgen p.dst = some e ∧
    e.quenching = false ∧
    (s.heapFree t).isSome = true ∧
    ((s.tile t).core core).steal.waiting = some req ∧
    ((s.tile t).runners.any fun e => decide (e.asid = r.asid) && decide (e.lgen = r.lgen)) = true ∧
    s.gang? r.asid r.lgen = some g :=
  ⟨(core 1 (fun c => { c with steal := { c.steal with waiting := some 60, slot := 4 } }) (packet (arrived 0 (.task task 1 60)) demo)), 50, 1, 60, 0, (arrived 0 (.task task 1 60)), task, (resid 0), gang, wit_arrives _ _ _ _ (by decide +kernel), by decide +kernel⟩

theorem witness_StoresReachTheirHomes_own : ∃ (s : State) (th : Nat) (seq : Nat) (n : Nat) (x : Thread) (pre : List SbItem) (rest : List SbItem) (data : Quad) (tag : Bool) (win : Bool) (va : VAddr) (h : Home) (o : Order) (sc : Scope) (t : Nat) (pa : Nat),
    s.thread? th = some x ∧
    x.loc.onTile = true ∧
    s.bellEntry x = none ∧
    0 < n ∧
    n ≤ 16 ∧
    splitUnsent x.sb = some (pre, SbItem.entry seq (StOp.write n data tag) va h win o sc none, rest) ∧
    mayLeave x pre (SbItem.entry seq (StOp.write n data tag) va h win o sc none) = true ∧
    unacked pre < 32 ∧
    h = Home.tile t pa x.ltn ∧
    s.writeWaits seq x.asid x.lgen pa n = none ∧
    (isVaultKey pa = true ∨ (s.tile (keySite pa)).owns (quarterOf pa) x.asid x.lgen = true) :=
  ⟨(other (fellowStores [entry 3 0x123 (.tile 0 (scratchKey 0 0 0 8) 0)]) demo), 2, 3, 8, (fellowStores [entry 3 0x123 (.tile 0 (scratchKey 0 0 0 8) 0)]), [], [], 0x123, false, true, 0xFF0000000008, (.tile 0 (scratchKey 0 0 0 8) 0), .plain, .tile, 0, (scratchKey 0 0 0 8), by decide +kernel⟩

theorem witness_StoresReachTheirHomes_remote : ∃ (s : State) (th : Nat) (seq : Nat) (n : Nat) (x : Thread) (pre : List SbItem) (rest : List SbItem) (data : Quad) (tag : Bool) (win : Bool) (va : VAddr) (h : Home) (o : Order) (sc : Scope) (t : Nat) (pa : Nat) (name : Ltn),
    s.thread? th = some x ∧
    x.loc.onTile = true ∧
    s.bellEntry x = none ∧
    0 < n ∧
    n ≤ 16 ∧
    splitUnsent x.sb = some (pre, SbItem.entry seq (StOp.write n data tag) va h win o sc none, rest) ∧
    mayLeave x pre (SbItem.entry seq (StOp.write n data tag) va h win o sc none) = true ∧
    unacked pre < 32 ∧
    h = Home.tile t pa name ∧
    name ≠ x.ltn :=
  ⟨(other (fellowStores [entry 3 0x123 (.tile 1 (vaultKey 1 64) 1)]) demo), 2, 3, 8, (fellowStores [entry 3 0x123 (.tile 1 (vaultKey 1 64) 1)]), [], [], 0x123, false, true, 0xFF0000000008, (.tile 1 (vaultKey 1 64) 1), .plain, .tile, 1, (vaultKey 1 64), 1, by decide +kernel⟩

theorem witness_StoresReachTheirHomes_host : ∃ (s : State) (th : Nat) (seq : Nat) (n : Nat) (x : Thread) (pre : List SbItem) (rest : List SbItem) (data : Quad) (tag : Bool) (win : Bool) (va : VAddr) (h : Home) (o : Order) (sc : Scope) (port : Nat) (hpa : Nat) (g : Gang),
    s.thread? th = some x ∧
    x.loc.onTile = true ∧
    s.bellEntry x = none ∧
    0 < n ∧
    n ≤ 16 ∧
    splitUnsent x.sb = some (pre, SbItem.entry seq (StOp.write n data tag) va h win o sc none, rest) ∧
    mayLeave x pre (SbItem.entry seq (StOp.write n data tag) va h win o sc none) = true ∧
    unacked pre < 32 ∧
    h = Home.host port hpa ∧
    (s.packets.any fun q => decide (q.src = x.ltn) && decide (q.dst = bridgeName port)) = false ∧
    s.gang? x.asid x.lgen = some g ∧
    g.heldAt port + n ≤ 65536 :=
  ⟨(other (fellowStores [entry 3 0x123 (.host 0 0x1000)]) demo), 2, 3, 8, (fellowStores [entry 3 0x123 (.host 0 0x1000)]), [], [], 0x123, false, true, 0xFF0000000008, (.host 0 0x1000), .plain, .tile, 0, 0x1000, gang, by decide +kernel⟩

theorem witness_StoresReachTheirHomes_store : ∃ (s : State) (pk : Nat) (t : Nat) (th : Nat) (n : Nat) (pa : Nat) (p : Packet) (va : VAddr) (seq : Nat) (data : Quad) (tag : Bool),
    s.Arrives pk p t ∧
    p.id = pk ∧
    pk < s.nextId ∧
    0 < n ∧
    n ≤ 16 ∧
    (∀ (r : Resid), s.residentAt t p.asid p.lgen p.dst = some r → r.quenching = false) ∧
    s.poisoned pa n = false ∧
    (isVaultKey pa = true ∨ (s.tile (keySite pa)).owns (quarterOf pa) p.asid p.lgen = true) ∧
    p.body = Payload.store th seq (StOp.write n data tag) va pa ∧
    s.writeWaits pk p.asid p.lgen pa n = none :=
  ⟨(packet (arrived 0 (.store 2 3 (.write 8 0x55 false) 0 (scratchKey 0 1 767 24))) demo), 50, 0, 2, 8, (scratchKey 0 1 767 24), (arrived 0 (.store 2 3 (.write 8 0x55 false) 0 (scratchKey 0 1 767 24))), 0, 3, 0x55, false, wit_arrives _ _ _ _ (by decide +kernel), by decide +kernel, by decide +kernel, by decide +kernel, by decide +kernel, (wit_resident _ _ _ _ _ (fun r => !r.quenching) _ (by simp) (by decide +kernel)), by decide +kernel⟩

theorem witness_StoresReachTheirHomes_atomic : ∃ (s : State) (pk : Nat) (t : Nat) (th : Nat) (n : Nat) (pa : Nat) (p : Packet) (va : VAddr) (seq : Nat) (op : AOp) (b : Word),
    s.Arrives pk p t ∧
    p.id = pk ∧
    pk < s.nextId ∧
    0 < n ∧
    n ≤ 16 ∧
    (∀ (r : Resid), s.residentAt t p.asid p.lgen p.dst = some r → r.quenching = false) ∧
    s.poisoned pa n = false ∧
    (isVaultKey pa = true ∨ (s.tile (keySite pa)).owns (quarterOf pa) p.asid p.lgen = true) ∧
    op ≠ AOp.cas ∧
    p.body = Payload.store th seq (StOp.atom op n b false) va pa ∧
    s.writeWaits pk p.asid p.lgen pa n = none :=
  ⟨(packet (arrived 0 (.store 2 3 (.atom .add 4 0xFFFFFFFF false) 0 (scratchKey 0 1 767 24))) (demo.poke (scratchKey 0 1 767 24) [3, 0, 0, 0, 9])), 50, 0, 2, 4, (scratchKey 0 1 767 24), (arrived 0 (.store 2 3 (.atom .add 4 0xFFFFFFFF false) 0 (scratchKey 0 1 767 24))), 0, 3, .add, 0xFFFFFFFF, wit_arrives _ _ _ _ (by decide +kernel), by decide +kernel, by decide +kernel, by decide +kernel, by decide +kernel, (wit_resident _ _ _ _ _ (fun r => !r.quenching) _ (by simp) (by decide +kernel)), by decide +kernel⟩

theorem witness_StoresReachTheirHomes_proxyLoad : ∃ (s : State) (pk : Nat) (t : Nat) (th : Nat) (n : Nat) (pa : Nat) (p : Packet) (va : VAddr),
    s.Arrives pk p t ∧
    p.id = pk ∧
    pk < s.nextId ∧
    0 < n ∧
    n ≤ 16 ∧
    (∀ (r : Resid), s.residentAt t p.asid p.lgen p.dst = some r → r.quenching = false) ∧
    s.poisoned pa n = false ∧
    (isVaultKey pa = true ∨ (s.tile (keySite pa)).owns (quarterOf pa) p.asid p.lgen = true) ∧
    p.body = Payload.proxyLoad th n va pa ∧
    s.readWaits pk pa n = none :=
  ⟨(packet (arrived 0 (.proxyLoad 2 8 0 (scratchKey 0 0 0 0))) (demo.poke (scratchKey 0 0 0 0) [3, 0, 0, 0, 9])), 50, 0, 2, 8, (scratchKey 0 0 0 0), (arrived 0 (.proxyLoad 2 8 0 (scratchKey 0 0 0 0))), 0, wit_arrives _ _ _ _ (by decide +kernel), by decide +kernel, by decide +kernel, by decide +kernel, by decide +kernel, (wit_resident _ _ _ _ _ (fun r => !r.quenching) _ (by simp) (by decide +kernel)), by decide +kernel⟩

theorem witness_StoresReachTheirHomes_proxyFer : ∃ (s : State) (pk : Nat) (t : Nat) (th : Nat) (n : Nat) (pa : Nat) (p : Packet) (va : VAddr),
    s.Arrives pk p t ∧
    p.id = pk ∧
    pk < s.nextId ∧
    0 < n ∧
    n ≤ 16 ∧
    (∀ (r : Resid), s.residentAt t p.asid p.lgen p.dst = some r → r.quenching = false) ∧
    s.poisoned pa n = false ∧
    (isVaultKey pa = true ∨ (s.tile (keySite pa)).owns (quarterOf pa) p.asid p.lgen = true) ∧
    p.body = Payload.proxyFer th va pa ∧
    s.readWaits pk pa 8 = none :=
  ⟨(packet (arrived 0 (.proxyFer 2 0 (scratchKey 0 0 0 0))) (demo.setFull (scratchKey 0 0 0 0) true)), 50, 0, 2, 8, (scratchKey 0 0 0 0), (arrived 0 (.proxyFer 2 0 (scratchKey 0 0 0 0))), 0, wit_arrives _ _ _ _ (by decide +kernel), by decide +kernel, by decide +kernel, by decide +kernel, by decide +kernel, (wit_resident _ _ _ _ _ (fun r => !r.quenching) _ (by simp) (by decide +kernel)), by decide +kernel⟩

theorem witness_StoresReachTheirHomes_proxyAtomic : ∃ (s : State) (pk : Nat) (t : Nat) (th : Nat) (n : Nat) (pa : Nat) (p : Packet) (va : VAddr) (op : AOp) (b : Word) (cmp : Word),
    s.Arrives pk p t ∧
    p.id = pk ∧
    pk < s.nextId ∧
    0 < n ∧
    n ≤ 16 ∧
    (∀ (r : Resid), s.residentAt t p.asid p.lgen p.dst = some r → r.quenching = false) ∧
    s.poisoned pa n = false ∧
    (isVaultKey pa = true ∨ (s.tile (keySite pa)).owns (quarterOf pa) p.asid p.lgen = true) ∧
    op ≠ AOp.cas ∧
    p.body = Payload.proxyAtomic th op n va pa b cmp false ∧
    s.writeWaits pk p.asid p.lgen pa n = none :=
  ⟨(packet (arrived 0 (.proxyAtomic 2 .swp 8 0 (scratchKey 0 0 0 0) 77 0 false)) (demo.poke (scratchKey 0 0 0 0) [3])), 50, 0, 2, 8, (scratchKey 0 0 0 0), (arrived 0 (.proxyAtomic 2 .swp 8 0 (scratchKey 0 0 0 0) 77 0 false)), 0, .swp, 77, 0, wit_arrives _ _ _ _ (by decide +kernel), by decide +kernel, by decide +kernel, by decide +kernel, by decide +kernel, (wit_resident _ _ _ _ _ (fun r => !r.quenching) _ (by simp) (by decide +kernel)), by decide +kernel⟩

theorem witness_StoresReachTheirHomes_waits : ∃ (s : State) (pk : Nat) (t : Nat) (th : Nat) (n : Nat) (pa : Nat) (p : Packet) (va : VAddr) (op : Nat) (data : Word) (races : Nat),
    s.Arrives pk p t ∧
    p.id = pk ∧
    pk < s.nextId ∧
    0 < n ∧
    n ≤ 16 ∧
    (∀ (r : Resid), s.residentAt t p.asid p.lgen p.dst = some r → r.quenching = false) ∧
    s.poisoned pa n = false ∧
    (isVaultKey pa = true ∨ (s.tile (keySite pa)).owns (quarterOf pa) p.asid p.lgen = true) ∧
    op < 4 ∧
    p.body = Payload.proxySync th op va pa data races ∧
    keySite pa = t ∧
    s.readWaits pk pa 8 = none ∧
    s.writeWaits pk p.asid p.lgen pa 8 = none ∧
    s.fullAt pa = decide (op = 2) ∧
    (∀ (w : Waiter), w ∈ (s.tile t).waiters → w.pa = pa → (w.op = 2 ↔ op = 2)) ∧
    (List.filter (fun w => w.proxy.isSome) (s.tile t).waiters).length < 128 :=
  ⟨(packet (arrived 0 (.proxySync 2 1 0 (scratchKey 0 0 0 0) 0 0)) demo), 50, 0, 2, 8, (scratchKey 0 0 0 0), (arrived 0 (.proxySync 2 1 0 (scratchKey 0 0 0 0) 0 0)), 0, 1, 0, 0, wit_arrives _ _ _ _ (by decide +kernel), by decide +kernel, by decide +kernel, by decide +kernel, by decide +kernel, (wit_resident _ _ _ _ _ (fun r => !r.quenching) _ (by simp) (by decide +kernel)), by decide +kernel⟩

-- answers, the slice, special registers
theorem witness_AnswersAndSlice_response : ∃ (s : State) (pk : Nat) (t : Nat) (th : Nat) (req : Nat) (p : Packet) (x : Thread) (w : Await) (data : Quad) (tag : Bool) (psn : Bool) (va : VAddr),
    s.Arrives pk p t ∧
    p.body = Payload.response th req 0 data tag psn va ∧
    s.thread? th = some x ∧
    x.park = some (Park.proxy req w) ∧
    w.how = 0 ∧
    w.inc = none ∧
    x.tandem = none ∧
    (List.map (fun th => th.id) s.threads).Nodup :=
  ⟨(packet (answer 0 (.response 2 60 0 77 false false 0)) (other (fellow (.slot 0 0 3) (some (.proxy 60 (await 4)))) demo)), 50, 0, 2, 60, (answer 0 (.response 2 60 0 77 false false 0)), (fellow (.slot 0 0 3) (some (.proxy 60 (await 4)))), (await 4), 77, false, false, 0, wit_arrives _ _ _ _ (by decide +kernel), by decide +kernel⟩

theorem witness_AnswersAndSlice_c0 : ∃ (s : State) (pk : Nat) (t : Nat) (th : Nat) (req : Nat) (p : Packet) (x : Thread) (w : Await) (data : Quad) (tag : Bool) (psn : Bool) (va : VAddr),
    s.Arrives pk p t ∧
    p.body = Payload.response th req 0 data tag psn va ∧
    s.thread? th = some x ∧
    x.park = some (Park.proxy req w) ∧
    w.how = 0 ∧
    w.inc = none ∧
    x.tandem = none ∧
    (List.map (fun th => th.id) s.threads).Nodup :=
  ⟨(packet (answer 0 (.response 2 60 0 77 false false 0)) (other (fellow (.slot 0 0 3) (some (.proxy 60 (await 0)))) demo)), 50, 0, 2, 60, (answer 0 (.response 2 60 0 77 false false 0)), (fellow (.slot 0 0 3) (some (.proxy 60 (await 0)))), (await 0), 77, false, false, 0, wit_arrives _ _ _ _ (by decide +kernel), by decide +kernel⟩

theorem witness_AnswersAndSlice_resend : ∃ (s : State) (th : Nat) (since : Nat),
    s.waitOf th = some (some (Park.proxyRefused since)) ∧
    64 ≤ s.time - since :=
  ⟨(other (fellow (.slot 0 0 3) (some (.proxyRefused 36))) { demo with time := 100 }), 2, 36, by decide +kernel⟩

theorem witness_AnswersAndSlice_ack : ∃ (s : State) (pk : Nat) (t : Nat) (sent : Nat) (seq : Nat) (p : Packet) (x : Thread) (va : VAddr),
    s.Arrives pk p t ∧
    p.body = Payload.ack sent 0 va ∧
    s.sender sent = some (x, seq) :=
  ⟨(packet (answer 0 (.ack 60 0 0)) (other (fellowStores [sentEntry 3 60]) demo)), 50, 0, 60, 3, (answer 0 (.ack 60 0 0)), (fellowStores [sentEntry 3 60]), 0, wit_arrives _ _ _ _ (by decide +kernel), by decide +kernel⟩

theorem witness_AnswersAndSlice_discarded : ∃ (s : State) (pk : Nat) (t : Nat) (sent : Nat) (p : Packet) (va : VAddr),
    s.Arrives pk p t ∧
    p.body = Payload.ack sent 3 va ∧
    s.sender sent = none ∧
    (s.tile t).trapq.length < 64 ∧
    (s.tile t).trapWait = [] :=
  ⟨(packet (answer 0 (.ack 60 3 0)) demo), 50, 0, 60, (answer 0 (.ack 60 3 0)), 0, wit_arrives _ _ _ _ (by decide +kernel), by decide +kernel⟩

theorem witness_AnswersAndSlice_fill : ∃ (s : State) (t : Nat) (sb : Nat) (z : Super),
    (s.tile t).super? sb = some z ∧
    z.filling = true :=
  ⟨(tile (fun x => { x with slice := [{ superOf0 with filling := true }] }) demo), 0, 3, { superOf0 with filling := true }, by decide +kernel⟩

theorem witness_AnswersAndSlice_snapshot : ∃ (s : State) (t : Nat) (block : Nat),
    (s.tile t).snapping.contains block = true ∧
    keySite (block * 1024) = t :=
  ⟨(tile (fun x => { x with snapping := [131072] }) demo), 0, 131072, by decide +kernel⟩

theorem witness_AnswersAndSlice_loss : ∃ (s : State) (t : Nat) (asid : Nat) (lgen : Nat) (x : Nat × Tile) (r : Resid) (e : Resid),
    lgen < 65536 ∧
    x ∈ s.tiles ∧
    x.snd.resid? asid lgen = some e ∧
    e.nrb = true ∧
    (s.tile t).resid? asid lgen = some r :=
  ⟨(demo.modTile 1 fun x => { x with resid := [{ resid 1 with nrb := true }] }), 0, 5, 7, (1, { site 1 with resid := [{ resid 1 with nrb := true }] }), (resid 0), { resid 1 with nrb := true }, by decide +kernel⟩

theorem witness_AnswersAndSlice_scrub0 : ∃ (s : State) (t : Nat) (a : Nat) (n : Nat),
    a < 2 ^ 27 :=
  ⟨demo, 0, 0x7FFFFFF, 0, by decide +kernel⟩

theorem witness_AnswersAndSlice_scrub1 : ∃ (s : State) (t : Nat) (a : Nat) (n : Nat),
    a < 2 ^ 27 :=
  ⟨demo, 0, 0, 1, by decide +kernel⟩

theorem witness_AnswersAndSlice_scrub2 : ∃ (s : State) (t : Nat) (a : Nat) (n : Nat),
    a < 2 ^ 27 :=
  ⟨demo, 0, 0x7FFFFFF, 2, by decide +kernel⟩

theorem witness_SpecialRegistersReadAndWritten_read : ∃ (s : State) (p : Pfx) (d : RegNo),
    s.guardHolds p = true ∧
    (32 ≤ 0 → s.thr.priv ≠ 0) :=
  ⟨(sys demo), Pfx.none, 3, by decide +kernel⟩

theorem witness_SpecialRegistersReadAndWritten_read2 : ∃ (s : State) (p : Pfx) (d : RegNo),
    s.guardHolds p = true ∧
    (32 ≤ 0 → s.thr.priv ≠ 0) :=
  ⟨(sys (thr (fun th => { th with jc := win 16, eval := 5, epc := 7, estat := 0x1FF, seed := 9, fflg := 3, gval := 10, tid := 11, fmt := 12, mbxn := 5, retc := 13, ecause := 14 }) demo)), Pfx.none, 0, by decide +kernel⟩

theorem witness_SpecialRegistersReadAndWritten_readAny : ∃ (s : State) (p : Pfx) (d : RegNo) (n : BitVec 7),
    s.guardHolds p = true ∧
    sregAssigned n.toNat = true ∧
    n.toNat ≠ 54 ∧
    (32 ≤ n.toNat → s.thr.priv ≠ 0) :=
  ⟨(sys demo), Pfx.none, 3, 113, by decide +kernel⟩

theorem witness_SpecialRegistersReadAndWritten_readUser : ∃ (s : State) (p : Pfx) (d : RegNo) (n : BitVec 7),
    s.guardHolds p = true ∧
    sregAssigned n.toNat = true ∧
    n.toNat ≠ 54 ∧
    (32 ≤ n.toNat → s.thr.priv ≠ 0) :=
  ⟨demo, Pfx.none, 3, 27, by decide +kernel⟩

theorem witness_SpecialRegistersReadAndWritten_write : ∃ (s : State) (p : Pfx) (d : RegNo),
    s.guardHolds p = true ∧
    (sregUserWrite 10 = false → s.thr.priv ≠ 0) :=
  ⟨(sys (regs [(3, win 0x1F3)] demo)), Pfx.none, 3, by decide +kernel⟩

theorem witness_SpecialRegistersReadAndWritten_write2 : ∃ (s : State) (p : Pfx) (d : RegNo),
    s.guardHolds p = true ∧
    (sregUserWrite 10 = false → s.thr.priv ≠ 0) :=
  ⟨(sys (regs [(3, int 0)] demo)), Pfx.none, 3, by decide +kernel⟩

theorem witness_SpecialRegistersReadAndWritten_stat : ∃ (s : State) (p : Pfx) (d : RegNo),
    s.guardHolds p = true :=
  ⟨(regs [(3, int 0x1FF)] demo), Pfx.none, 3, by decide +kernel⟩

theorem witness_SpecialRegistersReadAndWritten_stat2 : ∃ (s : State) (p : Pfx) (d : RegNo),
    s.guardHolds p = true :=
  ⟨(sys (regs [(3, int 0)] demo)), Pfx.none, 3, by decide +kernel⟩

theorem witness_SpecialRegisterTraps_unassigned : ∃ (s : State) (p : Pfx) (d : RegNo) (n : BitVec 7),
    s.thr.intervalOpen = false ∧
    sregAssigned n.toNat = false :=
  ⟨demo, Pfx.none, 3, 127, by decide +kernel⟩

theorem witness_SpecialRegisterTraps_firmware : ∃ (s : State) (p : Pfx) (d : RegNo) (n : BitVec 7),
    s.thr.intervalOpen = false ∧
    sregAssigned n.toNat = false :=
  ⟨(thr (fun th => { th with stat := 0x80 }) demo), Pfx.none, 3, 127, by decide +kernel⟩

theorem witness_SpecialRegisterTraps_write : ∃ (s : State) (p : Pfx) (d : RegNo) (n : BitVec 7),
    s.thr.intervalOpen = false ∧
    n.toNat ≤ 27 ∧
    sregUserWrite n.toNat = false ∧
    s.thr.priv = 0 :=
  ⟨demo, Pfx.none, 3, 18, by decide +kernel⟩

theorem witness_SpecialRegisterTraps_read : ∃ (s : State) (p : Pfx) (d : RegNo) (n : BitVec 7),
    s.thr.intervalOpen = false ∧
    sregAssigned n.toNat = true ∧
    32 ≤ n.toNat ∧
    s.thr.priv = 0 :=
  ⟨demo, Pfx.none, 3, 113, by decide +kernel⟩

theorem witness_SpecialRegisterTraps_system : ∃ (s : State) (p : Pfx) (d : RegNo) (n : BitVec 7),
    s.thr.intervalOpen = false ∧
    sregAssigned n.toNat = true ∧
    sregNoWrite n.toNat = true ∧
    s.thr.priv ≠ 0 :=
  ⟨(sys (tile (fun x => { x with svec := code 0x100 }) demo)), Pfx.none, 3, 2, by decide +kernel⟩

theorem witness_TileRegisters_qown : ∃ (s : State) (t : Nat) (n : Nat) (v : Word),
    n < 4 :=
  ⟨demo, 0, 3, (BitVec.ofNat 64 (2 ^ 63 + 8 * 2 ^ 28 + 5 * 2 ^ 16)), by decide +kernel⟩

theorem witness_TileRegisters_scrub : ∃ (s : State) (t : Nat) (n : Nat),
    n < 4 ∧
    qownScrub ((s.tile t).owner n) = true :=
  ⟨(tile (fun x => { x with qown := [(3, ownRecord + 2 ^ 62)] }) (demo.poke (scratchKey 0 7 (3 * 768) 24575) [9, 9])), 0, 3, by decide +kernel⟩

theorem witness_TileRegisters_evown : ∃ (s : State) (t : Nat) (n : Nat) (v : Word),
    n < 4 :=
  ⟨demo, 0, 3, ownRecord, by decide +kernel⟩

theorem witness_TileRegisters_bank : ∃ (s : State) (t : Nat) (n : Nat),
    n < 4 ∧
    qownScrub ((s.tile t).ev.owner n) = true :=
  ⟨(tile (fun x => { x with ev := { x.ev with own := [(3, ownRecord + 2 ^ 62)], acc := [(49151, 5), (49152, 6)] } }) demo), 0, 3, by decide +kernel⟩

theorem witness_TileRegisters_evqb : ∃ (s : State) (t : Nat) (v : Word),
    (s.tile t).ev.queue = [] ∧
    (∀ (n : Nat), n < 4 → qownV ((s.tile t).ev.owner n) = false) ∧
    wbits v 12 0 + 256 ≤ 7168 :=
  ⟨demo, 0, (2 ^ 63 + 6912), by decide +kernel, (by decide +kernel), by decide +kernel⟩

theorem witness_TileRegisters_mslot : ∃ (s : State) (t : Nat) (v : Word) (r : Resid),
    (s.tile t).residOf (wbits v 27 16) = some r ∧
    wbits v 13 8 + wbits v 6 0 ≤ 64 :=
  ⟨demo, 0, (BitVec.ofNat 64 (5 * 2 ^ 16 + 63 * 256 + 1)), (resid 0), by decide +kernel⟩

theorem witness_TileRegisters_cxbase : ∃ (s : State) (t : Nat) (v : Word) (r : Resid),
    (s.tile t).residOf (wbits v 27 16) = some r :=
  ⟨demo, 0, (BitVec.ofNat 64 (5 * 2 ^ 16 + 8191)), (resid 0), by decide +kernel⟩

theorem witness_TileRegisters_field : ∃ (s : State) (t : Nat) (k : Nat) (v : Word) (g : Bool),
    BitVec.getLsbD ((s.tile t).count 62) 9 = g ∧
    (s.tile t).gen ≠ g ∧
    wbits ((s.tile t).count 62) 8 7 = k ∧
    k < 3 ∧
    wbits ((s.tile t).count 62) 6 0 < tableSize k ∧
    (List.find? (fun b => decide (b.fst = g)) (s.tile t).banks).isSome = true :=
  ⟨(tile (fun x => { x with ctr := [(62, 0x200 + 0 * 128 + 80), (63, 7)] }) demo), 0, 0, 5, true, by decide +kernel⟩

theorem witness_TileRegisters_quadrant : ∃ (s : State) (t : Nat) (k : Nat) (v : Word) (g : Bool),
    BitVec.getLsbD ((s.tile t).count 62) 9 = g ∧
    (s.tile t).gen ≠ g ∧
    wbits ((s.tile t).count 62) 8 7 = k ∧
    k < 3 ∧
    wbits ((s.tile t).count 62) 6 0 < tableSize k ∧
    (List.find? (fun b => decide (b.fst = g)) (s.tile t).banks).isSome = true :=
  ⟨(tile (fun x => { x with ctr := [(62, 0x200 + 1 * 128 + 3), (63, 7)] }) demo), 0, 1, 5, true, by decide +kernel⟩

theorem witness_TileRegisters_sites : ∃ (s : State) (t : Nat) (k : Nat) (v : Word) (g : Bool),
    BitVec.getLsbD ((s.tile t).count 62) 9 = g ∧
    (s.tile t).gen ≠ g ∧
    wbits ((s.tile t).count 62) 8 7 = k ∧
    k < 3 ∧
    wbits ((s.tile t).count 62) 6 0 < tableSize k ∧
    (List.find? (fun b => decide (b.fst = g)) (s.tile t).banks).isSome = true :=
  ⟨(tile (fun x => { x with ctr := [(62, 0x200 + 2 * 128 + 4), (63, 7)] }) demo), 0, 2, 5, true, by decide +kernel⟩

theorem witness_TileRegisters_tmq : ∃ (s : State) (d : RegNo) (m : Miss) (rest : List Miss),
    (s.tile s.tileNo).missq = m :: rest :=
  ⟨(tile (fun x => { x with missq := [{ kind := 2, asid := 5, va := 0x123456789ABC }] }) demo), 3, { kind := 2, asid := 5, va := 0x123456789ABC }, [], by decide +kernel⟩

theorem witness_TileRegisters_tmqEmpty : ∃ (s : State) (d : RegNo),
    (s.tile s.tileNo).missq = [] :=
  ⟨demo, 3, by decide +kernel⟩

-- control and traps
theorem witness_Transfers_notTaken : ∃ (s : State) (p : Pfx) (pp : PredNo) (n : Bool) (off : Word),
    s.guardHolds p = true ∧
    (s.pred pp != n) = false :=
  ⟨demo, Pfx.none, 1, false, 0x100, by decide +kernel⟩

theorem witness_Transfers_taken : ∃ (s : State) (p : Pfx) (pp : PredNo) (n : Bool) (off : Word),
    s.guardHolds p = true ∧
    (s.thr.pcc.withCursor (s.pc + 2 * BitVec.setWidth 48 off)).Executable ∧
    (s.pred pp != n) = true :=
  ⟨demo, Pfx.none, 0, false, 0x1FFF, by decide +kernel, wit_executable _ (by decide +kernel), by decide +kernel⟩

theorem witness_Transfers_backwards : ∃ (s : State) (p : Pfx) (pp : PredNo) (n : Bool) (off : Word),
    s.guardHolds p = true ∧
    (s.thr.pcc.withCursor (s.pc + 2 * BitVec.setWidth 48 off)).Executable ∧
    (s.pred pp != n) = true :=
  ⟨(thr (fun th => { th with pcc := code 16382 }) demo), Pfx.none, 1, true, 0xFFFFFFFFFFFFE001, by decide +kernel, wit_executable _ (by decide +kernel), by decide +kernel⟩

theorem witness_Transfers_always : ∃ (s : State) (p : Pfx) (pp : PredNo) (n : Bool) (off : Word),
    s.guardHolds p = true ∧
    (s.thr.pcc.withCursor (s.pc + 2 * BitVec.setWidth 48 off)).Executable :=
  ⟨demo, Pfx.none, 0, false, 0x20, by decide +kernel, wit_executable _ (by decide +kernel)⟩

theorem witness_Transfers_register : ∃ (s : State) (p : Pfx) (a : RegNo) (c : Reg),
    s.guardHolds p = true ∧
    c.Executable ∧
    (c = if (s.reg a).tag = true then s.reg a else s.thr.pcc.withCursor (s.reg a).cursor) :=
  ⟨(regs [(2, code 0x40)] demo), Pfx.none, 2, (code 0x40), by decide +kernel, wit_executable _ (by decide +kernel), by decide +kernel⟩

theorem witness_Transfers_cursor : ∃ (s : State) (p : Pfx) (a : RegNo) (c : Reg),
    s.guardHolds p = true ∧
    c.Executable ∧
    (c = if (s.reg a).tag = true then s.reg a else s.thr.pcc.withCursor (s.reg a).cursor) :=
  ⟨(regs [(2, int 0x13FFE), (15, int 0x10000)] demo), Pfx.none, 2, (code 0x3FFE), by decide +kernel, wit_executable _ (by decide +kernel), by decide +kernel⟩

theorem witness_Transfers_ret : ∃ (s : State) (p : Pfx) (a : RegNo) (c : Reg),
    s.guardHolds p = true ∧
    c.Executable ∧
    (c = if (s.reg 15).tag = true then s.reg 15 else s.thr.pcc.withCursor (s.reg 15).cursor) :=
  ⟨(regs [(15, code 0x40)] demo), Pfx.none, 2, (code 0x40), by decide +kernel, wit_executable _ (by decide +kernel), by decide +kernel⟩

theorem witness_TransferChecksInOrder_untagged : ∃ (s : State) (p : Pfx) (i : Instr) (c : Reg),
    s.guardHolds p = true ∧
    s.thr.priv = 0 ∧
    s.thr.intervalOpen = false ∧
    s.tvec.Executable ∧
    ((∃ a,
        (i = Instr.jr p a ∨ i = Instr.callr p a) ∧
          c = if (s.reg a).tag = true then s.reg a else s.thr.pcc.withCursor (s.reg a).cursor) ∨
      (i = Instr.ret p ∧ c = if (s.reg 15).tag = true then s.reg 15 else s.thr.pcc.withCursor (s.reg 15).cursor) ∨
        ∃ off,
          (i = Instr.jmp p off ∨ i = Instr.call p off ∨ ∃ pp n, i = Instr.br p pp n off ∧ (s.pred pp != n) = true) ∧
            c = s.thr.pcc.withCursor (s.pc + 2 * BitVec.setWidth 48 off)) ∧
    c.tag = false :=
  ⟨(thr (fun th => { th with pcc := { code 0 with tag := false } }) demo), Pfx.none, (.jr .none 3), ({ code 0 with tag := false }.withCursor 0), by decide +kernel, by decide +kernel, by decide +kernel, wit_executable _ (by decide +kernel), (.inl ⟨3, .inl rfl, by decide +kernel⟩), by decide +kernel⟩

theorem witness_TransferChecksInOrder_permission : ∃ (s : State) (p : Pfx) (i : Instr) (c : Reg),
    s.guardHolds p = true ∧
    s.thr.priv = 0 ∧
    s.thr.intervalOpen = false ∧
    s.tvec.Executable ∧
    ((∃ a,
        (i = Instr.jr p a ∨ i = Instr.callr p a) ∧
          c = if (s.reg a).tag = true then s.reg a else s.thr.pcc.withCursor (s.reg a).cursor) ∨
      (i = Instr.ret p ∧ c = if (s.reg 15).tag = true then s.reg 15 else s.thr.pcc.withCursor (s.reg 15).cursor) ∨
        ∃ off,
          (i = Instr.jmp p off ∨ i = Instr.call p off ∨ ∃ pp n, i = Instr.br p pp n off ∧ (s.pred pp != n) = true) ∧
            c = s.thr.pcc.withCursor (s.pc + 2 * BitVec.setWidth 48 off)) ∧
    c.tag = true ∧
    c.can permX = false :=
  ⟨demo, Pfx.none, (.callr .none 1), (win 256), by decide +kernel, by decide +kernel, by decide +kernel, wit_executable _ (by decide +kernel), (.inl ⟨1, .inr rfl, by decide +kernel⟩), by decide +kernel⟩

theorem witness_TransferChecksInOrder_span : ∃ (s : State) (p : Pfx) (i : Instr) (c : Reg),
    s.guardHolds p = true ∧
    s.thr.priv = 0 ∧
    s.thr.intervalOpen = false ∧
    s.tvec.Executable ∧
    ((∃ a,
        (i = Instr.jr p a ∨ i = Instr.callr p a) ∧
          c = if (s.reg a).tag = true then s.reg a else s.thr.pcc.withCursor (s.reg a).cursor) ∨
      (i = Instr.ret p ∧ c = if (s.reg 15).tag = true then s.reg 15 else s.thr.pcc.withCursor (s.reg 15).cursor) ∨
        ∃ off,
          (i = Instr.jmp p off ∨ i = Instr.call p off ∨ ∃ pp n, i = Instr.br p pp n off ∧ (s.pred pp != n) = true) ∧
            c = s.thr.pcc.withCursor (s.pc + 2 * BitVec.setWidth 48 off)) ∧
    c.tag = true ∧
    c.can permX = true ∧
    (BitVec.toNat c.cursor < c.base ∨ c.limit < BitVec.toNat c.cursor + 2 ∨ 2 ^ 48 < BitVec.toNat c.cursor + 2) :=
  ⟨(regs [(15, code 16384)] demo), Pfx.none, (.ret .none), (code 16384), by decide +kernel, by decide +kernel, by decide +kernel, wit_executable _ (by decide +kernel), (.inr (.inl ⟨rfl, by decide +kernel⟩)), by decide +kernel⟩

theorem witness_TransferChecksInOrder_past : ∃ (s : State) (p : Pfx) (i : Instr) (c : Reg),
    s.guardHolds p = true ∧
    s.thr.priv = 0 ∧
    s.thr.intervalOpen = false ∧
    s.tvec.Executable ∧
    ((∃ a,
        (i = Instr.jr p a ∨ i = Instr.callr p a) ∧
          c = if (s.reg a).tag = true then s.reg a else s.thr.pcc.withCursor (s.reg a).cursor) ∨
      (i = Instr.ret p ∧ c = if (s.reg 15).tag = true then s.reg 15 else s.thr.pcc.withCursor (s.reg 15).cursor) ∨
        ∃ off,
          (i = Instr.jmp p off ∨ i = Instr.call p off ∨ ∃ pp n, i = Instr.br p pp n off ∧ (s.pred pp != n) = true) ∧
            c = s.thr.pcc.withCursor (s.pc + 2 * BitVec.setWidth 48 off)) ∧
    c.tag = true ∧
    c.can permX = true ∧
    (BitVec.toNat c.cursor < c.base ∨ c.limit < BitVec.toNat c.cursor + 2 ∨ 2 ^ 48 < BitVec.toNat c.cursor + 2) :=
  ⟨demo, Pfx.none, (.jmp .none 0x2000), (code 0x4000), by decide +kernel, by decide +kernel, by decide +kernel, wit_executable _ (by decide +kernel), (.inr (.inr ⟨0x2000, .inl rfl, by decide +kernel⟩)), by decide +kernel⟩

theorem witness_TransferChecksInOrder_branch : ∃ (s : State) (p : Pfx) (i : Instr) (c : Reg),
    s.guardHolds p = true ∧
    s.thr.priv = 0 ∧
    s.thr.intervalOpen = false ∧
    s.tvec.Executable ∧
    ((∃ a,
        (i = Instr.jr p a ∨ i = Instr.callr p a) ∧
          c = if (s.reg a).tag = true then s.reg a else s.thr.pcc.withCursor (s.reg a).cursor) ∨
      (i = Instr.ret p ∧ c = if (s.reg 15).tag = true then s.reg 15 else s.thr.pcc.withCursor (s.reg 15).cursor) ∨
        ∃ off,
          (i = Instr.jmp p off ∨ i = Instr.call p off ∨ ∃ pp n, i = Instr.br p pp n off ∧ (s.pred pp != n) = true) ∧
            c = s.thr.pcc.withCursor (s.pc + 2 * BitVec.setWidth 48 off)) ∧
    c.tag = true ∧
    c.can permX = true ∧
    (BitVec.toNat c.cursor < c.base ∨ c.limit < BitVec.toNat c.cursor + 2 ∨ 2 ^ 48 < BitVec.toNat c.cursor + 2) :=
  ⟨demo, Pfx.none, (.br .none 0 false 0xFFFFFFFFFFFFFFFF), (code (2 ^ 48 - 2)), by decide +kernel, by decide +kernel, by decide +kernel, wit_executable _ (by decide +kernel), (.inr (.inr ⟨0xFFFFFFFFFFFFFFFF, .inr (.inr ⟨0, false, rfl, by decide +kernel⟩), by decide +kernel⟩)), by decide +kernel⟩

theorem witness_TransferChecksInOrder_call : ∃ (s : State) (p : Pfx) (i : Instr) (c : Reg),
    s.guardHolds p = true ∧
    s.thr.priv = 0 ∧
    s.thr.intervalOpen = false ∧
    s.tvec.Executable ∧
    ((∃ a,
        (i = Instr.jr p a ∨ i = Instr.callr p a) ∧
          c = if (s.reg a).tag = true then s.reg a else s.thr.pcc.withCursor (s.reg a).cursor) ∨
      (i = Instr.ret p ∧ c = if (s.reg 15).tag = true then s.reg 15 else s.thr.pcc.withCursor (s.reg 15).cursor) ∨
        ∃ off,
          (i = Instr.jmp p off ∨ i = Instr.call p off ∨ ∃ pp n, i = Instr.br p pp n off ∧ (s.pred pp != n) = true) ∧
            c = s.thr.pcc.withCursor (s.pc + 2 * BitVec.setWidth 48 off)) ∧
    c.tag = true ∧
    c.can permX = true ∧
    (BitVec.toNat c.cursor < c.base ∨ c.limit < BitVec.toNat c.cursor + 2 ∨ 2 ^ 48 < BitVec.toNat c.cursor + 2) :=
  ⟨demo, Pfx.none, (.call .none 0x2000), (code 0x4000), by decide +kernel, by decide +kernel, by decide +kernel, wit_executable _ (by decide +kernel), (.inr (.inr ⟨0x2000, .inr (.inl rfl), by decide +kernel⟩)), by decide +kernel⟩

theorem witness_TransferChecksInOrder_alignment : ∃ (s : State) (p : Pfx) (i : Instr) (c : Reg),
    s.guardHolds p = true ∧
    s.thr.priv = 0 ∧
    s.thr.intervalOpen = false ∧
    s.tvec.Executable ∧
    ((∃ a,
        (i = Instr.jr p a ∨ i = Instr.callr p a) ∧
          c = if (s.reg a).tag = true then s.reg a else s.thr.pcc.withCursor (s.reg a).cursor) ∨
      (i = Instr.ret p ∧ c = if (s.reg 15).tag = true then s.reg 15 else s.thr.pcc.withCursor (s.reg 15).cursor) ∨
        ∃ off,
          (i = Instr.jmp p off ∨ i = Instr.call p off ∨ ∃ pp n, i = Instr.br p pp n off ∧ (s.pred pp != n) = true) ∧
            c = s.thr.pcc.withCursor (s.pc + 2 * BitVec.setWidth 48 off)) ∧
    c.tag = true ∧
    c.can permX = true ∧
    c.base ≤ BitVec.toNat c.cursor ∧
    BitVec.toNat c.cursor + 2 ≤ c.limit ∧
    BitVec.toNat c.cursor + 2 ≤ 2 ^ 48 ∧
    BitVec.toNat c.cursor % 2 = 1 :=
  ⟨(regs [(2, int 0x10001)] demo), Pfx.none, (.jr .none 2), (code 1), by decide +kernel, by decide +kernel, by decide +kernel, wit_executable _ (by decide +kernel), (.inl ⟨2, .inl rfl, by decide +kernel⟩), by decide +kernel⟩

theorem witness_TransferChecksInOrder_last : ∃ (s : State) (p : Pfx) (i : Instr) (c : Reg),
    s.guardHolds p = true ∧
    s.thr.priv = 0 ∧
    s.thr.intervalOpen = false ∧
    s.tvec.Executable ∧
    ((∃ a,
        (i = Instr.jr p a ∨ i = Instr.callr p a) ∧
          c = if (s.reg a).tag = true then s.reg a else s.thr.pcc.withCursor (s.reg a).cursor) ∨
      (i = Instr.ret p ∧ c = if (s.reg 15).tag = true then s.reg 15 else s.thr.pcc.withCursor (s.reg 15).cursor) ∨
        ∃ off,
          (i = Instr.jmp p off ∨ i = Instr.call p off ∨ ∃ pp n, i = Instr.br p pp n off ∧ (s.pred pp != n) = true) ∧
            c = s.thr.pcc.withCursor (s.pc + 2 * BitVec.setWidth 48 off)) ∧
    c.tag = true ∧
    c.can permX = true ∧
    c.base ≤ BitVec.toNat c.cursor ∧
    BitVec.toNat c.cursor + 2 ≤ c.limit ∧
    BitVec.toNat c.cursor + 2 ≤ 2 ^ 48 ∧
    BitVec.toNat c.cursor % 2 = 1 :=
  ⟨(regs [(2, code 16381)] demo), Pfx.none, (.callr .none 2), (code 16381), by decide +kernel, by decide +kernel, by decide +kernel, wit_executable _ (by decide +kernel), (.inl ⟨2, .inr rfl, by decide +kernel⟩), by decide +kernel⟩

theorem witness_TrapsEnterAndReturn_user : ∃ (s : State) (p : Pfx) (code : Word),
    s.guardHolds p = true ∧
    s.thr.intervalOpen = false ∧
    s.thr.priv = 0 ∧
    s.tvec.Executable :=
  ⟨demo, Pfx.none, 0x3FF, by decide +kernel, by decide +kernel, by decide +kernel, wit_executable _ (by decide +kernel)⟩

theorem witness_TrapsEnterAndReturn_system : ∃ (s : State) (p : Pfx) (code : Word),
    s.guardHolds p = true ∧
    s.thr.intervalOpen = false ∧
    s.thr.priv = 1 ∧
    (s.tile s.tileNo).svec.Executable :=
  ⟨(sys (tile (fun x => { x with svec := code 0x100 }) demo)), Pfx.none, 1, by decide +kernel, by decide +kernel, by decide +kernel, wit_executable _ (by decide +kernel)⟩

theorem witness_TrapsEnterAndReturn_eret : ∃ (s : State) (p : Pfx),
    s.guardHolds p = true ∧
    (BitVec.extractLsb' 6 2 s.thr.estat).toNat ≤ s.thr.priv ∧
    (((if BitVec.extractLsb' 6 2 s.thr.estat = 0 then s.codeCap else (s.tile s.tileNo).spcc).withCursor s.thr.epc).Executable) :=
  ⟨(thr (fun th => { th with epc := 0x13FFE, estat := 0x107 }) demo), Pfx.none, by decide +kernel, by decide +kernel, wit_executable _ (by decide +kernel)⟩

theorem witness_TrapsEnterAndReturn_eretSystem : ∃ (s : State) (p : Pfx),
    s.guardHolds p = true ∧
    (BitVec.extractLsb' 6 2 s.thr.estat).toNat ≤ s.thr.priv ∧
    (((if BitVec.extractLsb' 6 2 s.thr.estat = 0 then s.codeCap else (s.tile s.tileNo).spcc).withCursor s.thr.epc).Executable) :=
  ⟨(sys (tile (fun x => { x with spcc := code 0x100 }) (thr (fun th => { th with epc := 0x10000, estat := 0x0FF - 0x80 }) demo))), Pfx.none, by decide +kernel, by decide +kernel, wit_executable _ (by decide +kernel)⟩

theorem witness_TrapsEnterAndReturn_eretDown : ∃ (s : State) (p : Pfx),
    s.guardHolds p = true ∧
    (BitVec.extractLsb' 6 2 s.thr.estat).toNat ≤ s.thr.priv ∧
    (((if BitVec.extractLsb' 6 2 s.thr.estat = 0 then s.codeCap else (s.tile s.tileNo).spcc).withCursor s.thr.epc).Executable) :=
  ⟨(sys (thr (fun th => { th with epc := 0x10000, estat := 2 }) demo)), Pfx.none, by decide +kernel, by decide +kernel, wit_executable _ (by decide +kernel)⟩

theorem witness_TrapsEnterAndReturn_eretUp : ∃ (s : State) (p : Pfx),
    s.guardHolds p = true ∧
    s.thr.priv < (BitVec.extractLsb' 6 2 s.thr.estat).toNat ∧
    s.thr.priv = 0 ∧
    s.thr.intervalOpen = false :=
  ⟨(thr (fun th => { th with estat := 0x40 }) demo), Pfx.none, by decide +kernel⟩

theorem witness_YieldPinsAndFences_alone : ∃ (s : State) (p : Pfx),
    s.guardHolds p = true ∧
    s.thr.intervalOpen = false ∧
    (∀ (id : Nat),
      id ∈ (s.tile s.tileNo).ctxq → ∀ (th : Thread), s.thread? id = some th → (s.tile s.tileNo).resid? th.asid th.lgen = none) :=
  ⟨demo, Pfx.none, by decide +kernel⟩

theorem witness_YieldPinsAndFences_coupled : ∃ (s : State) (p : Pfx),
    s.guardHolds p = true ∧
    s.thr.intervalOpen = false ∧
    (s.thr.tandem ≠ none ∨ ∀ (u c n : Nat), s.thr.loc = Loc.slot u c n → 8 ≤ c ∨ n < 2) :=
  ⟨(thr (fun th => { th with tandem := some { tandem with count := 0 } }) (tile (fun x => { x with ctxq := [2] }) (other (fellow (.queue 0) none) demo))), Pfx.none, by decide +kernel, by decide +kernel, (.inl (by decide +kernel))⟩

theorem witness_YieldPinsAndFences_elsewhere : ∃ (s : State) (p : Pfx),
    s.guardHolds p = true ∧
    s.thr.intervalOpen = false ∧
    (s.thr.tandem ≠ none ∨ ∀ (u c n : Nat), s.thr.loc = Loc.slot u c n → 8 ≤ c ∨ n < 2) :=
  ⟨(thr (fun th => { th with loc := .slot 0 0 1 }) (tile (fun x => { x with ctxq := [2] }) (other (fellow (.queue 0) none) demo))), Pfx.none, by decide +kernel, by decide +kernel, (.inr (fun u c n h => by cases h; exact .inr (by decide)))⟩

theorem witness_YieldPinsAndFences_yield : ∃ (s : State) (p : Pfx) (u : Nat) (c : Nat) (n : Nat) (id : Nat) (th : Thread),
    s.guardHolds p = true ∧
    s.thr.intervalOpen = false ∧
    s.thr.loc = Loc.slot u c n ∧
    c < 8 ∧
    2 ≤ n ∧
    s.thr.tandem = none ∧
    id ∈ (s.tile u).ctxq ∧
    s.thread? id = some th ∧
    ((s.tile u).resid? th.asid th.lgen).isSome = true :=
  ⟨(tile (fun x => { x with ctxq := [2] }) (other (fellow (.queue 0) none) demo)), Pfx.none, 0, 0, 2, 2, (fellow (.queue 0) none), by decide +kernel⟩

theorem witness_YieldPinsAndFences_counts : ∃ (th : Thread),
    th.pinx = false ∧
    th.pinned = true ∧
    th.pinc ≠ 0 :=
  ⟨{ thread with stat := 8, pinc := 1 }, by decide +kernel⟩

theorem witness_YieldPinsAndFences_pinx : ∃ (th : Thread),
    th.pinx = true :=
  ⟨{ thread with stat := 8, pinc := 1, pinx := true }, by decide +kernel⟩

theorem witness_YieldPinsAndFences_transfer : ∃ (s : State) (pg : Nat) (p : Pfx) (c : Reg),
    s.thr.pinx = true ∧
    checkCap c 2 permX = Except.ok c.cursor :=
  ⟨(thr (fun th => { th with stat := 8, pinc := 1, pinx := true }) demo), 0, Pfx.none, (code 0x3FFE), by decide +kernel, wit_ok (by decide +kernel)⟩

theorem witness_YieldPinsAndFences_pin : ∃ (s : State) (p : Pfx) (sc : Scope),
    s.guardHolds p = true :=
  ⟨demo, Pfx.none, .tile, by decide +kernel⟩

theorem witness_YieldPinsAndFences_unpin : ∃ (s : State) (p : Pfx) (sc : Scope),
    s.guardHolds p = true :=
  ⟨(thr (fun th => { th with stat := 8, pinc := 5 }) demo), Pfx.none, .tile, by decide +kernel⟩

theorem witness_YieldPinsAndFences_acquire : ∃ (s : State) (p : Pfx) (sc : Scope),
    s.guardHolds p = true :=
  ⟨demo, Pfx.none, .field, by decide +kernel⟩

theorem witness_YieldPinsAndFences_release : ∃ (s : State) (p : Pfx) (sc : Scope),
    s.guardHolds p = true :=
  ⟨demo, Pfx.none, .module, by decide +kernel⟩

theorem witness_YieldPinsAndFences_sc : ∃ (s : State) (p : Pfx) (sc : Scope),
    s.guardHolds p = true ∧
    ackedIn s.thr.ltn sc s.thr.sb = true :=
  ⟨demo, Pfx.none, .system, by decide +kernel⟩

theorem witness_YieldPinsAndFences_plain : ∃ (s : State) (p : Pfx) (sc : Scope),
    s.guardHolds p = true ∧
    drained s.thr.sb = true :=
  ⟨demo, Pfx.none, .system, by decide +kernel⟩

theorem witness_YieldPinsAndFences_waits : ∃ (s : State) (p : Pfx) (sc : Scope),
    s.guardHolds p = true :=
  ⟨(thr (fun th => { th with sb := [entry 1 5 (.tile 1 (vaultKey 1 0) 1)] }) demo), Pfx.none, .field, by decide +kernel⟩

-- loads and stores
theorem witness_WindowLoads_byte : ∃ (s : State) (p : Pfx) (d : RegNo) (a : RegNo) (imm : Word) (o : Order) (sc : Scope),
    s.guardHolds p = true ∧
    (o = Order.sc → ackedIn s.thr.ltn sc s.thr.sb = true) ∧
    ((s.reg a).at (imm * 1#64)).Covers 1 permR ∧
    s.InWindow ((s.reg a).at (imm * 1#64)).cursor 1 ∧
    (∀ (x : SbItem), x ∈ s.thr.sb → SbItem.overlaps (s.windowAt ((s.reg a).at (imm * 1#64)).cursor) 1 x = false) ∧
    s.poisoned (s.windowAt ((s.reg a).at (imm * 1#64)).cursor) 1 = false :=
  ⟨(regs [(2, win 786431)] (demo.poke (scratchKey 0 7 3071 31) [0x80])), Pfx.none, 2, 2, 0, .sc, .system, by decide +kernel, by decide +kernel, wit_covers _ _ _ (by decide +kernel), wit_inWindow _ _ _ (by decide +kernel), by decide +kernel⟩

theorem witness_WindowLoads_each : ∃ (s : State) (p : Pfx) (d : RegNo) (a : RegNo) (imm : Word) (o : Order) (sc : Scope),
    s.guardHolds p = true ∧
    (o = Order.sc → ackedIn s.thr.ltn sc s.thr.sb = true) ∧
    ((s.reg a).at (imm * 1#64)).Covers 1 permR ∧
    s.InWindow ((s.reg a).at (imm * 1#64)).cursor 1 ∧
    (∀ (x : SbItem), x ∈ s.thr.sb → SbItem.overlaps (s.windowAt ((s.reg a).at (imm * 1#64)).cursor) 1 x = false) ∧
    s.poisoned (s.windowAt ((s.reg a).at (imm * 1#64)).cursor) 1 = false :=
  ⟨((demo.poke (windowKey 0 [0, 1, 2, 3] 256) [1, 2, 3, 4, 5, 6, 7, 0x88])), Pfx.none, 2, 1, 0, .acquire, .tile, by decide +kernel, by decide +kernel, wit_covers _ _ _ (by decide +kernel), wit_inWindow _ _ _ (by decide +kernel), by decide +kernel⟩

theorem witness_WindowLoads_dword : ∃ (s : State) (p : Pfx) (d : RegNo) (a : RegNo) (imm : Word) (o : Order) (sc : Scope),
    s.guardHolds p = true ∧
    (o = Order.sc → ackedIn s.thr.ltn sc s.thr.sb = true) ∧
    ((s.reg a).at (imm * 8#64)).Covers 8 permR ∧
    s.InWindow ((s.reg a).at (imm * 8#64)).cursor 8 ∧
    (∀ (x : SbItem), x ∈ s.thr.sb → SbItem.overlaps (s.windowAt ((s.reg a).at (imm * 8#64)).cursor) 8 x = false) ∧
    s.poisoned (s.windowAt ((s.reg a).at (imm * 8#64)).cursor) 8 = false :=
  ⟨(regs [(2, win 98304)] demo), Pfx.none, 0, 2, 0xFFFFFFFFFFFFFFFF, .plain, .tile, by decide +kernel, by decide +kernel, wit_covers _ _ _ (by decide +kernel), wit_inWindow _ _ _ (by decide +kernel), by decide +kernel⟩

theorem witness_WindowLoads_quad : ∃ (s : State) (p : Pfx) (d : RegNo) (a : RegNo) (imm : Word) (o : Order) (sc : Scope),
    s.guardHolds p = true ∧
    (o = Order.sc → ackedIn s.thr.ltn sc s.thr.sb = true) ∧
    ((s.reg a).at (imm * 16)).Covers 16 permR ∧
    s.InWindow ((s.reg a).at (imm * 16)).cursor 16 ∧
    (∀ (x : SbItem), x ∈ s.thr.sb → SbItem.overlaps (s.windowAt ((s.reg a).at (imm * 16)).cursor) 16 x = false) ∧
    s.poisoned (s.windowAt ((s.reg a).at (imm * 16)).cursor) 16 = false :=
  ⟨(regs [(2, win 786432)] ((demo.poke (scratchKey 0 7 3071 16) [1, 2, 3, 4, 5, 6, 7, 0x88]).setTag (scratchKey 0 7 3071 16) true)), Pfx.none, 2, 2, 0xFFFFFFFFFFFFFFFF, .plain, .tile, by decide +kernel, by decide +kernel, wit_covers _ _ _ (by decide +kernel), wit_inWindow _ _ _ (by decide +kernel), by decide +kernel⟩

theorem witness_WindowLoads_pair : ∃ (s : State) (p : Pfx) (d : RegNo) (a : RegNo) (imm : Word) (o : Order) (sc : Scope),
    s.guardHolds p = true ∧
    (o = Order.sc → ackedIn s.thr.ltn sc s.thr.sb = true) ∧
    d ≠ a ∧
    (s.reg a).Covers 8 permR ∧
    s.InWindow (s.reg a).cursor 8 ∧
    (∀ (x : SbItem), x ∈ s.thr.sb → SbItem.overlaps (s.windowAt (s.reg a).cursor) 8 x = false) ∧
    s.poisoned (s.windowAt (s.reg a).cursor) 8 = false :=
  ⟨(regs [(2, win 0)] demo), Pfx.none, 3, 2, 0xFFFFFFFFFFFFFFFF, .plain, .tile, by decide +kernel, by decide +kernel, by decide +kernel, wit_covers _ _ _ (by decide +kernel), wit_inWindow _ _ _ (by decide +kernel), by decide +kernel⟩

theorem witness_VaultLoads : ∃ (s : State) (s' : State) (p : Pfx) (d : RegNo) (a : RegNo) (imm : Word) (sc : Scope) (u : Nat) (pa : Nat),
    s.guardHolds p = true ∧
    ((s.reg a).at (imm * 8#64)).Covers 8 permR ∧
    (∀ (k : State → Home → Out),
      s.withHome ((s.reg a).at (imm * 8#64)).cursor 8 0 false Step7a.open k = k s' (Home.tile u pa s'.thr.ltn)) ∧
    s'.readWaits s'.thr.id pa 8 = none ∧
    (∀ (x : SbItem), x ∈ s'.thr.sb → SbItem.overlaps pa 8 x = false) ∧
    s'.poisoned pa 8 = false :=
  ⟨vaultDemo, vaultDemo', Pfx.none, 3, 2, 0, .tile, 0, (vaultKey 0 0x14008), by decide +kernel, wit_covers _ _ _ (by decide +kernel), wit_vaultHome, by decide +kernel⟩

theorem witness_WindowStores_byte : ∃ (s : State) (p : Pfx) (d : RegNo) (a : RegNo) (imm : Word) (o : Order) (sc : Scope),
    s.guardHolds p = true ∧
    unsent s.thr.sb < 8 ∧
    ((s.reg a).at (imm * 1#64)).Covers 1 permW ∧
    s.InWindow ((s.reg a).at (imm * 1#64)).cursor 1 :=
  ⟨(regs [(2, win 786431)] demo), Pfx.none, 1, 2, 0, .release, .tile, by decide +kernel, by decide +kernel, wit_covers _ _ _ (by decide +kernel), wit_inWindow _ _ _ (by decide +kernel)⟩

theorem witness_WindowStores_each : ∃ (s : State) (p : Pfx) (d : RegNo) (a : RegNo) (imm : Word) (o : Order) (sc : Scope),
    s.guardHolds p = true ∧
    unsent s.thr.sb < 8 ∧
    ((s.reg a).at (imm * 1#64)).Covers 1 permW ∧
    s.InWindow ((s.reg a).at (imm * 1#64)).cursor 1 :=
  ⟨(regs [(2, win 98304)] demo), Pfx.none, 1, 2, 16, .plain, .tile, by decide +kernel, by decide +kernel, wit_covers _ _ _ (by decide +kernel), wit_inWindow _ _ _ (by decide +kernel)⟩

theorem witness_WindowStores_seven : ∃ (s : State) (p : Pfx) (d : RegNo) (a : RegNo) (imm : Word) (o : Order) (sc : Scope),
    s.guardHolds p = true ∧
    unsent s.thr.sb < 8 ∧
    ((s.reg a).at (imm * 16#64)).Covers 16 permW ∧
    s.InWindow ((s.reg a).at (imm * 16#64)).cursor 16 :=
  ⟨(thr (fun th => { th with sb := List.replicate 7 (entry 1 5 (.tile 1 (vaultKey 1 0) 1)) }) demo), Pfx.none, 0, 1, 16, .plain, .tile, by decide +kernel, by decide +kernel, wit_covers _ _ _ (by decide +kernel), wit_inWindow _ _ _ (by decide +kernel)⟩

theorem witness_WindowStores_capability : ∃ (s : State) (p : Pfx) (d : RegNo) (a : RegNo) (imm : Word) (o : Order) (sc : Scope),
    s.guardHolds p = true ∧
    unsent s.thr.sb < 8 ∧
    (((s.reg a).at (imm * 16)).Covers 16 (if (s.reg d).tag = true then permW ||| permSC else permW)) ∧
    s.InWindow ((s.reg a).at (imm * 16)).cursor 16 :=
  ⟨demo, Pfx.none, 1, 1, 1, .plain, .tile, by decide +kernel, by decide +kernel, wit_covers _ _ _ (by decide +kernel), wit_inWindow _ _ _ (by decide +kernel)⟩

theorem witness_WindowStores_pair : ∃ (s : State) (p : Pfx) (d : RegNo) (a : RegNo) (imm : Word) (o : Order) (sc : Scope),
    s.guardHolds p = true ∧
    unsent s.thr.sb < 8 ∧
    (s.reg a).Covers 8 permW ∧
    s.InWindow (s.reg a).cursor 8 :=
  ⟨demo, Pfx.none, 1, 1, 0xFFFFFFFFFFFFFFFF, .plain, .tile, by decide +kernel, by decide +kernel, wit_covers _ _ _ (by decide +kernel), wit_inWindow _ _ _ (by decide +kernel)⟩

theorem witness_StoreThenLoadForwards : ∃ (s : State) (t : State) (u : State) (p : Pfx) (q : Pfx) (d : RegNo) (e : RegNo) (a : RegNo) (imm : Word),
    s.guardHolds p = true ∧
    t.guardHolds q = true ∧
    e ≠ 0 ∧
    a ≠ 0 ∧
    unsent s.thr.sb < 8 ∧
    (∀ (x : SbItem), x ∈ s.thr.sb → x.isAtomic = false) ∧
    ((s.reg a).at (imm * 8)).Covers 8 (permR ||| permW) ∧
    s.InWindow ((s.reg a).at (imm * 8)).cursor 8 ∧
    exec (Instr.stD p d a imm Order.plain Scope.tile) s = Host.Outcome.next t ∧
    exec (Instr.ldD q e a imm Order.plain Scope.tile) t = Host.Outcome.next u :=
  ⟨(regs [(2, int 0x123456789)] demo), (after (.stD .none 2 1 1 .plain .tile) (regs [(2, int 0x123456789)] demo)), (after (.ldD .none 3 1 1 .plain .tile) (after (.stD .none 2 1 1 .plain .tile) (regs [(2, int 0x123456789)] demo))), Pfx.none, Pfx.none, 2, 3, 1, 1, by decide +kernel, by decide +kernel, by decide +kernel, by decide +kernel, ⟨by decide +kernel, by decide +kernel, wit_covers _ _ _ (by decide +kernel), wit_inWindow _ _ _ (by decide +kernel), wit_after _ _ (by decide +kernel), wit_after _ _ (by decide +kernel)⟩⟩

theorem witness_AccessChecksInOrder_tag : ∃ (s : State) (p : Pfx) (d : RegNo) (a : RegNo) (imm : Word) (o : Order) (sc : Scope),
    s.guardHolds p = true ∧
    s.thr.priv = 0 ∧
    s.thr.intervalOpen = false ∧
    s.tvec.Executable ∧
    (s.reg a).tag = false :=
  ⟨demo, Pfx.none, 3, 2, 0, .plain, .tile, by decide +kernel, by decide +kernel, by decide +kernel, wit_executable _ (by decide +kernel), by decide +kernel⟩

theorem witness_AccessChecksInOrder_permission : ∃ (s : State) (p : Pfx) (d : RegNo) (a : RegNo) (imm : Word) (o : Order) (sc : Scope),
    s.guardHolds p = true ∧
    s.thr.priv = 0 ∧
    s.thr.intervalOpen = false ∧
    s.tvec.Executable ∧
    (s.reg a).tag = true ∧
    (s.reg a).can permR = false :=
  ⟨(regs [(2, mkCap 0x20000 0 16384 0x1F8 0x20001)] demo), Pfx.none, 3, 2, 0, .plain, .tile, by decide +kernel, by decide +kernel, by decide +kernel, wit_executable _ (by decide +kernel), by decide +kernel⟩

theorem witness_AccessChecksInOrder_span : ∃ (s : State) (p : Pfx) (d : RegNo) (a : RegNo) (imm : Word) (o : Order) (sc : Scope),
    s.guardHolds p = true ∧
    s.thr.priv = 0 ∧
    s.thr.intervalOpen = false ∧
    s.tvec.Executable ∧
    (s.reg a).tag = true ∧
    (s.reg a).can permR = true ∧
    (BitVec.toNat ((s.reg a).at (imm * 1#64)).cursor < ((s.reg a).at (imm * 1#64)).base ∨
      ((s.reg a).at (imm * 1#64)).limit < BitVec.toNat ((s.reg a).at (imm * 1#64)).cursor + 1 ∨
        2 ^ 48 < BitVec.toNat ((s.reg a).at (imm * 1#64)).cursor + 1) :=
  ⟨(regs [(2, data 16384)] demo), Pfx.none, 3, 2, 0, .plain, .tile, by decide +kernel, by decide +kernel, by decide +kernel, wit_executable _ (by decide +kernel), by decide +kernel⟩

theorem witness_AccessChecksInOrder_below : ∃ (s : State) (p : Pfx) (d : RegNo) (a : RegNo) (imm : Word) (o : Order) (sc : Scope),
    s.guardHolds p = true ∧
    s.thr.priv = 0 ∧
    s.thr.intervalOpen = false ∧
    s.tvec.Executable ∧
    (s.reg a).tag = true ∧
    (s.reg a).can permR = true ∧
    (BitVec.toNat ((s.reg a).at (imm * 1#64)).cursor < ((s.reg a).at (imm * 1#64)).base ∨
      ((s.reg a).at (imm * 1#64)).limit < BitVec.toNat ((s.reg a).at (imm * 1#64)).cursor + 1 ∨
        2 ^ 48 < BitVec.toNat ((s.reg a).at (imm * 1#64)).cursor + 1) :=
  ⟨(regs [(2, data 0)] demo), Pfx.none, 3, 2, 0xFFFFFFFFFFFFFFFF, .plain, .tile, by decide +kernel, by decide +kernel, by decide +kernel, wit_executable _ (by decide +kernel), by decide +kernel⟩

theorem witness_AccessChecksInOrder_alignment : ∃ (s : State) (p : Pfx) (d : RegNo) (a : RegNo) (imm : Word) (o : Order) (sc : Scope),
    s.guardHolds p = true ∧
    s.thr.priv = 0 ∧
    s.thr.intervalOpen = false ∧
    s.tvec.Executable ∧
    (s.reg a).tag = true ∧
    (s.reg a).can permR = true ∧
    ((s.reg a).at (imm * 8#64)).base ≤ BitVec.toNat ((s.reg a).at (imm * 8#64)).cursor ∧
    BitVec.toNat ((s.reg a).at (imm * 8#64)).cursor + 8 ≤ ((s.reg a).at (imm * 8#64)).limit ∧
    BitVec.toNat ((s.reg a).at (imm * 8#64)).cursor + 8 ≤ 2 ^ 48 ∧
    BitVec.toNat ((s.reg a).at (imm * 8#64)).cursor % 8 ≠ 0 :=
  ⟨(regs [(2, data 1)] demo), Pfx.none, 3, 2, 0, .plain, .tile, by decide +kernel, by decide +kernel, by decide +kernel, wit_executable _ (by decide +kernel), by decide +kernel⟩

theorem witness_AccessChecksInOrder_alignmentSt : ∃ (s : State) (p : Pfx) (d : RegNo) (a : RegNo) (imm : Word) (o : Order) (sc : Scope),
    s.guardHolds p = true ∧
    s.thr.priv = 0 ∧
    s.thr.intervalOpen = false ∧
    s.tvec.Executable ∧
    (s.reg a).tag = true ∧
    (s.reg a).can permW = true ∧
    ((s.reg a).at (imm * 16#64)).base ≤ BitVec.toNat ((s.reg a).at (imm * 16#64)).cursor ∧
    BitVec.toNat ((s.reg a).at (imm * 16#64)).cursor + 16 ≤ ((s.reg a).at (imm * 16#64)).limit ∧
    BitVec.toNat ((s.reg a).at (imm * 16#64)).cursor + 16 ≤ 2 ^ 48 ∧
    BitVec.toNat ((s.reg a).at (imm * 16#64)).cursor % 16 ≠ 0 :=
  ⟨(regs [(2, data 16367)] demo), Pfx.none, 3, 2, 0, .plain, .tile, by decide +kernel, by decide +kernel, by decide +kernel, wit_executable _ (by decide +kernel), by decide +kernel⟩

theorem witness_SynchronisingAccesses_take : ∃ (s : State) (p : Pfx) (d : RegNo) (a : RegNo) (imm : Word) (o : Order) (sc : Scope) (c : Reg) (pa : Nat),
    s.guardHolds p = true ∧
    s.thr.intervalOpen = false ∧
    drained s.thr.sb = true ∧
    s.InWindow c.cursor 8 ∧
    pa = s.windowAt c.cursor ∧
    (∀ (w : Waiter), w ∈ (s.tile s.tileNo).waiters → w.pa ≠ pa) ∧
    (s.tile (keySite pa)).owns (quarterOf pa) s.thr.asid s.thr.lgen = true ∧
    keySite pa = s.tileNo ∧
    s.poisoned pa 8 = false ∧
    s.writeWaits s.thr.id s.thr.asid s.thr.lgen pa 8 = none ∧
    c = (s.reg a).at (imm * 8) ∧
    c.Covers 8 (permR ||| permSYN) ∧
    s.fullAt pa = true :=
  ⟨((demo.poke (windowKey 0 [0, 1, 2, 3] 264) [1, 2, 3]).setFull (windowKey 0 [0, 1, 2, 3] 264) true), Pfx.none, 2, 1, 1, .plain, .tile, ((win 256).at 8), (windowKey 0 [0, 1, 2, 3] 264), by decide +kernel, by decide +kernel, by decide +kernel, wit_inWindow _ _ _ (by decide +kernel), by decide +kernel, by decide +kernel, by decide +kernel, by decide +kernel, ⟨by decide +kernel, by decide +kernel, by decide +kernel, wit_covers _ _ _ (by decide +kernel), by decide +kernel⟩⟩

theorem witness_SynchronisingAccesses_fill : ∃ (s : State) (p : Pfx) (d : RegNo) (a : RegNo) (imm : Word) (o : Order) (sc : Scope) (c : Reg) (pa : Nat),
    s.guardHolds p = true ∧
    s.thr.intervalOpen = false ∧
    drained s.thr.sb = true ∧
    s.InWindow c.cursor 8 ∧
    pa = s.windowAt c.cursor ∧
    (∀ (w : Waiter), w ∈ (s.tile s.tileNo).waiters → w.pa ≠ pa) ∧
    (s.tile (keySite pa)).owns (quarterOf pa) s.thr.asid s.thr.lgen = true ∧
    keySite pa = s.tileNo ∧
    s.poisoned pa 8 = false ∧
    s.writeWaits s.thr.id s.thr.asid s.thr.lgen pa 8 = none ∧
    c = (s.reg a).at (imm * 8) ∧
    c.Covers 8 (permW ||| permSYN) ∧
    s.fullAt pa = false :=
  ⟨demo, Pfx.none, 1, 1, 1, .plain, .tile, ((win 256).at 8), (windowKey 0 [0, 1, 2, 3] 264), by decide +kernel, by decide +kernel, by decide +kernel, wit_inWindow _ _ _ (by decide +kernel), by decide +kernel, by decide +kernel, by decide +kernel, by decide +kernel, ⟨by decide +kernel, by decide +kernel, by decide +kernel, wit_covers _ _ _ (by decide +kernel), by decide +kernel⟩⟩

theorem witness_SynchronisingAccesses_join : ∃ (s : State) (p : Pfx) (d : RegNo) (a : RegNo) (imm : Word) (o : Order) (sc : Scope) (c : Reg) (pa : Nat),
    s.guardHolds p = true ∧
    s.thr.intervalOpen = false ∧
    drained s.thr.sb = true ∧
    s.InWindow c.cursor 8 ∧
    pa = s.windowAt c.cursor ∧
    (∀ (w : Waiter), w ∈ (s.tile s.tileNo).waiters → w.pa ≠ pa) ∧
    (s.tile (keySite pa)).owns (quarterOf pa) s.thr.asid s.thr.lgen = true ∧
    keySite pa = s.tileNo ∧
    s.poisoned pa 8 = false ∧
    s.writeWaits s.thr.id s.thr.asid s.thr.lgen pa 8 = none ∧
    c = (s.reg a).at 0 ∧
    c.Covers 8 (permR ||| permSYN) ∧
    s.fullAt pa = true :=
  ⟨(demo.setFull (windowKey 0 [0, 1, 2, 3] 256) true), Pfx.none, 1, 1, 1, .plain, .tile, ((win 256).at 0), (windowKey 0 [0, 1, 2, 3] 256), by decide +kernel, by decide +kernel, by decide +kernel, wit_inWindow _ _ _ (by decide +kernel), by decide +kernel, by decide +kernel, by decide +kernel, by decide +kernel, ⟨by decide +kernel, by decide +kernel, by decide +kernel, wit_covers _ _ _ (by decide +kernel), by decide +kernel⟩⟩

theorem witness_SynchronisingAccessesWait_wait : ∃ (s : State) (p : Pfx) (d : RegNo) (a : RegNo) (imm : Word) (o : Order) (sc : Scope) (pa : Nat),
    s.guardHolds p = true ∧
    s.thr.intervalOpen = false ∧
    drained s.thr.sb = true ∧
    s.InWindow ((s.reg a).at (imm * 8)).cursor 8 ∧
    pa = s.windowAt ((s.reg a).at (imm * 8)).cursor ∧
    keySite pa = s.tileNo ∧
    (∀ (w : Waiter), w ∈ (s.tile s.tileNo).waiters → w.pa ≠ pa) ∧
    s.writeWaits s.thr.id s.thr.asid s.thr.lgen pa 8 = none ∧
    ((s.reg a).at (imm * 8)).Covers 8 (permR ||| permSYN) ∧
    s.fullAt pa = false :=
  ⟨demo, Pfx.none, 2, 1, 0, .plain, .tile, (windowKey 0 [0, 1, 2, 3] 256), by decide +kernel, by decide +kernel, by decide +kernel, wit_inWindow _ _ _ (by decide +kernel), by decide +kernel, by decide +kernel, by decide +kernel, by decide +kernel, wit_covers _ _ _ (by decide +kernel), by decide +kernel⟩

theorem witness_SynchronisingAccessesWait_wait1 : ∃ (s : State) (p : Pfx) (d : RegNo) (a : RegNo) (imm : Word) (o : Order) (sc : Scope) (pa : Nat),
    s.guardHolds p = true ∧
    s.thr.intervalOpen = false ∧
    drained s.thr.sb = true ∧
    s.InWindow ((s.reg a).at (imm * 8)).cursor 8 ∧
    pa = s.windowAt ((s.reg a).at (imm * 8)).cursor ∧
    keySite pa = s.tileNo ∧
    (∀ (w : Waiter), w ∈ (s.tile s.tileNo).waiters → w.pa ≠ pa) ∧
    s.writeWaits s.thr.id s.thr.asid s.thr.lgen pa 8 = none ∧
    ((s.reg a).at (imm * 8)).Covers 8 (permR ||| permSYN) ∧
    s.fullAt pa = false :=
  ⟨demo, Pfx.none, 2, 1, 0, .plain, .tile, (windowKey 0 [0, 1, 2, 3] 256), by decide +kernel, by decide +kernel, by decide +kernel, wit_inWindow _ _ _ (by decide +kernel), by decide +kernel, by decide +kernel, by decide +kernel, by decide +kernel, wit_covers _ _ _ (by decide +kernel), by decide +kernel⟩

theorem witness_SynchronisingAccessesWait_waitFull : ∃ (s : State) (p : Pfx) (d : RegNo) (a : RegNo) (imm : Word) (o : Order) (sc : Scope) (pa : Nat),
    s.guardHolds p = true ∧
    s.thr.intervalOpen = false ∧
    drained s.thr.sb = true ∧
    s.InWindow ((s.reg a).at (imm * 8)).cursor 8 ∧
    pa = s.windowAt ((s.reg a).at (imm * 8)).cursor ∧
    keySite pa = s.tileNo ∧
    (∀ (w : Waiter), w ∈ (s.tile s.tileNo).waiters → w.pa ≠ pa) ∧
    s.writeWaits s.thr.id s.thr.asid s.thr.lgen pa 8 = none ∧
    ((s.reg a).at (imm * 8)).Covers 8 (permW ||| permSYN) ∧
    s.fullAt pa = true :=
  ⟨(demo.setFull (windowKey 0 [0, 1, 2, 3] 256) true), Pfx.none, 2, 1, 0, .plain, .tile, (windowKey 0 [0, 1, 2, 3] 256), by decide +kernel, by decide +kernel, by decide +kernel, wit_inWindow _ _ _ (by decide +kernel), by decide +kernel, by decide +kernel, by decide +kernel, by decide +kernel, wit_covers _ _ _ (by decide +kernel), by decide +kernel⟩

theorem witness_SynchronisingAccessesWait_waitJoin : ∃ (s : State) (p : Pfx) (d : RegNo) (a : RegNo) (imm : Word) (o : Order) (sc : Scope) (pa : Nat),
    s.guardHolds p = true ∧
    s.thr.intervalOpen = false ∧
    drained s.thr.sb = true ∧
    s.InWindow ((s.reg a).at (0 * 8)).cursor 8 ∧
    pa = s.windowAt ((s.reg a).at (0 * 8)).cursor ∧
    keySite pa = s.tileNo ∧
    (∀ (w : Waiter), w ∈ (s.tile s.tileNo).waiters → w.pa ≠ pa) ∧
    s.writeWaits s.thr.id s.thr.asid s.thr.lgen pa 8 = none ∧
    ((s.reg a).at (0 * 8)).Covers 8 (permR ||| permSYN) ∧
    s.fullAt pa = false :=
  ⟨demo, Pfx.none, 2, 1, 0, .plain, .tile, (windowKey 0 [0, 1, 2, 3] 256), by decide +kernel, by decide +kernel, by decide +kernel, wit_inWindow _ _ _ (by decide +kernel), by decide +kernel, by decide +kernel, by decide +kernel, by decide +kernel, wit_covers _ _ _ (by decide +kernel), by decide +kernel⟩

theorem witness_AtomicsAndEntries_entries : ∃ (s : State) (p : Pfx) (pd : PredNo) (a : RegNo) (b : RegNo) (w : Bool) (u : Bool) (full : Bool) (o : Order) (sc : Scope),
    s.guardHolds p = true ∧
    unsent s.thr.sb < 8 ∧
    (s.reg a).Covers 8 (permW ||| permSYN) ∧
    s.InWindow (s.reg a).cursor 8 :=
  ⟨(regs [(2, int 5)] demo), Pfx.none, 1, 1, 2, true, true, true, .plain, .tile, by decide +kernel, by decide +kernel, wit_covers _ _ _ (by decide +kernel), wit_inWindow _ _ _ (by decide +kernel)⟩

theorem witness_AtomicsAndEntries_entries8 : ∃ (s : State) (p : Pfx) (pd : PredNo) (a : RegNo) (b : RegNo) (w : Bool) (u : Bool) (full : Bool) (o : Order) (sc : Scope),
    s.guardHolds p = true ∧
    unsent s.thr.sb < 8 ∧
    (s.reg a).Covers 8 (permW ||| permSYN) ∧
    s.InWindow (s.reg a).cursor 8 :=
  ⟨(regs [(1, win 786424), (2, int 5)] demo), Pfx.none, 1, 1, 2, false, false, false, .release, .module, by decide +kernel, by decide +kernel, wit_covers _ _ _ (by decide +kernel), wit_inWindow _ _ _ (by decide +kernel)⟩

theorem witness_AtomicsAndEntries_fer : ∃ (s : State) (p : Pfx) (pd : PredNo) (a : RegNo) (b : RegNo) (w : Bool) (u : Bool) (full : Bool) (o : Order) (sc : Scope),
    s.guardHolds p = true ∧
    unsent s.thr.sb < 8 ∧
    (s.reg a).Covers 8 (permR ||| permSYN) ∧
    s.InWindow (s.reg a).cursor 8 ∧
    s.thr.intervalOpen = false ∧
    drained s.thr.sb = true :=
  ⟨(demo.setFull (windowKey 0 [0, 1, 2, 3] 256) true), Pfx.none, 1, 1, 2, false, false, false, .plain, .tile, by decide +kernel, by decide +kernel, wit_covers _ _ _ (by decide +kernel), wit_inWindow _ _ _ (by decide +kernel), by decide +kernel⟩

theorem witness_AtomicsAndEntries_w : ∃ (s : State) (p : Pfx) (d : RegNo) (a : RegNo) (b : RegNo) (w : Bool) (o : Order) (sc : Scope) (n : Nat) (pa : Nat),
    s.guardHolds p = true ∧
    s.thr.intervalOpen = false ∧
    drained s.thr.sb = true ∧
    o ≠ Order.sc ∧
    (n = if w = true then 4 else 8) ∧
    (s.reg a).Covers n (permR ||| permW ||| permATM) ∧
    s.InWindow (s.reg a).cursor n ∧
    pa = s.windowAt (s.reg a).cursor ∧
    s.poisoned pa n = false ∧
    s.writeWaits s.thr.id s.thr.asid s.thr.lgen pa n = none ∧
    (s.tile (keySite pa)).owns (quarterOf pa) s.thr.asid s.thr.lgen = true :=
  ⟨(regs [(2, int 0xFFFFFFFF), (3, int 0x4030201)] (demo.poke (windowKey 0 [0, 1, 2, 3] 256) [1, 2, 3, 4, 5, 6, 7, 8])), Pfx.none, 3, 1, 2, true, .acquire, .tile, 4, (windowKey 0 [0, 1, 2, 3] 256), by decide +kernel, by decide +kernel, by decide +kernel, by decide +kernel, ⟨by decide +kernel, wit_covers _ _ _ (by decide +kernel), wit_inWindow _ _ _ (by decide +kernel), by decide +kernel⟩⟩

theorem witness_AtomicsAndEntries_d : ∃ (s : State) (p : Pfx) (d : RegNo) (a : RegNo) (b : RegNo) (w : Bool) (o : Order) (sc : Scope) (n : Nat) (pa : Nat),
    s.guardHolds p = true ∧
    s.thr.intervalOpen = false ∧
    drained s.thr.sb = true ∧
    o ≠ Order.sc ∧
    (n = if w = true then 4 else 8) ∧
    (s.reg a).Covers n (permR ||| permW ||| permATM) ∧
    s.InWindow (s.reg a).cursor n ∧
    pa = s.windowAt (s.reg a).cursor ∧
    s.poisoned pa n = false ∧
    s.writeWaits s.thr.id s.thr.asid s.thr.lgen pa n = none ∧
    (s.tile (keySite pa)).owns (quarterOf pa) s.thr.asid s.thr.lgen = true :=
  ⟨(regs [(2, int 0xFFFFFFFFFFFFFFFF), (3, int 0x4030201)] (demo.poke (windowKey 0 [0, 1, 2, 3] 256) [1, 2, 3, 4, 5, 6, 7, 8])), Pfx.none, 0, 1, 2, false, .plain, .tile, 8, (windowKey 0 [0, 1, 2, 3] 256), by decide +kernel, by decide +kernel, by decide +kernel, by decide +kernel, ⟨by decide +kernel, wit_covers _ _ _ (by decide +kernel), wit_inWindow _ _ _ (by decide +kernel), by decide +kernel⟩⟩

theorem witness_HomesAndMigration_home : ∃ (s : State) (p : Pfx) (d : RegNo) (a : RegNo),
    s.guardHolds p = true ∧
    (s.reg a).Covers 1 0 ∧
    s.InWindow (s.reg a).cursor 1 :=
  ⟨demo, Pfx.none, 2, 1, by decide +kernel, wit_covers _ _ _ (by decide +kernel), wit_inWindow _ _ _ (by decide +kernel)⟩

theorem witness_HomesAndMigration_stay : ∃ (s : State) (p : Pfx) (d : RegNo) (a : RegNo) (name : Nat) (u : Nat),
    s.guardHolds p = true ∧
    (s.reg a).tag = false ∧
    BitVec.toNat (s.x a) = name ∧
    name < 2 ^ 19 ∧
    s.badName s.tileNo name = false ∧
    ltnModule name = siteModule s.tileNo ∧
    List.find? (fun e => decide (e.fst = name)) (s.tile s.tileNo).ncache = some (name, u) ∧
    s.gangTile name = true ∧
    name = s.thr.ltn :=
  ⟨demo, Pfx.none, 2, 3, 0, 0, by decide +kernel⟩

theorem witness_HomesAndMigration_go : ∃ (s : State) (p : Pfx) (d : RegNo) (a : RegNo) (name : Nat) (u : Nat),
    s.guardHolds p = true ∧
    (s.reg a).tag = false ∧
    BitVec.toNat (s.x a) = name ∧
    name < 2 ^ 19 ∧
    s.badName s.tileNo name = false ∧
    ltnModule name = siteModule s.tileNo ∧
    List.find? (fun e => decide (e.fst = name)) (s.tile s.tileNo).ncache = some (name, u) ∧
    s.gangTile name = true ∧
    name ≠ s.thr.ltn ∧
    s.thr.isHandler = false ∧
    s.thr.intervalOpen = false :=
  ⟨(regs [(3, int 1)] demo), Pfx.none, 2, 3, 1, 1, by decide +kernel⟩

theorem witness_HomesAndMigration_notGang : ∃ (s : State) (p : Pfx) (d : RegNo) (a : RegNo) (name : Nat) (u : Nat),
    s.guardHolds p = true ∧
    (s.reg a).tag = false ∧
    BitVec.toNat (s.x a) = name ∧
    name < 2 ^ 19 ∧
    s.badName s.tileNo name = false ∧
    ltnModule name = siteModule s.tileNo ∧
    List.find? (fun e => decide (e.fst = name)) (s.tile s.tileNo).ncache = some (name, u) ∧
    s.gangTile name = false ∧
    s.thr.priv = 0 ∧
    s.thr.intervalOpen = false :=
  ⟨(regs [(3, int 2)] (tile (fun x => { x with ncache := [(2, 2)] }) demo)), Pfx.none, 2, 3, 2, 2, by decide +kernel⟩

-- messages and copies
theorem witness_Messages_send : ∃ (s : State) (p : Pfx) (d : RegNo) (a : RegNo) (name : Nat) (u : Nat),
    s.guardHolds p = true ∧
    d ≠ 15 ∧
    wbits (s.x a) 63 25 = 0 ∧
    wbits (s.x a) 18 0 = name ∧
    s.badName s.tileNo name = false ∧
    ltnModule name = siteModule s.tileNo ∧
    List.find? (fun e => decide (e.fst = name)) (s.tile s.tileNo).ncache = some (name, u) ∧
    s.gangTile name = true ∧
    unsent s.thr.sb < 8 ∧
    unacked s.thr.sb < 32 :=
  ⟨(regs [(2, int 5), (3, int 6), (4, int (BitVec.ofNat 64 (7 * 2 ^ 22 + 3 * 2 ^ 19 + 1)))] demo), Pfx.none, 2, 4, 1, 1, by decide +kernel⟩

theorem witness_Messages_none : ∃ (s : State) (p : Pfx) (d : RegNo) (a : RegNo),
    s.guardHolds p = true ∧
    d ≠ 15 ∧
    s.thr.intervalOpen = false ∧
    BitVec.setWidth 8 (s.x a) = 0 :=
  ⟨demo, Pfx.none, 2, 4, by decide +kernel⟩

theorem witness_Messages_recv : ∃ (s : State) (p : Pfx) (d : RegNo) (a : RegNo) (m : Nat) (x : Msg),
    s.guardHolds p = true ∧
    d ≠ 15 ∧
    s.thr.intervalOpen = false ∧
    BitVec.setWidth 8 (s.x a) ≠ 0 ∧
    s.recvWaits = false ∧
    ((s.tile s.tileNo).core s.coreNo).ready (BitVec.setWidth 8 (s.x a)).toNat s.thr.asid s.thr.lgen = some m ∧
    (List.find? (fun x => decide (x.asid = s.thr.asid) && decide (x.lgen = s.thr.lgen)) (((s.tile s.tileNo).core s.coreNo).box m) =
      some x) :=
  ⟨(regs [(4, int 0xC0)] (core 0 (fun c => { c with mbx := [(7, [msg 9, msg 8])] }) demo)), Pfx.none, 14, 4, 7, (msg 9), by decide +kernel⟩

theorem witness_Messages_recvC0 : ∃ (s : State) (p : Pfx) (d : RegNo) (a : RegNo) (m : Nat) (x : Msg),
    s.guardHolds p = true ∧
    d ≠ 15 ∧
    s.thr.intervalOpen = false ∧
    BitVec.setWidth 8 (s.x a) ≠ 0 ∧
    s.recvWaits = false ∧
    ((s.tile s.tileNo).core s.coreNo).ready (BitVec.setWidth 8 (s.x a)).toNat s.thr.asid s.thr.lgen = some m ∧
    (List.find? (fun x => decide (x.asid = s.thr.asid) && decide (x.lgen = s.thr.lgen)) (((s.tile s.tileNo).core s.coreNo).box m) =
      some x) :=
  ⟨(regs [(4, int 1)] (core 0 (fun c => { c with mbx := [(0, [msg 9, msg 8])] }) demo)), Pfx.none, 0, 4, 0, (msg 9), by decide +kernel⟩

theorem witness_Messages_wait : ∃ (s : State) (p : Pfx) (d : RegNo) (a : RegNo),
    s.guardHolds p = true ∧
    d ≠ 15 ∧
    s.thr.intervalOpen = false ∧
    BitVec.setWidth 8 (s.x a) ≠ 0 ∧
    ((s.tile s.tileNo).core s.coreNo).ready (BitVec.setWidth 8 (s.x a)).toNat s.thr.asid s.thr.lgen = none :=
  ⟨(regs [(4, int 0x7F)] (core 0 (fun c => { c with mbx := [(7, [msg 9, msg 8])] }) demo)), Pfx.none, 2, 4, by decide +kernel⟩

theorem witness_Messages_arrival : ∃ (s : State) (pk : Nat) (t : Nat) (th : Nat) (seq : Nat) (core : Nat) (mbx : Nat) (p : Packet) (m : Msg) (r : Resid),
    s.Arrives pk p t ∧
    p.id = pk ∧
    pk < s.nextId ∧
    p.body = Payload.msg th seq core mbx m ∧
    (s.tile t).residFor p.asid p.lgen p.dst = some r ∧
    r.quenching = false ∧
    (s.tile t).refused = [] ∧
    (∀ (o : Nat × Msg), o ∈ (s.tile t).mbxOvf → o.fst ≠ boxKey core mbx) ∧
    (((s.tile t).core core).box mbx).length < 16 :=
  ⟨(packet (arrived 0 (.msg 2 3 1 7 (msg 9))) demo), 50, 0, 2, 3, 1, 7, (arrived 0 (.msg 2 3 1 7 (msg 9))), (msg 9), (resid 0), wit_arrives _ _ _ _ (by decide +kernel), by decide +kernel⟩

theorem witness_Messages_overflow : ∃ (s : State) (pk : Nat) (t : Nat) (th : Nat) (seq : Nat) (core : Nat) (mbx : Nat) (p : Packet) (m : Msg) (r : Resid) (o : Nat × Msg),
    s.Arrives pk p t ∧
    p.id = pk ∧
    pk < s.nextId ∧
    p.body = Payload.msg th seq core mbx m ∧
    (s.tile t).residFor p.asid p.lgen p.dst = some r ∧
    r.quenching = false ∧
    (s.tile t).refused = [] ∧
    o ∈ (s.tile t).mbxOvf ∧
    o.fst = boxKey core mbx ∧
    (s.tile t).mbxOvf.length < 16384 :=
  ⟨(tile (fun x => { x with mbxOvf := [(boxKey 1 7, msg 8)] }) (packet (arrived 0 (.msg 2 3 1 7 (msg 9))) demo)), 50, 0, 2, 3, 1, 7, (arrived 0 (.msg 2 3 1 7 (msg 9))), (msg 9), (resid 0), (boxKey 1 7, msg 8), wit_arrives _ _ _ _ (by decide +kernel), by decide +kernel⟩

theorem witness_Messages_spill : ∃ (s : State) (t : Nat) (core : Nat) (m : Nat),
    core < 8 ∧
    m < 8 ∧
    14 ≤ (((s.tile t).core core).box m).length ∧
    (((s.tile t).core core).box m).length + (s.tile t).mbxOvf.length ≤ 16384 :=
  ⟨(core 7 (fun c => { c with mbx := [(7, (List.range 14).map msg)] }) demo), 0, 7, 7, by decide +kernel⟩

theorem witness_Messages_replay : ∃ (s : State) (t : Nat) (core : Nat) (m : Nat),
    core < 8 ∧
    m < 8 ∧
    (((s.tile t).core core).box m).length < 8 :=
  ⟨(tile (fun x => { x with mbxOvf := (List.range 9).map fun n => (boxKey (n % 2) 7, msg n) }) (core 1 (fun c => { c with mbx := [(7, (List.range 7).map msg)] }) demo)), 0, 1, 7, by decide +kernel⟩

theorem witness_Messages_resend : ∃ (s : State) (t : Nat) (id : Nat) (seq : Nat) (since : Nat) (x : Thread) (op : StOp) (va : VAddr) (v : Nat) (pa : Nat) (name : Ltn) (win : Bool) (o : Order) (sc : Scope) (st : Option Nat),
    (s.tile t).resend = [(id, seq, since)] ∧
    64 ≤ s.time - since ∧
    s.thread? id = some x ∧
    List.find? (fun e => decide (e.seq = seq)) x.sb = some (SbItem.entry seq op va (Home.tile v pa name) win o sc st) :=
  ⟨(tile (fun x => { x with resend := [(2, 3, 36)] }) (other (fellowStores [msgEntry 3]) { demo with time := 100 })), 0, 2, 3, 36, (fellowStores [msgEntry 3]), (.msg 1 0 7 5), 0, 1, 0, 1, false, .plain, .system, none, by decide +kernel⟩

theorem witness_CopyTags_lowest : ∃ (s : State) (p : Pfx) (d : RegNo) (a : RegNo) (k : Nat),
    s.guardHolds p = true ∧
    k < 64 ∧
    BitVec.getLsbD s.myTags.tags k = true ∧
    BitVec.getLsbD (s.x a) k = true ∧
    (∀ (j : Nat), j < k → (BitVec.getLsbD s.myTags.tags j && BitVec.getLsbD (s.x a) j) = false) :=
  ⟨(regs [(3, int 0xC000000000000000)] (tagSet 0x8000000000000001 demo)), Pfx.none, 2, 3, 63, by decide +kernel⟩

theorem witness_CopyTags_lowest0 : ∃ (s : State) (p : Pfx) (d : RegNo) (a : RegNo) (k : Nat),
    s.guardHolds p = true ∧
    k < 64 ∧
    BitVec.getLsbD s.myTags.tags k = true ∧
    BitVec.getLsbD (s.x a) k = true ∧
    (∀ (j : Nat), j < k → (BitVec.getLsbD s.myTags.tags j && BitVec.getLsbD (s.x a) j) = false) :=
  ⟨(regs [(3, int 0xC000000000000001)] (tagSet 0x8000000000000001 demo)), Pfx.none, 0, 3, 0, by decide +kernel⟩

theorem witness_CopyTags_none : ∃ (s : State) (p : Pfx) (d : RegNo) (a : RegNo),
    s.guardHolds p = true ∧
    (∀ (k : Nat), (BitVec.getLsbD s.myTags.tags k && BitVec.getLsbD (s.x a) k) = false) :=
  ⟨(regs [(3, int 0)] demo), Pfx.none, 2, 3, by decide +kernel, (by intro k; rw [show (regs [(3, int 0)] demo).x 3 = 0 from by decide +kernel]; simp)⟩

theorem witness_CopyTags_noneAsked : ∃ (s : State) (p : Pfx) (d : RegNo) (a : RegNo),
    s.guardHolds p = true ∧
    (∀ (k : Nat), (BitVec.getLsbD s.myTags.tags k && BitVec.getLsbD (s.x a) k) = false) ∧
    s.x a ≠ 0 :=
  ⟨(regs [(3, int 5)] demo), Pfx.none, 2, 3, by decide +kernel, (by intro k; rw [show (regs [(3, int 5)] demo).myTags.tags = 0 from by decide +kernel]; simp), by decide +kernel⟩

theorem witness_CopyTags_all : ∃ (s : State) (p : Pfx) (d : RegNo) (a : RegNo),
    s.guardHolds p = true ∧
    (∀ (k : Nat), BitVec.getLsbD (s.x a) k = true → BitVec.getLsbD s.myTags.tags k = true) :=
  ⟨(regs [(3, int 0)] demo), Pfx.none, 2, 3, by decide +kernel, (by rw [show (regs [(3, int 0)] demo).x 3 = 0 from by decide +kernel]; simp)⟩

theorem witness_CopyTags_nothing : ∃ (s : State) (p : Pfx) (d : RegNo) (a : RegNo),
    s.guardHolds p = true ∧
    s.x a = 0 :=
  ⟨(regs [(3, int 0)] demo), Pfx.none, 2, 3, by decide +kernel⟩

theorem witness_CopyTags_notAll : ∃ (s : State) (p : Pfx) (d : RegNo) (a : RegNo),
    s.guardHolds p = true ∧
    (∃ k, BitVec.getLsbD (s.x a) k = true ∧ BitVec.getLsbD s.myTags.tags k = false) :=
  ⟨(regs [(3, int 0x8000000000000000)] demo), Pfx.none, 2, 3, by decide +kernel, (⟨63, by decide +kernel⟩)⟩

theorem witness_CopyTags_clear : ∃ (s : State) (p : Pfx) (d : RegNo) (a : RegNo),
    s.guardHolds p = true :=
  ⟨(regs [(3, int 0xFF)] (tagSet 0x8000000000000001 demo)), Pfx.none, 2, 3, by decide +kernel⟩

theorem witness_CopiesRun_send : ∃ (s : State) (p : Pfx) (d : RegNo) (a : RegNo) (b : RegNo) (u : Nat),
    s.guardHolds p = true ∧
    s.thr.intervalOpen = false ∧
    (s.reg a).tag = true ∧
    (s.reg a).can (permR ||| permENG) = true ∧
    BitVec.toNat (s.x b) ≠ 0 ∧
    BitVec.toNat (s.x b) ≤ 786432 ∧
    (s.reg a).base ≤ BitVec.toNat (s.reg a).cursor ∧
    BitVec.toNat (s.reg a).cursor + BitVec.toNat (s.x b) ≤ (s.reg a).limit ∧
    BitVec.toNat (s.reg a).cursor % 32 = 0 ∧
    BitVec.toNat (s.x b) % 32 = 0 ∧
    (inWindow (s.reg a).cursor = true → winOffset (s.reg a).cursor + BitVec.toNat (s.x b) ≤ windowBytes s.quarters.length) ∧
    wbits (s.x d) 47 39 = 0 ∧
    copyOff (s.x d) % 32 = 0 ∧
    copyOff (s.x d) + BitVec.toNat (s.x b) ≤ windowBytes s.quarters.length ∧
    s.badName s.tileNo (copyLtn (s.x d)) = false ∧
    ltnModule (copyLtn (s.x d)) = siteModule s.tileNo ∧
    List.find? (fun e => decide (e.fst = copyLtn (s.x d))) (s.tile s.tileNo).ncache = some (copyLtn (s.x d), u) ∧
    s.gangTile (copyLtn (s.x d)) = true ∧
    unsent s.thr.sb = 0 ∧
    (s.copiesOut s.tileNo).length < 16 :=
  ⟨(regs [(2, int (descWord 64)), (3, win 0), (4, int 786368)] demo), Pfx.none, 2, 3, 4, 1, by decide +kernel⟩

theorem witness_CopiesRun_packet : ∃ (s : State) (t : Nat) (c : Copy) (r : Resid),
    List.find? Copy.active (s.tile t).copies = some c ∧
    (s.tile t).residFor c.asid c.lgen c.ltn = some r ∧
    inWindow (c.cap.cursor + BitVec.ofNat 48 c.done) = true ∧
    (∀ (q : Nat), q ∈ r.quarters → q < 4) ∧
    r.quarters ≠ [] ∧
    BitVec.toNat c.cap.cursor + c.n ≤ 280375465082880 + windowBytes r.quarters.length ∧
    0 < c.flits :=
  ⟨(tile (fun x => { x with copies := [copy] }) demo), 0, copy, (resid 0), by decide +kernel⟩

theorem witness_CopiesRun_arrival : ∃ (s : State) (pk : Nat) (t : Nat) (cid : Nat) (off : Nat) (core : Nat) (tag : Nat) (pa : Nat) (p : Packet) (data : List Byte) (tags : List Bool) (psn : List Bool) (tagged : Bool) (full : Bool) (last : Bool) (r : Resid),
    s.Arrives pk p t ∧
    p.id = pk ∧
    pk < s.nextId ∧
    p.body = Payload.copy cid off data tags psn tagged full last core tag ∧
    data.length = 32 ∧
    s.residentAt t p.asid p.lgen p.dst = some r ∧
    r.quenching = false ∧
    pa = windowKey t r.quarters off ∧
    isVaultKey pa = false ∧
    s.writeWaits pk p.asid p.lgen pa 32 = none ∧
    (s.tile (keySite pa)).owns (quarterOf pa) p.asid p.lgen = true ∧
    (full = true → ∀ (w : Waiter), w ∈ (s.tile (keySite pa)).waiters → w.pa < pa ∨ pa + 32 ≤ w.pa) :=
  ⟨(packet (arrived 0 (.copy 9 786400 (List.replicate 32 0x77) [] [false] false false true 1 63)) demo), 50, 0, 9, 786400, 1, 63, (windowKey 0 [0, 1, 2, 3] 786400), (arrived 0 (.copy 9 786400 (List.replicate 32 0x77) [] [false] false false true 1 63)), (List.replicate 32 0x77), [], [false], false, false, true, (resid 0), wit_arrives _ _ _ _ (by decide +kernel), by decide +kernel⟩

-- translation and the fabric
theorem witness_TranslationInstructions_install : ∃ (s : State) (p : Pfx) (a : RegNo) (b : RegNo) (ok : Bool),
    s.guardHolds p = true ∧
    s.thr.priv ≠ 0 ∧
    descType (s.x b) ≠ 0 ∧
    (ok =
      (decide (wbits (s.x a) 63 62 ≠ 3) && decide (wbits (s.x a) 47 40 ≠ 255) &&
              decide (wbits (s.x a) 47 14 * 16384 % 2 ^ pageBits (wbits (s.x a) 63 62) = 0) &&
            decide (wbits (s.x a) 61 60 = 0) &&
          s.descOk s.tileNo (s.x b) (wbits (s.x a) 63 62) &&
        decide (wbits (s.x a) 13 0 = wbits ((s.tile s.tileNo).count 53) 13 0))) :=
  ⟨(sys (regs [(2, int (BitVec.ofNat 64 (5 * 2 ^ 48 + 0x20000))), (3, int (BitVec.ofNat 64 (2 ^ 62 + 2 ^ 58 + 5)))] (mapped (other (fellow (.slot 0 0 3) (some (.miss 5 0x20010 0))) demo)))), Pfx.none, 2, 3, true, by decide +kernel⟩

theorem witness_TranslationInstructions_refused : ∃ (s : State) (p : Pfx) (a : RegNo) (b : RegNo) (ok : Bool),
    s.guardHolds p = true ∧
    s.thr.priv ≠ 0 ∧
    descType (s.x b) ≠ 0 ∧
    (ok =
      (decide (wbits (s.x a) 63 62 ≠ 3) && decide (wbits (s.x a) 47 40 ≠ 255) &&
              decide (wbits (s.x a) 47 14 * 16384 % 2 ^ pageBits (wbits (s.x a) 63 62) = 0) &&
            decide (wbits (s.x a) 61 60 = 0) &&
          s.descOk s.tileNo (s.x b) (wbits (s.x a) 63 62) &&
        decide (wbits (s.x a) 13 0 = wbits ((s.tile s.tileNo).count 53) 13 0))) :=
  ⟨(sys (regs [(2, int (BitVec.ofNat 64 (5 * 2 ^ 48 + 0x20001))), (3, int (BitVec.ofNat 64 (2 ^ 62 + 2 ^ 58 + 5)))] (mapped demo))), Pfx.none, 2, 3, false, by decide +kernel⟩

theorem witness_TranslationInstructions_refusedSize : ∃ (s : State) (p : Pfx) (a : RegNo) (b : RegNo) (ok : Bool),
    s.guardHolds p = true ∧
    s.thr.priv ≠ 0 ∧
    descType (s.x b) ≠ 0 ∧
    (ok =
      (decide (wbits (s.x a) 63 62 ≠ 3) && decide (wbits (s.x a) 47 40 ≠ 255) &&
              decide (wbits (s.x a) 47 14 * 16384 % 2 ^ pageBits (wbits (s.x a) 63 62) = 0) &&
            decide (wbits (s.x a) 61 60 = 0) &&
          s.descOk s.tileNo (s.x b) (wbits (s.x a) 63 62) &&
        decide (wbits (s.x a) 13 0 = wbits ((s.tile s.tileNo).count 53) 13 0))) :=
  ⟨(sys (regs [(2, int (BitVec.ofNat 64 (2 ^ 62 + 5 * 2 ^ 48 + 0x20000))), (3, int (BitVec.ofNat 64 (2 ^ 62 + 2 ^ 58 + 5)))] (mapped demo))), Pfx.none, 2, 3, false, by decide +kernel⟩

theorem witness_TranslationInstructions_type0 : ∃ (s : State) (p : Pfx) (a : RegNo) (b : RegNo),
    s.guardHolds p = true ∧
    s.thr.priv ≠ 0 ∧
    descType (s.x b) = 0 ∧
    wbits (s.x a) 63 62 ≠ 3 ∧
    wbits (s.x a) 47 40 ≠ 255 ∧
    wbits (s.x a) 47 14 * 16384 % 2 ^ pageBits (wbits (s.x a) 63 62) = 0 ∧
    wbits (s.x a) 61 60 = 0 ∧
    wbits (s.x a) 13 0 = wbits ((s.tile s.tileNo).count 53) 13 0 ∧
    s.coveredMisses s.tileNo (wbits (s.x a) 59 48) (wbits (s.x a) 63 62) (wbits (s.x a) 47 14 * 16384) = [] :=
  ⟨(sys (regs [(2, int (BitVec.ofNat 64 (5 * 2 ^ 48 + 0x20000))), (3, int 0)] (mapped demo))), Pfx.none, 2, 3, by decide +kernel⟩

theorem witness_TranslationInstructions_tlbi : ∃ (s : State) (p : Pfx) (a : RegNo),
    s.guardHolds p = true ∧
    s.thr.priv ≠ 0 ∧
    wbits (s.x a) 11 0 = 0 ∧
    wbits (s.x a) 61 60 ≠ 3 ∧
    (wbits (s.x a) 61 60 = 0 → wbits (s.x a) 63 62 ≠ 3 ∧ wbits (s.x a) 47 14 * 16384 % 2 ^ pageBits (wbits (s.x a) 63 62) = 0) :=
  ⟨(sys (regs [(2, int (BitVec.ofNat 64 (5 * 2 ^ 48 + 0x20000)))] demo)), Pfx.none, 2, by decide +kernel⟩

theorem witness_TranslationInstructions_namei : ∃ (s : State) (p : Pfx) (a : RegNo),
    s.guardHolds p = true ∧
    s.thr.priv ≠ 0 ∧
    wbits (s.x a) 63 62 ≠ 3 ∧
    wbits (s.x a) 59 19 = 0 :=
  ⟨(sys (regs [(2, int 1)] demo)), Pfx.none, 2, by decide +kernel⟩

theorem witness_TranslationInstructions_ptsync : ∃ (s : State) (p : Pfx) (a : RegNo),
    s.guardHolds p = true ∧
    s.thr.priv ≠ 0 ∧
    drained s.thr.sb = true :=
  ⟨(sys demo), Pfx.none, 2, by decide +kernel⟩

theorem witness_TranslationInstructions_drain : ∃ (s : State) (p : Pfx) (a : RegNo),
    s.guardHolds p = true ∧
    s.thr.priv ≠ 0 ∧
    drained s.thr.sb = false :=
  ⟨(sys (thr (fun th => { th with sb := [entry 1 5 (.tile 1 (vaultKey 1 0) 1)] }) demo)), Pfx.none, 2, by decide +kernel⟩

theorem witness_TranslationInstructions_rtsw : ∃ (s : State) (p : Pfx) (a : RegNo),
    s.guardHolds p = true ∧
    s.thr.priv ≠ 0 ∧
    wbits (s.x a) 63 1 = 0 ∧
    s.packets = [] ∧
    (s.tile s.tileNo).heldFields = [] ∧
    s.switching s.tileNo = none :=
  ⟨(sys (regs [(2, int 1)] demo)), Pfx.none, 2, by decide +kernel⟩

theorem witness_InvalidationStages_tlbi : ∃ (s : State) (req : Nat) (t : Nat) (id : Nat) (th : Nat) (k : Word) (todo : List Nat) (waits : List (Nat × List Nat)),
    List.find? (fun r => decide (r.id = req)) s.reqs = some (Req.tlbi id th k todo waits) ∧
    t ∈ todo ∧
    (List.map Req.id s.reqs).Nodup :=
  ⟨(mapped { demo with reqs := [.tlbi 60 1 (BitVec.ofNat 64 (5 * 2 ^ 48 + 0x20000)) [0, 1] []] }), 60, 0, 60, 1, (BitVec.ofNat 64 (5 * 2 ^ 48 + 0x20000)), [0, 1], [], by decide +kernel⟩

theorem witness_InvalidationStages_tlbiAck : ∃ (s : State) (req : Nat) (t : Nat) (id : Nat) (th : Nat) (k : Word) (todo : List Nat) (waits : List (Nat × List Nat)),
    List.find? (fun r => decide (r.id = req)) s.reqs = some (Req.tlbi id th k todo waits) ∧
    (assocGet t [] waits).all s.settled = true :=
  ⟨{ demo with reqs := [.tlbi 60 1 0 [] [(0, [70]), (1, [])]] }, 60, 0, 60, 1, 0, [], [(0, [70]), (1, [])], by decide +kernel⟩

theorem witness_InvalidationStages_tlbiDone : ∃ (s : State) (req : Nat) (id : Nat) (n : Nat) (len : Nat) (k : Word) (x : Thread),
    List.find? (fun r => decide (r.id = req)) s.reqs = some (Req.tlbi id n k [] []) ∧
    s.thread? x.id = some x ∧
    x.park = some (Park.request id len) ∧
    (∀ (y : Thread), y ∈ s.threads → (∃ l, y.park = some (Park.request id l)) → y = x) ∧
    x.loc.core ≠ 8 ∧
    (List.map (fun th => th.id) s.threads).Nodup :=
  ⟨(other (fellow (.slot 0 0 3) (some (.request 60 4))) { demo with reqs := [.tlbi 60 2 0 [] []] }), 60, 60, 2, 4, 0, (fellow (.slot 0 0 3) (some (.request 60 4))), by decide +kernel, by decide +kernel, by decide +kernel, (wit_only _ _
  (fun x =>
    match x.park with
    | some (.request 60 _) => true
    | _ => false)
  _ (by rintro x ⟨l, h⟩; simp [h]) (by decide +kernel)), by decide +kernel⟩

theorem witness_InvalidationStages_namei : ∃ (s : State) (req : Nat) (t : Nat) (id : Nat) (th : Nat) (k : Word) (todo : List Nat) (waits : List (Nat × List Nat)),
    List.find? (fun r => decide (r.id = req)) s.reqs = some (Req.namei id th k todo waits) ∧
    t ∈ todo :=
  ⟨{ demo with reqs := [.namei 60 1 1 [0, 1] []] }, 60, 0, 60, 1, 1, [0, 1], [], by decide +kernel⟩

theorem witness_InvalidationStages_nameiAck : ∃ (s : State) (req : Nat) (t : Nat) (id : Nat) (th : Nat) (k : Word) (todo : List Nat) (waits : List (Nat × List Nat)),
    List.find? (fun r => decide (r.id = req)) s.reqs = some (Req.namei id th k todo waits) ∧
    (assocGet t [] waits).all s.settled = true :=
  ⟨{ demo with reqs := [.namei 60 1 0 [] [(0, [70]), (1, [])]] }, 60, 0, 60, 1, 0, [], [(0, [70]), (1, [])], by decide +kernel⟩

theorem witness_InvalidationStages_nameiDone : ∃ (s : State) (req : Nat) (id : Nat) (n : Nat) (len : Nat) (k : Word) (x : Thread),
    List.find? (fun r => decide (r.id = req)) s.reqs = some (Req.namei id n k [] []) ∧
    s.thread? x.id = some x ∧
    x.park = some (Park.request id len) ∧
    (∀ (y : Thread), y ∈ s.threads → (∃ l, y.park = some (Park.request id l)) → y = x) ∧
    x.loc.core ≠ 8 ∧
    (List.map (fun th => th.id) s.threads).Nodup :=
  ⟨(other (fellow (.slot 0 0 3) (some (.request 60 4))) { demo with reqs := [.namei 60 2 0 [] []] }), 60, 60, 2, 4, 0, (fellow (.slot 0 0 3) (some (.request 60 4))), by decide +kernel, by decide +kernel, by decide +kernel, (wit_only _ _
  (fun x =>
    match x.park with
    | some (.request 60 _) => true
    | _ => false)
  _ (by rintro x ⟨l, h⟩; simp [h]) (by decide +kernel)), by decide +kernel⟩

theorem witness_FabricMovesPackets_inject : ∃ (s : State) (pk : Nat) (p : Packet) (t : Nat) (turns : List (BitVec 4)) (port : Nat),
    s.packet? pk = some p ∧
    p.id = pk ∧
    pk < s.nextId ∧
    s.bridgeLeg t p = none ∧
    s.compose t p = some (turns, port) ∧
    (p.pos = Pos.source t ∧ s.injectWaits t p = false) :=
  ⟨(packet (at_ (.source 0) 1) (tile (fun x => { x with banks := [(false, routes), (true, routes)] }) demo)), 50, (at_ (.source 0) 1), 0, [0], 1, by decide +kernel⟩

theorem witness_FabricMovesPackets_relay : ∃ (s : State) (pk : Nat) (p : Packet) (t : Nat) (turns : List (BitVec 4)) (port : Nat),
    s.packet? pk = some p ∧
    p.id = pk ∧
    pk < s.nextId ∧
    s.bridgeLeg t p = none ∧
    s.compose t p = some (turns, port) ∧
    p.pos = Pos.relayed t :=
  ⟨(packet (at_ (.relayed 0) 1) (tile (fun x => { x with banks := [(false, routes), (true, routes)] }) demo)), 50, (at_ (.relayed 0) 1), 0, [0], 1, by decide +kernel⟩

theorem witness_FabricMovesPackets_eject : ∃ (s : State) (pk : Nat) (p : Packet) (f : Nat) (d : Nat) (r : Nat) (home : Nat) (c : BitVec 4) (rest : List (BitVec 4)) (t : Nat),
    s.packet? pk = some p ∧
    p.id = pk ∧
    pk < s.nextId ∧
    p.pos = Pos.router f d r ∧
    p.turns = c :: rest ∧
    home = f * 256 + d * 64 + 4 * r ∧
    c = 0 ∧
    portSite f d r p.dport = some t :=
  ⟨(packet { at_ (.router 0 0 0) 1 with turns := 0 :: [], dport := 1 } demo), 50, { at_ (.router 0 0 0) 1 with turns := 0 :: [], dport := 1 }, 0, 0, 0, 0, 0, [], 1, by decide +kernel⟩

theorem witness_FabricMovesPackets_hand : ∃ (s : State) (pk : Nat) (p : Packet) (f : Nat) (d : Nat) (r : Nat) (home : Nat) (c : BitVec 4) (rest : List (BitVec 4)),
    s.packet? pk = some p ∧
    p.id = pk ∧
    pk < s.nextId ∧
    p.pos = Pos.router f d r ∧
    p.turns = c :: rest ∧
    home = f * 256 + d * 64 + 4 * r ∧
    c = 1 ∧
    s.relayFits home p = true :=
  ⟨(packet { at_ (.router 0 0 0) 1 with turns := 1 :: [3], dport := 1 } demo), 50, { at_ (.router 0 0 0) 1 with turns := 1 :: [3], dport := 1 }, 0, 0, 0, 0, 1, [3], by decide +kernel⟩

theorem witness_FabricMovesPackets_full : ∃ (s : State) (pk : Nat) (p : Packet) (f : Nat) (d : Nat) (r : Nat) (home : Nat) (c : BitVec 4) (rest : List (BitVec 4)),
    s.packet? pk = some p ∧
    p.id = pk ∧
    pk < s.nextId ∧
    p.pos = Pos.router f d r ∧
    p.turns = c :: rest ∧
    home = f * 256 + d * 64 + 4 * r ∧
    c = 1 ∧
    s.relayFits home p = false :=
  ⟨(packet { at_ (.router 0 0 0) 1 with turns := 1 :: [3], dport := 1 } { demo with packets := (List.range 8).map fun i => { at_ (.relayed 0) 1 with id := 60 + i } }), 50, { at_ (.router 0 0 0) 1 with turns := 1 :: [3], dport := 1 }, 0, 0, 0, 0, 1, [3], by decide +kernel⟩

theorem witness_FabricMovesPackets_discard : ∃ (s : State) (pk : Nat) (p : Packet) (f : Nat) (d : Nat) (r : Nat) (home : Nat) (c : BitVec 4) (rest : List (BitVec 4)),
    s.packet? pk = some p ∧
    p.id = pk ∧
    pk < s.nextId ∧
    p.pos = Pos.router f d r ∧
    p.turns = c :: rest ∧
    home = f * 256 + d * 64 + 4 * r ∧
    (c = 2 ∨ c = 3 ∨ c = 4 ∧ (r = 0 ∨ r = 5)) :=
  ⟨(packet { at_ (.router 0 0 0) 1 with turns := 2 :: [], dport := 1 } demo), 50, { at_ (.router 0 0 0) 1 with turns := 2 :: [], dport := 1 }, 0, 0, 0, 0, 2, [], by decide +kernel⟩

theorem witness_FabricMovesPackets_discard4 : ∃ (s : State) (pk : Nat) (p : Packet) (f : Nat) (d : Nat) (r : Nat) (home : Nat) (c : BitVec 4) (rest : List (BitVec 4)),
    s.packet? pk = some p ∧
    p.id = pk ∧
    pk < s.nextId ∧
    p.pos = Pos.router f d r ∧
    p.turns = c :: rest ∧
    home = f * 256 + d * 64 + 4 * r ∧
    (c = 2 ∨ c = 3 ∨ c = 4 ∧ (r = 0 ∨ r = 5)) :=
  ⟨(packet { at_ (.router 0 0 5) 1 with turns := 4 :: [], dport := 1 } demo), 50, { at_ (.router 0 0 5) 1 with turns := 4 :: [], dport := 1 }, 0, 0, 5, 20, 4, [], by decide +kernel⟩

theorem witness_FabricMovesPackets_pass : ∃ (s : State) (pk : Nat) (p : Packet) (f : Nat) (d : Nat) (r : Nat) (home : Nat) (c : BitVec 4) (rest : List (BitVec 4)),
    s.packet? pk = some p ∧
    p.id = pk ∧
    pk < s.nextId ∧
    p.pos = Pos.router f d r ∧
    p.turns = c :: rest ∧
    home = f * 256 + d * 64 + 4 * r ∧
    5 ≤ c.toNat ∧
    c.toNat ≤ 13 :=
  ⟨(packet { at_ (.router 0 0 3) 1 with turns := 5 :: [0], dport := 1 } demo), 50, { at_ (.router 0 0 3) 1 with turns := 5 :: [0], dport := 1 }, 0, 0, 3, 12, 5, [0], by decide +kernel⟩

theorem witness_FabricMovesPackets_pass13 : ∃ (s : State) (pk : Nat) (p : Packet) (f : Nat) (d : Nat) (r : Nat) (home : Nat) (c : BitVec 4) (rest : List (BitVec 4)),
    s.packet? pk = some p ∧
    p.id = pk ∧
    pk < s.nextId ∧
    p.pos = Pos.router f d r ∧
    p.turns = c :: rest ∧
    home = f * 256 + d * 64 + 4 * r ∧
    5 ≤ c.toNat ∧
    c.toNat ≤ 13 :=
  ⟨(packet { at_ (.router 0 0 3) 1 with turns := 13 :: [0], dport := 1 } demo), 50, { at_ (.router 0 0 3) 1 with turns := 13 :: [0], dport := 1 }, 0, 0, 3, 12, 13, [0], by decide +kernel⟩

theorem witness_FabricMovesPackets_long : ∃ (s : State) (pk : Nat) (p : Packet) (f : Nat) (d : Nat) (r : Nat) (home : Nat) (c : BitVec 4) (rest : List (BitVec 4)),
    s.packet? pk = some p ∧
    p.id = pk ∧
    pk < s.nextId ∧
    p.pos = Pos.router f d r ∧
    p.turns = c :: rest ∧
    home = f * 256 + d * 64 + 4 * r ∧
    c = 14 ∧
    7 ≤ r :=
  ⟨(packet { at_ (.router 0 0 7) 1 with turns := 14 :: [0], dport := 1 } demo), 50, { at_ (.router 0 0 7) 1 with turns := 14 :: [0], dport := 1 }, 0, 0, 7, 28, 14, [0], by decide +kernel⟩

theorem witness_FabricMovesPackets_retired : ∃ (s : State) (pk : Nat) (p : Packet) (f : Nat) (d : Nat) (r : Nat) (home : Nat) (c : BitVec 4) (rest : List (BitVec 4)) (k : Nat),
    s.packet? pk = some p ∧
    p.id = pk ∧
    pk < s.nextId ∧
    p.pos = Pos.router f d r ∧
    p.turns = c :: rest ∧
    home = f * 256 + d * 64 + 4 * r ∧
    k = portKey f d r c.toNat ∧
    (c = 4 ∧ r ≠ 0 ∧ r ≠ 5 ∨ c = 14 ∧ r < 7 ∨ c = 15) ∧
    (s.link k).retired = true ∧
    s.relayFits home p = true :=
  ⟨(packet { at_ (.router 0 0 0) 1 with turns := 15 :: [0], dport := 1 } ({ demo.modModule 0 (fun m => { m with stitch := [(15, 655)] }) with links := [(15, { Link.reset with failed := true, retired := true })] })), 50, { at_ (.router 0 0 0) 1 with turns := 15 :: [0], dport := 1 }, 0, 0, 0, 0, 15, [0], 15, by decide +kernel⟩

theorem witness_FabricMovesPackets_down : ∃ (s : State) (pk : Nat) (p : Packet) (f : Nat) (d : Nat) (r : Nat) (home : Nat) (c : BitVec 4) (rest : List (BitVec 4)) (k : Nat),
    s.packet? pk = some p ∧
    p.id = pk ∧
    pk < s.nextId ∧
    p.pos = Pos.router f d r ∧
    p.turns = c :: rest ∧
    home = f * 256 + d * 64 + 4 * r ∧
    k = portKey f d r c.toNat ∧
    (c = 4 ∧ r ≠ 0 ∧ r ≠ 5 ∨ c = 14 ∧ r < 7 ∨ c = 15) ∧
    (s.link k).retired = false ∧
    ((s.link k).retraining || (s.link k).failed) = true :=
  ⟨(packet { at_ (.router 0 0 0) 1 with turns := 15 :: [0], dport := 1 } ({ demo.modModule 0 (fun m => { m with stitch := [(15, 655)] }) with links := [(15, { Link.reset with retraining := true })] })), 50, { at_ (.router 0 0 0) 1 with turns := 15 :: [0], dport := 1 }, 0, 0, 0, 0, 15, [0], 15, by decide +kernel⟩

theorem witness_FabricMovesPackets_stitch : ∃ (s : State) (pk : Nat) (p : Packet) (f : Nat) (d : Nat) (r : Nat) (home : Nat) (c : BitVec 4) (rest : List (BitVec 4)) (k : Nat) (far : Nat),
    s.packet? pk = some p ∧
    p.id = pk ∧
    pk < s.nextId ∧
    p.pos = Pos.router f d r ∧
    p.turns = c :: rest ∧
    home = f * 256 + d * 64 + 4 * r ∧
    k = portKey f d r c.toNat ∧
    (c = 4 ∧ r ≠ 0 ∧ r ≠ 5 ∨ c = 14 ∧ r < 7 ∨ c = 15) ∧
    (s.link k).retired = false ∧
    (s.link k).retraining = false ∧
    (s.link k).failed = false ∧
    s.stitchEnd f k = some far ∧
    (s.zone (far / 640)).lost = false :=
  ⟨(packet { at_ (.router 0 0 0) 1 with turns := 15 :: [0], dport := 1 } ({ demo.modModule 0 (fun m => { m with stitch := [(15, 655)] }) with links := [(15, Link.reset)] })), 50, { at_ (.router 0 0 0) 1 with turns := 15 :: [0], dport := 1 }, 0, 0, 0, 0, 15, [0], 15, 655, by decide +kernel⟩

theorem witness_FabricMovesPackets_lostZone : ∃ (s : State) (pk : Nat) (p : Packet) (f : Nat) (d : Nat) (r : Nat) (home : Nat) (c : BitVec 4) (rest : List (BitVec 4)) (k : Nat) (far : Nat),
    s.packet? pk = some p ∧
    p.id = pk ∧
    pk < s.nextId ∧
    p.pos = Pos.router f d r ∧
    p.turns = c :: rest ∧
    home = f * 256 + d * 64 + 4 * r ∧
    k = portKey f d r c.toNat ∧
    (c = 4 ∧ r ≠ 0 ∧ r ≠ 5 ∨ c = 14 ∧ r < 7 ∨ c = 15) ∧
    (s.link k).retired = false ∧
    (s.link k).retraining = false ∧
    (s.link k).failed = false ∧
    s.stitchEnd f k = some far ∧
    (s.zone (far / 640)).lost = true :=
  ⟨(packet { at_ (.router 0 0 0) 1 with turns := 15 :: [0], dport := 1 } (({ demo.modModule 0 (fun m => { m with stitch := [(15, 655)] }) with links := [(15, Link.reset)] }).modZone 1 fun z => { z with lost := true })), 50, { at_ (.router 0 0 0) 1 with turns := 15 :: [0], dport := 1 }, 0, 0, 0, 0, 15, [0], 15, 655, by decide +kernel⟩

theorem witness_FabricMovesPackets_forward : ∃ (s : State) (pk : Nat) (p : Packet) (t : Nat),
    s.packet? pk = some p ∧
    p.id = pk ∧
    pk < s.nextId ∧
    p.pos = Pos.arrived t ∧
    (∀ (n : Ltn), p.body ≠ Payload.walk n) ∧
    p.vc < 2 ∧
    (s.forwardOf t p).isSome = true ∧
    p.fwdc < 2 :=
  ⟨(packet { at_ (.arrived 0) 1 with fwdc := 1 } (tile (fun x => { x with fwd := [(1, 1)] }) demo)), 50, { at_ (.arrived 0) 1 with fwdc := 1 }, 0, by decide +kernel, by decide +kernel, by decide +kernel, by decide +kernel, (fun _ h => by cases h), by decide +kernel⟩

theorem witness_FabricMovesPackets_third : ∃ (s : State) (pk : Nat) (p : Packet) (t : Nat),
    s.packet? pk = some p ∧
    p.id = pk ∧
    pk < s.nextId ∧
    p.pos = Pos.arrived t ∧
    (∀ (n : Ltn), p.body ≠ Payload.walk n) ∧
    p.vc < 2 ∧
    ((s.forwardOf t p).isSome = true ∧ 2 ≤ p.fwdc ∨
      s.forwardOf t p = none ∧ s.siteOf p.dst ≠ t ∧ s.forwardOf (s.siteOf p.dst) p ≠ some t ∧ nameModule p.dst = siteModule t) :=
  ⟨(packet { at_ (.arrived 0) 1 with fwdc := 2 } (tile (fun x => { x with fwd := [(1, 1)] }) demo)), 50, { at_ (.arrived 0) 1 with fwdc := 2 }, 0, by decide +kernel, by decide +kernel, by decide +kernel, by decide +kernel, (fun _ h => by cases h), by decide +kernel⟩

theorem witness_FabricMovesPackets_stray : ∃ (s : State) (pk : Nat) (p : Packet) (t : Nat),
    s.packet? pk = some p ∧
    p.id = pk ∧
    pk < s.nextId ∧
    p.pos = Pos.arrived t ∧
    (∀ (n : Ltn), p.body ≠ Payload.walk n) ∧
    p.vc < 2 ∧
    ((s.forwardOf t p).isSome = true ∧ 2 ≤ p.fwdc ∨
      s.forwardOf t p = none ∧ s.siteOf p.dst ≠ t ∧ s.forwardOf (s.siteOf p.dst) p ≠ some t ∧ nameModule p.dst = siteModule t) :=
  ⟨(packet (at_ (.arrived 0) 1) demo), 50, (at_ (.arrived 0) 1), 0, by decide +kernel, by decide +kernel, by decide +kernel, by decide +kernel, (fun _ h => by cases h), by decide +kernel⟩

theorem witness_FabricMovesPackets_walk : ∃ (s : State) (pk : Nat) (t : Nat) (name : Nat) (p : Packet) (b : Binding),
    s.packet? pk = some p ∧
    p.id = pk ∧
    pk < s.nextId ∧
    p.pos = Pos.arrived t ∧
    p.body = Payload.walk name ∧
    b = s.binding name ∧
    s.tablePlace (ltnField name) = (t, decide (bitsOf (s.tableEntryAt (s.siteOf p.src) (ltnZone name)) 9 9 = 1)) :=
  ⟨(packet { at_ (.arrived 0) 0 with vc := 3, body := .walk 1 } demo), 50, 0, 1, { at_ (.arrived 0) 0 with vc := 3, body := .walk 1 }, (demo.binding 1), by decide +kernel⟩

theorem witness_FabricMovesPackets_walkReply : ∃ (s : State) (pk : Nat) (t : Nat) (name : Nat) (p : Packet) (site : Nat) (th : Thread),
    s.packet? pk = some p ∧
    p.id = pk ∧
    pk < s.nextId ∧
    p.pos = Pos.arrived t ∧
    p.body = Payload.walkReply name true site ∧
    th ∈ s.threads ∧
    th.park = some (Park.name name) ∧
    th.loc.site = t ∧
    (List.map (fun th => th.id) s.threads).Nodup :=
  ⟨(packet { at_ (.arrived 0) 0 with vc := 3, body := .walkReply 2 true 2 } (other (fellow (.slot 0 0 3) (some (.name 2))) demo)), 50, 0, 2, { at_ (.arrived 0) 0 with vc := 3, body := .walkReply 2 true 2 }, 2, (fellow (.slot 0 0 3) (some (.name 2))), by decide +kernel⟩

-- the gong
theorem witness_GarrJoinsRound_joins : ∃ (s : State) (p : Pfx) (d : RegNo) (a : RegNo) (op : GOp) (level : BitVec 2) (k : Nat) (r : Resid),
    s.guardHolds p = true ∧
    s.thr.intervalOpen = false ∧
    k = s.effLevel s.thr.asid s.thr.lgen level.toNat ∧
    s.thr.kind = Kind.gang ∧
    s.myGang.isSome = true ∧
    (s.tile s.tileNo).residFor s.thr.asid s.thr.lgen s.thr.ltn = some r ∧
    (r.doms.any fun x => decide (x.fst = k)) = true ∧
    drained s.thr.sb = true ∧
    (∀ (o : Thread),
      o ∈ s.others →
        o.inGang s.thr.asid s.thr.lgen = true →
          o.loc.inSlot = true →
            o.loc.site = s.tileNo →
              ∀ (x : Nat × GOp × Word), o.garr = some x → s.effLevel s.thr.asid s.thr.lgen x.fst = k ∧ x.snd.fst = op) :=
  ⟨(other (inRound .add 3) (gongOf id demo)), Pfx.none, 5, 4, .add, 0, 0, (resid 0), by decide +kernel, by decide +kernel, by decide +kernel, by decide +kernel, ⟨by decide +kernel, by decide +kernel, by decide +kernel, by decide +kernel, (by
  intro o ho _ _ _ x hx
  obtain rfl : o = inRound .add 3 := by simpa [other, demo, State.reset, gongOf] using ho
  obtain rfl : (0, GOp.add, (3 : Word)) = x := by simpa [inRound, fellow, Thread.garr] using hx
  decide +kernel)⟩⟩

theorem witness_GarrJoinsRound_notGang : ∃ (s : State) (p : Pfx) (d : RegNo) (a : RegNo) (op : GOp) (level : BitVec 2) (k : Nat) (sub : Nat),
    s.guardHolds p = true ∧
    s.thr.intervalOpen = false ∧
    k = s.effLevel s.thr.asid s.thr.lgen level.toNat ∧
    s.thr.priv = 0 ∧
    (sub = 4 ∧ (s.thr.kind ≠ Kind.gang ∨ s.myGang = none) ∨
      sub = 1 ∧
        s.thr.kind = Kind.gang ∧
          s.myGang.isSome = true ∧
            ∀ (r : Resid),
              (s.tile s.tileNo).residFor s.thr.asid s.thr.lgen s.thr.ltn = some r → (r.doms.any fun x => decide (x.fst = k)) = false) :=
  ⟨(thr (fun th => { th with kind := .system }) demo), Pfx.none, 5, 4, .add, 0, 0, 4, by decide +kernel⟩

theorem witness_GarrJoinsRound_noDomain : ∃ (s : State) (p : Pfx) (d : RegNo) (a : RegNo) (op : GOp) (level : BitVec 2) (k : Nat) (sub : Nat),
    s.guardHolds p = true ∧
    s.thr.intervalOpen = false ∧
    k = s.effLevel s.thr.asid s.thr.lgen level.toNat ∧
    s.thr.priv = 0 ∧
    (sub = 4 ∧ (s.thr.kind ≠ Kind.gang ∨ s.myGang = none) ∨
      sub = 1 ∧
        s.thr.kind = Kind.gang ∧
          s.myGang.isSome = true ∧
            ∀ (r : Resid),
              (s.tile s.tileNo).residFor s.thr.asid s.thr.lgen s.thr.ltn = some r → (r.doms.any fun x => decide (x.fst = k)) = false) :=
  ⟨demo, Pfx.none, 5, 4, .add, 1, 1, 1, by decide +kernel, by decide +kernel, by decide +kernel, by decide +kernel, (.inr ⟨by decide +kernel, by decide +kernel, by decide +kernel, wit_resident _ _ _ _ _ (fun r => !(r.doms.any fun x => x.1 = 1)) _ (by simp) (by decide +kernel)⟩)⟩

theorem witness_GongControl_gset : ∃ (s : State) (p : Pfx) (a : RegNo) (b : RegNo),
    s.guardHolds p = true ∧
    s.thr.priv ≠ 0 ∧
    wbits (s.x a) 63 8 = 0 ∧
    BitVec.getLsbD (s.x a) 6 = false ∧
    (BitVec.getLsbD (s.x a) 7 = true ∨ wbits (s.x a) 5 0 ≤ 15) ∧
    segKind (s.x b) ≠ 3 ∧
    wbits (s.x b) 62 60 = 0 :=
  ⟨(sys (regs [(2, int 5), (3, int segRec)] demo)), Pfx.none, 2, 3, by decide +kernel⟩

theorem witness_GongControl_gsetRoot : ∃ (s : State) (p : Pfx) (a : RegNo) (b : RegNo),
    s.guardHolds p = true ∧
    s.thr.priv ≠ 0 ∧
    wbits (s.x a) 63 8 = 0 ∧
    BitVec.getLsbD (s.x a) 6 = false ∧
    (BitVec.getLsbD (s.x a) 7 = true ∨ wbits (s.x a) 5 0 ≤ 15) ∧
    segKind (s.x b) ≠ 3 ∧
    wbits (s.x b) 62 60 = 0 :=
  ⟨(sys (regs [(2, int 0xBF), (3, int segRec)] demo)), Pfx.none, 2, 3, by decide +kernel⟩

theorem witness_GongControl_confirm : ∃ (s : State) (pk : Nat) (t : Nat) (n : Nat) (key : Nat) (len : Nat) (w : Word) (p : Packet) (x : Thread) (old : Word),
    s.Arrives pk p t ∧
    p.body = Payload.gset n key w ∧
    s.thread? x.id = some x ∧
    x.park = some (Park.request pk len) ∧
    (∀ (y : Thread), y ∈ s.threads → (∃ l, y.park = some (Park.request pk l)) → y = x) ∧
    x.loc.core ≠ 8 ∧
    (List.map (fun th => th.id) s.threads).Nodup ∧
    old = (s.gongSlot key).record ∧
    (segV old = false ∨ segAsid old = segAsid w ∧ segGen old = segGen w) :=
  ⟨(packet (arrived 0 (.gset 2 0 segRec)) (other (fellow (.slot 0 0 3) (some (.request 50 3))) demo)), 50, 0, 2, 0, 3, segRec, (arrived 0 (.gset 2 0 segRec)), (fellow (.slot 0 0 3) (some (.request 50 3))), 0, wit_arrives _ _ _ _ (by decide +kernel), by decide +kernel, by decide +kernel, by decide +kernel, (wit_only _ _
  (fun x =>
    match x.park with
    | some (.request 50 _) => true
    | _ => false)
  _ (by rintro x ⟨l, h⟩; simp [h]) (by decide +kernel)), by decide +kernel⟩

theorem witness_GongControl_busy : ∃ (s : State) (pk : Nat) (t : Nat) (n : Nat) (key : Nat) (len : Nat) (w : Word) (p : Packet) (x : Thread) (old : Word),
    s.Arrives pk p t ∧
    p.body = Payload.gset n key w ∧
    s.thread? x.id = some x ∧
    x.park = some (Park.request pk len) ∧
    (∀ (y : Thread), y ∈ s.threads → (∃ l, y.park = some (Park.request pk l)) → y = x) ∧
    x.loc.core ≠ 8 ∧
    (List.map (fun th => th.id) s.threads).Nodup ∧
    old = (s.gongSlot key).record ∧
    segV old = true ∧
    ¬(segAsid old = segAsid w ∧ segGen old = segGen w) ∧
    s.slotBusy (key / 64) (key % 64) = true :=
  ⟨(packet (arrived 0 (.gset 2 0 (segRec + 2 ^ 32))) (thr (fun th => { th with park := some (.garr 0 .add 3 5 3) }) (gongOf id (other (fellow (.slot 0 0 3) (some (.request 50 3))) demo)))), 50, 0, 2, 0, 3, (segRec + 2 ^ 32), (arrived 0 (.gset 2 0 (segRec + 2 ^ 32))), (fellow (.slot 0 0 3) (some (.request 50 3))), segRec, wit_arrives _ _ _ _ (by decide +kernel), by decide +kernel, by decide +kernel, by decide +kernel, (wit_only _ _
  (fun x =>
    match x.park with
    | some (.request 50 _) => true
    | _ => false)
  _ (by rintro x ⟨l, h⟩; simp [h]) (by decide +kernel)), by decide +kernel⟩

theorem witness_GongControl_dsetNone : ∃ (s : State) (p : Pfx) (a : RegNo) (b : RegNo),
    s.guardHolds p = true ∧
    s.thr.priv ≠ 0 ∧
    wbits (s.x a) 63 14 = 0 ∧
    wbits (s.x b) 63 36 = 0 ∧
    wbits (s.x b) 31 24 = 0 ∧
    (s.tile s.tileNo).residOf (wbits (s.x a) 11 0) = none :=
  ⟨(sys (regs [(2, int 6)] demo)), Pfx.none, 2, 3, by decide +kernel⟩

theorem witness_GongControl_dset : ∃ (s : State) (p : Pfx) (a : RegNo) (b : RegNo) (r : Resid),
    s.guardHolds p = true ∧
    s.thr.priv ≠ 0 ∧
    wbits (s.x a) 63 14 = 0 ∧
    wbits (s.x b) 63 36 = 0 ∧
    wbits (s.x b) 31 24 = 0 ∧
    (s.tile s.tileNo).residOf (wbits (s.x a) 11 0) = some r ∧
    s.parkedAt [s.tileNo] r.asid r.lgen none = [] ∧
    ((s.tile s.tileNo).phase.any fun f => decide (f.g = gangKey r.asid r.lgen)) = false ∧
    (s.releases.any fun q => decide (q.t = s.tileNo) && decide (q.g = gangKey r.asid r.lgen)) = false :=
  ⟨(sys (regs [(2, int 0x1005), (3, int (BitVec.ofNat 64 (3 * 2 ^ 32 + 77)))] demo)), Pfx.none, 2, 3, (resid 0), by decide +kernel⟩

theorem witness_GongControl_gstat : ∃ (s : State) (p : Pfx) (d : RegNo) (a : RegNo),
    s.guardHolds p = true :=
  ⟨(gongOf id demo), Pfx.none, 5, 2, by decide +kernel⟩

theorem witness_RoundsAndBell_sampled : ∃ (s : State) (node : Nat) (slot : Nat) (t : Nat) (k : Nat) (rs : List Resid),
    s.roundLevel node slot = some k ∧
    s.membersAt node slot k t = rs ∧
    rs ≠ [] ∧
    ((s.gongSlot (gongKey node slot)).sweep.any fun x => decide (x.t = t)) = false ∧
    (∃ m, m ∈ s.members node slot k ∧ m ≠ t ∧ ∀ (x : Sample), x ∈ (s.gongSlot (gongKey node slot)).sweep → x.t ≠ m) :=
  ⟨(thr (fun th => { th with park := some (.garr 0 .add 3 5 3) }) (gongOf id demo)), 0, 0, 0, 0, [resid 0], by decide +kernel⟩

theorem witness_RoundsAndBell_completes : ∃ (s : State) (node : Nat) (slot : Nat) (t : Nat) (k : Nat) (rs : List Resid) (xs : List Sample) (op : GOp),
    s.roundLevel node slot = some k ∧
    s.membersAt node slot k t = rs ∧
    rs ≠ [] ∧
    ((s.gongSlot (gongKey node slot)).sweep.any fun x => decide (x.t = t)) = false ∧
    (xs =
      (s.gongSlot (gongKey node slot)).sweep ++
        [s.sample (gongKey node slot) k t (segAsid (s.segment node slot)) (segGen (s.segment node slot)) rs]) ∧
    (∀ (m : Nat), m ∈ s.members node slot k → ∃ x, x ∈ xs ∧ x.t = m) ∧
    (s.gongSlot (gongKey node slot)).prevArr = true ∧
    (∀ (x : Sample), x ∈ xs → x.arrived = true ∧ x.quiet = true ∧ x.other = false) ∧
    (xs.any fun x => x.started) = true ∧
    (List.flatMap (fun x => x.ops) xs).eraseDups = [op] ∧
    s.commits (segAsid (s.segment node slot)) (segGen (s.segment node slot)) k = false :=
  ⟨(thr (fun th => { th with park := some (.garr 0 .add 3 5 3) }) (gongOf (fun g => { g with prevArr := true, sweep := [{ t := 1, arrived := true, quiet := true, started := false, ops := [], level := 0, value := none, other := false }] }) demo)), 0, 0, 0, 0, [resid 0], [{ t := 1, arrived := true, quiet := true, started := false, ops := [], level := 0, value := none, other := false }, { t := 0, arrived := true, quiet := true, started := true, ops := [.add], level := 0, value := some 3, other := false }], .add, by decide +kernel⟩

theorem witness_RoundsAndBell_release : ∃ (s : State) (t : Nat) (asid : Nat) (lgen : Nat) (level : Nat) (len : Nat) (rel : Release) (r : Resid) (x : Thread) (k : Nat) (op : GOp) (v : Word) (d : RegNo),
    lgen < 65536 ∧
    List.find? (fun r => decide (r.t = t) && decide (r.g = gangKey asid lgen) && decide (r.level = level)) s.releases = some rel ∧
    (s.tile t).resid? asid lgen = some r ∧
    r.preempted = false ∧
    s.thread? x.id = some x ∧
    x.park = some (Park.garr k op v d len) ∧
    x.inGang asid lgen = true ∧
    x.loc.inSlot = true ∧
    x.loc.site = t ∧
    s.effLevel asid lgen k = level ∧
    x.id ∈ rel.ths ∧
    (List.map (fun th => th.id) s.threads).Nodup :=
  ⟨(other (inRound .add 3) (gongOf id { demo with releases := [{ t := 0, g := gangKey 5 7, level := 0, value := 9, ths := [2] }] })), 0, 5, 7, 0, 3, { t := 0, g := gangKey 5 7, level := 0, value := 9, ths := [2] }, (resid 0), (inRound .add 3), 0, .add, 3, 5, by decide +kernel⟩

theorem witness_RoundsAndBell_deliver : ∃ (s : State) (w : Nat),
    s.manyModules = false :=
  ⟨{ demo with bellWin := 4 }, 0, by decide +kernel⟩

theorem witness_RoundsAndBell_early : ∃ (s : State) (w : Nat),
    s.manyModules = false :=
  ⟨{ demo with bellWin := 3 }, 0, by decide +kernel⟩

-- the matrix engine
theorem witness_MatrixInstructions_mfmt : ∃ (s : State) (p : Pfx) (a : RegNo) (b : RegNo),
    s.guardHolds p = true ∧
    wbits (s.x a) 63 19 = 0 ∧
    fmtCombo (BitVec.setWidth 19 (s.x a)) = true :=
  ⟨(regs [(2, int 0x3000)] demo), Pfx.none, 2, 3, by decide +kernel⟩

theorem witness_MatrixInstructions_mwgt : ∃ (s : State) (p : Pfx) (a : RegNo) (b : RegNo),
    s.guardHolds p = true ∧
    s.thr.priv ≠ 0 ∧
    BitVec.toNat (s.x a) < 8 ∧
    1 ≤ BitVec.toNat (s.x b) ∧
    BitVec.toNat (s.x b) ≤ 8 :=
  ⟨(sys (regs [(2, int 7), (3, int 8)] demo)), Pfx.none, 2, 3, by decide +kernel⟩

theorem witness_MatrixInstructions_mbld : ∃ (s : State) (p : Pfx) (d : RegNo) (a : RegNo) (b : RegNo) (off : Nat) (sf : Nat) (sc : Nat),
    s.guardHolds p = true ∧
    s.thr.intervalOpen = false ∧
    ((sf, sc) =
      match s.myResid with
      | some r => (r.slotFirst, r.slotCount)
      | none => (0, 0)) ∧
    mbldCheck (s.reg a) (s.x b) s.quarters.length sf sc = Except.ok off ∧
    unsent s.thr.sb = 0 ∧
    s.qlen s.tileNo s.coreNo < 4 :=
  ⟨(regs [(2, int loadWord)] demo), Pfx.none, 5, 1, 2, 256, 0, 8, by decide +kernel, by decide +kernel, by decide +kernel, wit_ok (by decide +kernel), by decide +kernel⟩

theorem witness_MatrixInstructions_mmq : ∃ (s : State) (p : Pfx) (d : RegNo) (a : RegNo) (b : RegNo) (off : Nat) (g : Gang) (res : Resid) (r : BitVec 512),
    s.guardHolds p = true ∧
    s.thr.intervalOpen = false ∧
    (s.thr.mrec = some r ∨
      s.thr.mrec = none ∧
        mmqCheck (s.reg a) (permR ||| permENG) s.quarters.length = Except.ok off ∧
          unsent s.thr.sb = 0 ∧ s.poisonIn off 64 = none ∧ r = BitVec.ofNat 512 (ofBytes (s.vbytes off 64))) ∧
    s.qlen s.tileNo s.coreNo < 4 ∧
    s.myGang = some g ∧
    s.myResid = some res ∧
    s.leadCheck s.tileNo s.coreNo g res r s.thr.fmt = none ∧
    shGrp r = false :=
  ⟨(record shape), Pfx.none, 5, 1, 2, 256, { gang with tiles := [0, 1, 2, 3] }, (resid 0), shape, by decide +kernel, by decide +kernel, (.inr ⟨rfl, wit_ok (by decide +kernel), by decide +kernel, by decide +kernel, by decide +kernel⟩), by decide +kernel⟩

theorem witness_MatrixInstructions_group : ∃ (s : State) (p : Pfx) (d : RegNo) (a : RegNo) (b : RegNo) (off : Nat) (g : Gang) (res : Resid) (r : BitVec 512),
    s.guardHolds p = true ∧
    s.thr.intervalOpen = false ∧
    (s.thr.mrec = some r ∨
      s.thr.mrec = none ∧
        mmqCheck (s.reg a) (permR ||| permENG) s.quarters.length = Except.ok off ∧
          unsent s.thr.sb = 0 ∧ s.poisonIn off 64 = none ∧ r = BitVec.ofNat 512 (ofBytes (s.vbytes off 64))) ∧
    s.qlen s.tileNo s.coreNo < 4 ∧
    s.myGang = some g ∧
    s.myResid = some res ∧
    s.leadCheck s.tileNo s.coreNo g res r s.thr.fmt = none ∧
    shGrp r = true :=
  ⟨(record groupShape), Pfx.none, 5, 1, 2, 256, { gang with tiles := [0, 1, 2, 3] }, (resid 0), groupShape, by decide +kernel, by decide +kernel, (.inr ⟨rfl, wit_ok (by decide +kernel), by decide +kernel, by decide +kernel, by decide +kernel⟩), by decide +kernel⟩

theorem witness_MatrixInstructions_rejected : ∃ (s : State) (p : Pfx) (d : RegNo) (a : RegNo) (b : RegNo) (off : Nat) (g : Gang) (res : Resid) (r : BitVec 512) (sub : Nat),
    s.guardHolds p = true ∧
    s.thr.intervalOpen = false ∧
    (s.thr.mrec = some r ∨
      s.thr.mrec = none ∧
        mmqCheck (s.reg a) (permR ||| permENG) s.quarters.length = Except.ok off ∧
          unsent s.thr.sb = 0 ∧ s.poisonIn off 64 = none ∧ r = BitVec.ofNat 512 (ofBytes (s.vbytes off 64))) ∧
    s.qlen s.tileNo s.coreNo < 4 ∧
    s.myGang = some g ∧
    s.myResid = some res ∧
    s.leadCheck s.tileNo s.coreNo g res r s.thr.fmt = some sub ∧
    s.thr.mtrap = false :=
  ⟨(record badShape), Pfx.none, 5, 1, 2, 256, { gang with tiles := [0, 1, 2, 3] }, (resid 0), badShape, 4, by decide +kernel, by decide +kernel, (.inr ⟨rfl, wit_ok (by decide +kernel), by decide +kernel, by decide +kernel, by decide +kernel⟩), by decide +kernel⟩

theorem witness_MatrixInstructions_waits : ∃ (s : State) (p : Pfx) (d : RegNo) (a : RegNo) (b : RegNo) (off : Nat) (g : Gang) (res : Resid) (r : BitVec 512),
    s.guardHolds p = true ∧
    s.thr.intervalOpen = false ∧
    (s.thr.mrec = some r ∨
      s.thr.mrec = none ∧
        mmqCheck (s.reg a) (permR ||| permENG) s.quarters.length = Except.ok off ∧
          unsent s.thr.sb = 0 ∧ s.poisonIn off 64 = none ∧ r = BitVec.ofNat 512 (ofBytes (s.vbytes off 64))) ∧
    4 ≤ s.qlen s.tileNo s.coreNo :=
  ⟨(mat (fun m => { m with queue := [mcmd, { mcmd with seq := 21 }, { mcmd with seq := 22 }, { mcmd with seq := 23 }] }) (record shape)), Pfx.none, 5, 1, 2, 256, { gang with tiles := [0, 1, 2, 3] }, (resid 0), shape, by decide +kernel, by decide +kernel, (.inr ⟨rfl, wit_ok (by decide +kernel), by decide +kernel, by decide +kernel, by decide +kernel⟩), by decide +kernel⟩

theorem witness_MatrixInstructions_waited : ∃ (s : State) (p : Pfx) (d : RegNo) (a : RegNo) (b : RegNo) (off : Nat) (g : Gang) (res : Resid) (r : BitVec 512),
    s.guardHolds p = true ∧
    s.thr.intervalOpen = false ∧
    (s.thr.mrec = some r ∨
      s.thr.mrec = none ∧
        mmqCheck (s.reg a) (permR ||| permENG) s.quarters.length = Except.ok off ∧
          unsent s.thr.sb = 0 ∧ s.poisonIn off 64 = none ∧ r = BitVec.ofNat 512 (ofBytes (s.vbytes off 64))) ∧
    s.qlen s.tileNo s.coreNo < 4 ∧
    s.myGang = some g ∧
    s.myResid = some res ∧
    s.leadCheck s.tileNo s.coreNo g res r s.thr.fmt = none ∧
    shGrp r = false :=
  ⟨(thr (fun th => { th with mrec := some shape }) (mat id (withGang (fun g => { g with tiles := [0, 1, 2, 3] }) demo))), Pfx.none, 5, 1, 2, 256, { gang with tiles := [0, 1, 2, 3] }, (resid 0), shape, by decide +kernel, by decide +kernel, (.inl rfl), by decide +kernel⟩

theorem witness_MatrixInstructions_mstat : ∃ (s : State) (p : Pfx) (d : RegNo) (a : RegNo) (b : RegNo),
    s.guardHolds p = true ∧
    s.thr.intervalOpen = false :=
  ⟨demo, Pfx.none, 5, 1, 2, by decide +kernel⟩

theorem witness_MatrixInstructions_mcanNone : ∃ (s : State) (p : Pfx) (d : RegNo) (a : RegNo) (b : RegNo),
    s.guardHolds p = true ∧
    s.thr.intervalOpen = false ∧
    wbits (s.x a) 63 1 = 0 ∧
    (∀ (c : MatCmd), c ∈ (s.tile s.tileNo).mat.queue → c.core ≠ s.coreNo ∨ c.key ≠ s.myKey) :=
  ⟨(regs [(1, int 1)] demo), Pfx.none, 5, 1, 2, by decide +kernel⟩

theorem witness_MatrixInstructions_mcan : ∃ (s : State) (p : Pfx) (d : RegNo) (a : RegNo) (b : RegNo) (c : MatCmd),
    s.guardHolds p = true ∧
    s.thr.intervalOpen = false ∧
    wbits (s.x a) 63 1 = 0 ∧
    c ∈ (s.tile s.tileNo).mat.queue ∧
    c.core = s.coreNo ∧
    c.key = s.myKey ∧
    c.part = 0 ∧
    c.load = false ∧
    c.accepted = true ∧
    c.stopping = false ∧
    c.pass = 0 :=
  ⟨(regs [(1, int 0)] (mat (fun m => { m with queue := [mcmd] }) demo)), Pfx.none, 5, 1, 2, mcmd, by decide +kernel⟩

theorem witness_MatrixArrayRuns_pass : ∃ (s : State) (t : Nat) (ptr : Nat) (k : Nat) (credit : Nat) (c : MatCmd) (res : Resid),
    s.arrayStopped t = false ∧
    s.arbitrate t = some (c, ptr, k, credit) ∧
    (s.tile t).residFor c.asid c.lgen c.ltn = some res ∧
    c.load = false ∧
    (s.tile t).mat.draining < 2 :=
  ⟨(mat (fun m => { m with queue := [mcmd] }) demo), 0, 1, 0, 0, mcmd, (resid 0), by decide +kernel⟩

theorem witness_MatrixArrayRuns_load : ∃ (s : State) (t : Nat) (ptr : Nat) (k : Nat) (credit : Nat) (c : MatCmd) (res : Resid) (b : Word) (cb : Nat) (w : Nat) (cs : Nat),
    s.arrayStopped t = false ∧
    s.arbitrate t = some (c, ptr, k, credit) ∧
    (s.tile t).residFor c.asid c.lgen c.ltn = some res ∧
    c.load = true ∧
    b = BitVec.setWidth 64 c.shape ∧
    cb = rowBytes (wbits b 11 8) (wbits b 28 16) ∧
    w = wbits b 57 52 ∧
    cs = wbits b 51 32 ∧
    c.src % 32 = 0 ∧
    cs % 32 = 0 ∧
    (∀ (q : Nat), q ∈ res.quarters → q < 4) ∧
    c.src + (w - 1) * cs + cb ≤ windowBytes res.quarters.length :=
  ⟨(mat (fun m => { m with queue := [{ mcmd with load := true, shape := loadWord.setWidth 512 }] }) demo), 0, 1, 0, 0, { mcmd with load := true, shape := loadWord.setWidth 512 }, (resid 0), loadWord, 32, 2, 32, by decide +kernel⟩

theorem witness_MatrixArrayRuns_drain : ∃ (s : State) (t : Nat) (r : Row) (rest : List Row) (c : MatCmd) (res : Resid) (o : Nat),
    (s.tile t).mat.rows = r :: rest ∧
    List.find? (fun c => decide (c.seq = r.cmd)) (s.tile t).mat.queue = some c ∧
    (s.tile t).residFor c.asid c.lgen c.ltn = some res ∧
    shHen c.shape = false ∧
    o = shDBase c.shape + r.row * shDStr c.shape + 48 * r.col * fmtBytes (fmtOfCode (fmtDF c.fmt)) ∧
    s.engineWaits t c.asid c.lgen res.quarters o (drainRow c.fmt r.vals).fst.length = none :=
  ⟨(mat (fun m => { m with queue := [{ mcmd with pass := 1 }], rows := [{ cmd := 20, row := 1, col := 0, vals := [3, 4], psn := false }] }) demo), 0, { cmd := 20, row := 1, col := 0, vals := [3, 4], psn := false }, [], { mcmd with pass := 1 }, (resid 0), 96, by decide +kernel⟩

theorem witness_MatrixArrayRuns_buffer : ∃ (s : State) (t : Nat) (r : Row) (rest : List Row) (c : MatCmd) (res : Resid) (o : Nat) (b : Nat) (free : List Nat),
    (s.tile t).mat.rows = r :: rest ∧
    List.find? (fun c => decide (c.seq = r.cmd)) (s.tile t).mat.queue = some c ∧
    (s.tile t).residFor c.asid c.lgen c.ltn = some res ∧
    shHen c.shape = true ∧
    s.freeBuffers t c = b :: free ∧
    s.engineWaits t c.asid c.lgen res.quarters (drainBase res.quarters.length c.core b) 192 = none :=
  ⟨(mat (fun m => { m with queue := [{ mcmd with shape := handledShape, pass := 1 }], rows := [{ cmd := 20, row := 1, col := 0, vals := [3, 4], psn := false }] }) demo), 0, { cmd := 20, row := 1, col := 0, vals := [3, 4], psn := false }, [], { mcmd with shape := handledShape, pass := 1 }, (resid 0), 0, 0, [1, 2, 3], by decide +kernel⟩

theorem witness_MatrixArrayRuns_handler : ∃ (s : State) (t : Nat) (core : Nat) (h : HeldRow) (g : Gang) (r : Resid),
    core < 8 ∧
    s.slotEmpty t core 1 = true ∧
    (List.find? (fun h => !h.handed && (s.tile t).runners.any fun r => decide (r.asid = h.asid) && decide (r.lgen = h.lgen))
        ((s.tile t).core core).bufs =
      some h) ∧
    s.gang? h.asid h.lgen = some g ∧
    (s.tile t).residFor h.asid h.lgen h.ltn = some r ∧
    (∀ (th : Thread), th ∈ s.threads → th.id < s.nextId) :=
  ⟨(core 0 (fun c => { c with bufs := [held] }) demo), 0, 0, held, gang, (resid 0), by decide +kernel⟩

theorem witness_MatrixArrayRuns_hrel : ∃ (s : State) (p : Pfx) (h : HeldRow) (r : Resid) (base : Nat) (vs : List (BitVec 32)),
    s.guardHolds p = true ∧
    s.thr.heldRow = some h ∧
    s.myResid = some r ∧
    base = drainBase r.quarters.length h.core h.buf ∧
    s.thr.groupWaits = false ∧
    s.poisonIn base (4 * h.n) = none ∧
    vs = List.map (fun j => BitVec.ofNat 32 (ofBytes (s.vbytes (base + 4 * j) 4))) (List.range h.n) ∧
    s.engineWaits s.tileNo h.asid h.lgen r.quarters h.dOff (drainRow h.fmt vs).fst.length = none :=
  ⟨(core 0 (fun c => { c with bufs := [{ held with handed := true }] }) (thr (fun th => { th with kind := .handler { held with handed := true }, loc := .slot 0 0 1 }) demo)), Pfx.none, { held with handed := true }, (resid 0), 97536, [0, 0], by decide +kernel⟩

-- groups, ends, the event engine
theorem witness_MatrixGroups_request : ∃ (s : State) (pk : Nat) (t : Nat) (cmd : Nat) (part : Nat) (p : Packet) (res : Resid) (r : BitVec 512) (f : BitVec 19) (core : Nat) (g : Gang),
    s.Arrives pk p t ∧
    p.id = pk ∧
    pk < s.nextId ∧
    s.residentAt t p.asid p.lgen p.dst = some res ∧
    res.quenching = false ∧
    p.body = Payload.shareRequest cmd r f core part ∧
    s.gang? p.asid p.lgen = some g ∧
    lineCheck (s.tile t).mat.seen res g.code core r f part = none ∧
    (s.tile t).partnerEntries < 2 :=
  ⟨(packet (arrived 0 (.shareRequest 20 groupShape 0 0 1)) (mat id demo)), 50, 0, 20, 1, (arrived 0 (.shareRequest 20 groupShape 0 0 1)), (resid 0), groupShape, 0, 0, gang, wit_arrives _ _ _ _ (by decide +kernel), by decide +kernel⟩

theorem witness_MatrixGroups_aside : ∃ (s : State) (pk : Nat) (t : Nat) (cmd : Nat) (part : Nat) (p : Packet) (res : Resid) (r : BitVec 512) (f : BitVec 19) (core : Nat) (g : Gang),
    s.Arrives pk p t ∧
    p.id = pk ∧
    pk < s.nextId ∧
    s.residentAt t p.asid p.lgen p.dst = some res ∧
    res.quenching = false ∧
    p.body = Payload.shareRequest cmd r f core part ∧
    s.gang? p.asid p.lgen = some g ∧
    lineCheck (s.tile t).mat.seen res g.code core r f part = none ∧
    2 ≤ (s.tile t).partnerEntries :=
  ⟨(packet (arrived 0 (.shareRequest 20 groupShape 0 0 1)) (mat (fun m => { m with queue := [share, { share with seq := 22, lead := 2 }] }) demo)), 50, 0, 20, 1, (arrived 0 (.shareRequest 20 groupShape 0 0 1)), (resid 0), groupShape, 0, 0, gang, wit_arrives _ _ _ _ (by decide +kernel), by decide +kernel⟩

theorem witness_MatrixGroups_refused : ∃ (s : State) (pk : Nat) (t : Nat) (cmd : Nat) (part : Nat) (p : Packet) (res : Resid) (r : BitVec 512) (f : BitVec 19) (core : Nat) (g : Gang) (sub : Nat),
    s.Arrives pk p t ∧
    p.id = pk ∧
    pk < s.nextId ∧
    s.residentAt t p.asid p.lgen p.dst = some res ∧
    res.quenching = false ∧
    p.body = Payload.shareRequest cmd r f core part ∧
    s.gang? p.asid p.lgen = some g ∧
    lineCheck (s.tile t).mat.seen res g.code core r f part = some sub :=
  ⟨(packet (arrived 0 (.shareRequest 20 bigShape 0 0 1)) demo), 50, 0, 20, 1, (arrived 0 (.shareRequest 20 bigShape 0 0 1)), (resid 0), bigShape, 0, 0, gang, 9, wit_arrives _ _ _ _ (by decide +kernel), by decide +kernel⟩

theorem witness_MatrixGroups_answer : ∃ (s : State) (pk : Nat) (t : Nat) (cmd : Nat) (part : Nat) (p : Packet) (res : Resid) (sub : Nat) (c : MatCmd) (x : Thread),
    s.Arrives pk p t ∧
    p.id = pk ∧
    pk < s.nextId ∧
    s.residentAt t p.asid p.lgen p.dst = some res ∧
    res.quenching = false ∧
    p.body = Payload.shareAnswer cmd part sub ∧
    List.find? (fun c => decide (c.seq = cmd)) (s.tile t).mat.queue = some c ∧
    c.accepted = false ∧
    (List.map (fun c => c.seq) (s.tile t).mat.queue).Nodup ∧
    (List.map (fun th => th.id) s.threads).Nodup ∧
    (assocSet part sub c.answers).length < 3 :=
  ⟨(packet (arrived 0 (.shareAnswer 20 2 0)) (mat (fun m => { m with queue := [groupCmd] }) (other (fellow (.slot 0 0 3) (some (.matGroup 20))) demo))), 50, 0, 20, 2, (arrived 0 (.shareAnswer 20 2 0)), (resid 0), 0, groupCmd, thread, wit_arrives _ _ _ _ (by decide +kernel), by decide +kernel⟩

theorem witness_MatrixGroups_answered : ∃ (s : State) (pk : Nat) (t : Nat) (cmd : Nat) (part : Nat) (p : Packet) (res : Resid) (sub : Nat) (c : MatCmd) (x : Thread),
    s.Arrives pk p t ∧
    p.id = pk ∧
    pk < s.nextId ∧
    s.residentAt t p.asid p.lgen p.dst = some res ∧
    res.quenching = false ∧
    p.body = Payload.shareAnswer cmd part sub ∧
    List.find? (fun c => decide (c.seq = cmd)) (s.tile t).mat.queue = some c ∧
    c.accepted = false ∧
    (List.map (fun c => c.seq) (s.tile t).mat.queue).Nodup ∧
    (List.map (fun th => th.id) s.threads).Nodup ∧
    (assocSet part sub c.answers).length = 3 ∧
    (∀ (k : Nat), assocGet k 0 (assocSet part sub c.answers) = 0) ∧
    s.thread? c.th = some x ∧
    x.park = some (Park.matGroup cmd) ∧
    (∀ (g : Gang) (r : Resid),
      s.gang? x.asid x.lgen = some g →
        (s.tile t).residFor c.asid c.lgen c.ltn = some r → lineCheck (s.tile t).mat.seen r g.code c.core c.shape c.fmt 0 = none) :=
  ⟨(packet (arrived 0 (.shareAnswer 20 3 0)) (mat (fun m => { m with queue := [{ groupCmd with answers := [(1, 0), (2, 0)] }] }) (other (fellow (.slot 0 0 3) (some (.matGroup 20))) demo))), 50, 0, 20, 3, (arrived 0 (.shareAnswer 20 3 0)), (resid 0), 0, { groupCmd with answers := [(1, 0), (2, 0)] }, (fellow (.slot 0 0 3) (some (.matGroup 20))), wit_arrives _ _ _ _ (by decide +kernel), by decide +kernel, by decide +kernel, by decide +kernel, by decide +kernel, ⟨by decide +kernel, by decide +kernel, by decide +kernel, by decide +kernel, ⟨by decide +kernel, by decide +kernel, (by
  rintro (_ | _ | _ | _ | k) <;>
    first
    | rfl
    | simp [groupCmd, mcmd, assocGet, assocSet]), by decide +kernel, by decide +kernel, (wit_pair _ _ _ (by decide +kernel))⟩⟩⟩

theorem witness_MatrixGroups_start : ∃ (s : State) (pk : Nat) (t : Nat) (cmd : Nat) (part : Nat) (p : Packet) (res : Resid),
    s.Arrives pk p t ∧
    p.id = pk ∧
    pk < s.nextId ∧
    s.residentAt t p.asid p.lgen p.dst = some res ∧
    res.quenching = false ∧
    p.body = Payload.shareStart cmd part :=
  ⟨(packet (arrived 0 (.shareStart 20 1)) (mat (fun m => { m with queue := [{ share with accepted := false }] }) demo)), 50, 0, 20, 1, (arrived 0 (.shareStart 20 1)), (resid 0), wit_arrives _ _ _ _ (by decide +kernel), by decide +kernel⟩

theorem witness_MatrixGroups_report : ∃ (s : State) (pk : Nat) (t : Nat) (cmd : Nat) (part : Nat) (p : Packet) (res : Resid) (fl : BitVec 5) (psn : Bool),
    s.Arrives pk p t ∧
    p.id = pk ∧
    pk < s.nextId ∧
    s.residentAt t p.asid p.lgen p.dst = some res ∧
    res.quenching = false ∧
    p.body = Payload.shareReport cmd part fl psn :=
  ⟨(packet (arrived 0 (.shareReport 20 1 0 false)) (mat (fun m => { m with queue := [{ groupCmd with accepted := true }] }) demo)), 50, 0, 20, 1, (arrived 0 (.shareReport 20 1 0 false)), (resid 0), 0, false, wit_arrives _ _ _ _ (by decide +kernel), by decide +kernel⟩

theorem witness_MatrixGroups_cancelRunning : ∃ (s : State) (pk : Nat) (t : Nat) (cmd : Nat) (part : Nat) (p : Packet) (res : Resid) (c : MatCmd),
    s.Arrives pk p t ∧
    p.id = pk ∧
    pk < s.nextId ∧
    s.residentAt t p.asid p.lgen p.dst = some res ∧
    res.quenching = false ∧
    p.body = Payload.shareCancel cmd part ∧
    s.shareOf t cmd part = some c :=
  ⟨(packet (arrived 0 (.shareCancel 20 1)) (mat (fun m => { m with queue := [share] }) demo)), 50, 0, 20, 1, (arrived 0 (.shareCancel 20 1)), (resid 0), share, wit_arrives _ _ _ _ (by decide +kernel), by decide +kernel⟩

theorem witness_MatrixGroups_cancelReserved : ∃ (s : State) (pk : Nat) (t : Nat) (cmd : Nat) (part : Nat) (p : Packet) (res : Resid) (c : MatCmd),
    s.Arrives pk p t ∧
    p.id = pk ∧
    pk < s.nextId ∧
    s.residentAt t p.asid p.lgen p.dst = some res ∧
    res.quenching = false ∧
    p.body = Payload.shareCancel cmd part ∧
    s.shareOf t cmd part = some c :=
  ⟨(packet (arrived 0 (.shareCancel 20 1)) (mat (fun m => { m with queue := [{ share with accepted := false }] }) demo)), 50, 0, 20, 1, (arrived 0 (.shareCancel 20 1)), (resid 0), { share with accepted := false }, wit_arrives _ _ _ _ (by decide +kernel), by decide +kernel⟩

theorem witness_TaskEnds_plain : ∃ (s : State) (p : Pfx),
    s.guardHolds p = true ∧
    s.thr.intervalOpen = false ∧
    drained s.thr.sb = true ∧
    s.thr.heldRow = none ∧
    ((s.reg 3).tag && (s.reg 3).can permSYN) = false :=
  ⟨demo, Pfx.none, by decide +kernel⟩

theorem witness_TaskEnds_join : ∃ (s : State) (p : Pfx) (pa : Nat),
    s.guardHolds p = true ∧
    s.thr.intervalOpen = false ∧
    drained s.thr.sb = true ∧
    s.thr.heldRow = none ∧
    (s.reg 3).Covers 8 (permW ||| permSYN) ∧
    s.InWindow (s.reg 3).cursor 8 ∧
    pa = s.windowAt (s.reg 3).cursor ∧
    keySite pa = s.tileNo ∧
    (∀ (w : Waiter), w ∈ (s.tile s.tileNo).waiters → w.pa ≠ pa) ∧
    (s.tile s.tileNo).owns (quarterOf pa) s.thr.asid s.thr.lgen = true ∧
    s.poisoned pa 8 = false ∧
    s.writeWaits s.thr.id s.thr.asid s.thr.lgen pa 8 = none :=
  ⟨(regs [(3, win 512)] ((demo.poke (windowKey 0 [0, 1, 2, 3] 512) [1]))), Pfx.none, (windowKey 0 [0, 1, 2, 3] 512), by decide +kernel, by decide +kernel, by decide +kernel, by decide +kernel, wit_covers _ _ _ (by decide +kernel), wit_inWindow _ _ _ (by decide +kernel), by decide +kernel⟩

theorem witness_EventInstructions_evset : ∃ (s : State) (p : Pfx) (d : RegNo) (a : RegNo) (b : RegNo) (off : Nat) (r : Nat) (f : Reg) (s' : State) (pages : List EvPage),
    s.guardHolds p = true ∧
    s.thr.intervalOpen = false ∧
    mmqCheck (s.reg a) (permR ||| permENG ||| permLC) s.quarters.length = Except.ok off ∧
    unsent s.thr.sb = 0 ∧
    (s.tile s.tileNo).ev.busy s.thr.asid s.thr.lgen = false ∧
    s.poisonIn off 64 = none ∧
    r = ofBytes (s.vbytes off 64) ∧
    s.evsetCheck (BitVec.setWidth 64 (s.reg a).cursor) r (s.tagAt (s.winKey (off + 16))) = Except.ok f ∧
    (∀ (k : State → List EvPage → State), s.withPages (BitVec.toNat f.cursor) f.limit 64 k = k s' pages) :=
  ⟨evDemo, Pfx.none, 5, 1, 2, 256, evRec, foCap, evDemo, [], by decide +kernel, by decide +kernel, (by rfl), (by decide +kernel), (by decide +kernel), (by decide +kernel), (by decide +kernel), (wit_ok (by decide +kernel)), (wit_windowPages evDemo _ _ (by decide +kernel))⟩

theorem witness_EventInstructions_evdyn : ∃ (s : State) (p : Pfx) (d : RegNo) (a : RegNo) (b : RegNo),
    s.guardHolds p = true ∧
    s.thr.intervalOpen = false ∧
    BitVec.toNat (s.x a) < 64 ∧
    wbits (s.x b) 63 62 = 0 ∧
    s.ownsBank (BitVec.toNat (s.x a) / 16) = true ∧
    (BitVec.getLsbD (s.x b) 61 = true →
      bitsOf (BitVec.toNat (s.reg b).bits) 127 64 % 2 = 0 ∧
        s.codeCap.base + bitsOf (BitVec.toNat (s.reg b).bits) 127 64 + 2 ≤ s.codeCap.limit) ∧
    (s.tile s.tileNo).ev.busy s.thr.asid s.thr.lgen = false :=
  ⟨(ev id (regs [(2, int 5), (3, int 77)] demo)), Pfx.none, 5, 2, 3, by decide +kernel⟩

theorem witness_EventInstructions_evrd : ∃ (s : State) (p : Pfx) (d : RegNo) (a : RegNo) (b : RegNo) (j : Nat),
    s.guardHolds p = true ∧
    s.thr.intervalOpen = false ∧
    j < 65536 ∧
    BitVec.toNat (s.x a) = j ∧
    s.ownsBank (j / 16384) = true ∧
    (s.tile s.tileNo).ev.busy s.thr.asid s.thr.lgen = false :=
  ⟨(ev id (regs [(2, int 5), (3, int 77)] demo)), Pfx.none, 5, 2, 3, 5, by decide +kernel⟩

theorem witness_EventInstructions_evwr : ∃ (s : State) (p : Pfx) (d : RegNo) (a : RegNo) (b : RegNo) (j : Nat),
    s.guardHolds p = true ∧
    s.thr.intervalOpen = false ∧
    j < 65536 ∧
    BitVec.toNat (s.x a) = j ∧
    s.ownsBank (j / 16384) = true ∧
    (s.tile s.tileNo).ev.busy s.thr.asid s.thr.lgen = false ∧
    wbits (s.x b) 63 26 = 0 ∧
    s.ownsBank (wbits (s.x b) 21 16 / 16) = true :=
  ⟨(ev id (regs [(2, int 5), (3, int 77)] demo)), Pfx.none, 5, 2, 3, 5, by decide +kernel⟩

theorem witness_EventInstructions_evpost : ∃ (s : State) (p : Pfx) (d : RegNo) (a : RegNo) (b : RegNo) (name : Nat) (u : Nat),
    s.guardHolds p = true ∧
    s.thr.intervalOpen = false ∧
    wbits (s.x a) 63 51 = 0 ∧
    wbits (s.x b) 63 32 = 0 ∧
    wbits (s.x a) 18 0 = name ∧
    s.badName s.tileNo name = false ∧
    ltnModule name = siteModule s.tileNo ∧
    List.find? (fun e => decide (e.fst = name)) (s.tile s.tileNo).ncache = some (name, u) ∧
    s.gangTile name = true ∧
    unsent s.thr.sb < 8 ∧
    unacked s.thr.sb < 32 :=
  ⟨(regs [(2, int (BitVec.ofNat 64 (1 + 7 * 2 ^ 19 + 9 * 2 ^ 35))), (3, int 77)] demo), Pfx.none, 5, 2, 3, 1, 1, by decide +kernel⟩

theorem witness_EventInstructions_evrun : ∃ (s : State) (p : Pfx) (d : RegNo) (a : RegNo) (b : RegNo) (c : EvCtx),
    s.guardHolds p = true ∧
    s.thr.intervalOpen = false ∧
    wbits (s.x a) 63 14 = 0 ∧
    wbits (s.x a) 7 6 = 0 ∧
    (s.tile s.tileNo).ev.ctx? s.thr.asid s.thr.lgen s.thr.ltn = some c ∧
    1 ≤ wbits (s.x a) 5 0 ∧
    wbits (s.x a) 5 0 ≤ c.look ∧
    (s.tile s.tileNo).ev.busy s.thr.asid s.thr.lgen = false ∧
    (∀ (q : EvPage), q ∈ c.pages → q.stale = false) ∧
    unsent s.thr.sb = 0 :=
  ⟨(ev (fun e => { e with ctxs := [ectx] }) (regs [(2, int 0x304)] demo)), Pfx.none, 5, 2, 3, ectx, by decide +kernel⟩

theorem witness_EventInstructions_evcntNone : ∃ (s : State) (p : Pfx) (d : RegNo) (a : RegNo) (b : RegNo),
    s.guardHolds p = true ∧
    s.thr.intervalOpen = false ∧
    wbits (s.x a) 63 3 = 0 ∧
    (s.tile s.tileNo).ev.ctx? s.thr.asid s.thr.lgen s.thr.ltn = none :=
  ⟨(regs [(2, int 4)] demo), Pfx.none, 5, 2, 3, by decide +kernel⟩

theorem witness_EventInstructions_evcntFire : ∃ (s : State) (p : Pfx) (d : RegNo) (a : RegNo) (b : RegNo) (c : EvCtx) (w : Word),
    s.guardHolds p = true ∧
    s.thr.intervalOpen = false ∧
    wbits (s.x a) 63 3 = 0 ∧
    (s.tile s.tileNo).ev.ctx? s.thr.asid s.thr.lgen s.thr.ltn = some c ∧
    (wbits (s.x a) 1 0 = 0 ∧ w = c.fire ∨
      wbits (s.x a) 1 0 = 1 ∧ w = c.late ∨
        wbits (s.x a) 1 0 = 2 ∧ w = c.drop ∨
          wbits (s.x a) 1 0 = 3 ∧
            w =
              BitVec.ofNat 64
                (c.look * 2 ^ 36 + bit ((s.tile s.tileNo).ev.busy s.thr.asid s.thr.lgen) * 2 ^ 35 + bit c.sPsn * 2 ^ 34 +
                      bit c.sDrop * 2 ^ 33 +
                    bit c.sLate * 2 ^ 32 +
                  c.hzn)) :=
  ⟨(ev (fun e => { e with ctxs := [ectx] }) (regs [(2, int 0)] demo)), Pfx.none, 5, 2, 3, ectx, 2, by decide +kernel⟩

theorem witness_EventInstructions_evcntLate : ∃ (s : State) (p : Pfx) (d : RegNo) (a : RegNo) (b : RegNo) (c : EvCtx) (w : Word),
    s.guardHolds p = true ∧
    s.thr.intervalOpen = false ∧
    wbits (s.x a) 63 3 = 0 ∧
    (s.tile s.tileNo).ev.ctx? s.thr.asid s.thr.lgen s.thr.ltn = some c ∧
    (wbits (s.x a) 1 0 = 0 ∧ w = c.fire ∨
      wbits (s.x a) 1 0 = 1 ∧ w = c.late ∨
        wbits (s.x a) 1 0 = 2 ∧ w = c.drop ∨
          wbits (s.x a) 1 0 = 3 ∧
            w =
              BitVec.ofNat 64
                (c.look * 2 ^ 36 + bit ((s.tile s.tileNo).ev.busy s.thr.asid s.thr.lgen) * 2 ^ 35 + bit c.sPsn * 2 ^ 34 +
                      bit c.sDrop * 2 ^ 33 +
                    bit c.sLate * 2 ^ 32 +
                  c.hzn)) :=
  ⟨(ev (fun e => { e with ctxs := [ectx] }) (regs [(2, int 5)] demo)), Pfx.none, 5, 2, 3, ectx, 3, by decide +kernel⟩

theorem witness_EventInstructions_evcntStatus : ∃ (s : State) (p : Pfx) (d : RegNo) (a : RegNo) (b : RegNo) (c : EvCtx) (w : Word),
    s.guardHolds p = true ∧
    s.thr.intervalOpen = false ∧
    wbits (s.x a) 63 3 = 0 ∧
    (s.tile s.tileNo).ev.ctx? s.thr.asid s.thr.lgen s.thr.ltn = some c ∧
    (wbits (s.x a) 1 0 = 0 ∧ w = c.fire ∨
      wbits (s.x a) 1 0 = 1 ∧ w = c.late ∨
        wbits (s.x a) 1 0 = 2 ∧ w = c.drop ∨
          wbits (s.x a) 1 0 = 3 ∧
            w =
              BitVec.ofNat 64
                (c.look * 2 ^ 36 + bit ((s.tile s.tileNo).ev.busy s.thr.asid s.thr.lgen) * 2 ^ 35 + bit c.sPsn * 2 ^ 34 +
                      bit c.sDrop * 2 ^ 33 +
                    bit c.sLate * 2 ^ 32 +
                  c.hzn)) :=
  ⟨(ev (fun e => { e with ctxs := [ectx] }) (regs [(2, int 7)] demo)), Pfx.none, 5, 2, 3, ectx, (BitVec.ofNat 64 (4 * 2 ^ 36 + 2 ^ 32 + 3)), by decide +kernel⟩

theorem witness_EventEngineRuns_queued : ∃ (s : State) (pk : Nat) (t : Nat) (p : Packet) (es : List Event) (c : EvCtx) (res : Resid),
    s.Arrives pk p t ∧
    p.id = pk ∧
    pk < s.nextId ∧
    p.body = Payload.events es ∧
    s.residentAt t p.asid p.lgen p.dst = some res ∧
    res.quenching = false ∧
    (s.tile t).ev.ctx? p.asid p.lgen res.ltn = some c ∧
    (∀ (e : Event), e ∈ es → (s.tile t).ev.owns (e.idx / 16384) p.asid p.lgen = true) ∧
    (∀ (e : Event), e ∈ es → c.first ≤ e.idx ∧ e.idx < c.first + c.count ∧ c.hzn ≤ e.tick) ∧
    (List.filter (fun q => decide (ltnField q.snd.name = ltnField res.ltn)) (s.tile t).ev.queue).length + es.length ≤ 262144 :=
  ⟨(ev (fun e => { e with ctxs := [ectx] }) (packet (arrived 0 (.events [anEvent 3 3])) demo)), 50, 0, (arrived 0 (.events [anEvent 3 3])), [anEvent 3 3], ectx, (resid 0), wit_arrives _ _ _ _ (by decide +kernel), by decide +kernel⟩

theorem witness_EventEngineRuns_late : ∃ (s : State) (pk : Nat) (t : Nat) (p : Packet) (es : List Event) (c : EvCtx) (res : Resid) (e : Event),
    s.Arrives pk p t ∧
    p.id = pk ∧
    pk < s.nextId ∧
    p.body = Payload.events es ∧
    s.residentAt t p.asid p.lgen p.dst = some res ∧
    res.quenching = false ∧
    (s.tile t).ev.ctx? p.asid p.lgen res.ltn = some c ∧
    (∀ (e : Event), e ∈ es → (s.tile t).ev.owns (e.idx / 16384) p.asid p.lgen = true) ∧
    es = [e] ∧
    c.first ≤ e.idx ∧
    e.idx < c.first + c.count ∧
    e.tick < c.hzn :=
  ⟨(ev (fun e => { e with ctxs := [ectx] }) (packet (arrived 0 (.events [anEvent 2 3])) demo)), 50, 0, (arrived 0 (.events [anEvent 2 3])), [anEvent 2 3], ectx, (resid 0), (anEvent 2 3), wit_arrives _ _ _ _ (by decide +kernel), by decide +kernel⟩

theorem witness_EventEngineRuns_dropped : ∃ (s : State) (pk : Nat) (t : Nat) (p : Packet) (es : List Event) (c : EvCtx) (res : Resid) (e : Event),
    s.Arrives pk p t ∧
    p.id = pk ∧
    pk < s.nextId ∧
    p.body = Payload.events es ∧
    s.residentAt t p.asid p.lgen p.dst = some res ∧
    res.quenching = false ∧
    (s.tile t).ev.ctx? p.asid p.lgen res.ltn = some c ∧
    (∀ (e : Event), e ∈ es → (s.tile t).ev.owns (e.idx / 16384) p.asid p.lgen = true) ∧
    es = [e] ∧
    (e.idx < c.first ∨ c.first + c.count ≤ e.idx) :=
  ⟨(ev (fun e => { e with ctxs := [ectx] }) (packet (arrived 0 (.events [anEvent 3 4])) demo)), 50, 0, (arrived 0 (.events [anEvent 3 4])), [anEvent 3 4], ectx, (resid 0), (anEvent 3 4), wit_arrives _ _ _ _ (by decide +kernel), by decide +kernel⟩

theorem witness_EventEngineRuns_tick : ∃ (s : State) (t : Nat) (r : EvRun) (c : EvCtx),
    (s.tile t).ev.tick = none ∧
    s.currentRun t = some r ∧
    (s.tile t).ev.ctx? r.asid r.lgen r.ltn = some c :=
  ⟨(ev (fun e => { e with ctxs := [ectx], runs := [run], queue := [(gangKey 5 7, anEvent 3 1)], acc := [(1, 5)] }) demo), 0, run, ectx, by decide +kernel⟩

theorem witness_EventEngineRuns_retry : ∃ (s : State) (s' : State) (t : Nat) (core : Nat) (r : TaskRec),
    (s.tile t).ev.hook = [(core, r)] ∧
    (∀ (k : EvTick), (s.tile t).ev.tick = some k → k.fired = []) ∧
    s.push t core r = Push.done s' :=
  ⟨(ev (fun e => { e with hook := [(0, { task with hook := true })] }) demo), (match (ev (fun e => { e with hook := [(0, { task with hook := true })] }) demo).push 0 0 { task with hook := true } with
| .done s => s
| _ => demo), 0, 0, { task with hook := true }, by decide +kernel, (by intro k h; cases (show (none : Option EvTick) = some k from h)), rfl⟩

-- resilience, system software
theorem witness_TandemPairs_couples : ∃ (s : State) (p : Pfx) (m : Nat) (n : Nat) (c : Nat) (t : Nat) (rest : List Nat),
    s.guardHolds p = true ∧
    s.thr.loc = Loc.slot t c n ∧
    2 ≤ n ∧
    s.thr.tandem = none ∧
    s.freeSlots t (pairCore c) = m :: rest :=
  ⟨demo, Pfx.none, 2, 2, 0, 0, [3, 4, 5, 6, 7, 8, 9, 10, 11, 12, 13, 14, 15], by decide +kernel⟩

theorem witness_TandemPairs_couplesOdd : ∃ (s : State) (p : Pfx) (m : Nat) (n : Nat) (c : Nat) (t : Nat) (rest : List Nat),
    s.guardHolds p = true ∧
    s.thr.loc = Loc.slot t c n ∧
    2 ≤ n ∧
    s.thr.tandem = none ∧
    s.freeSlots t (pairCore c) = m :: rest :=
  ⟨(thr (fun th => { th with loc := .slot 0 1 5 }) demo), Pfx.none, 2, 5, 1, 0, [3, 4, 5, 6, 7, 8, 9, 10, 11, 12, 13, 14, 15], by decide +kernel⟩

theorem witness_TandemPairs_couplesLow : ∃ (s : State) (p : Pfx) (m : Nat) (n : Nat) (c : Nat) (t : Nat) (rest : List Nat),
    s.guardHolds p = true ∧
    s.thr.loc = Loc.slot t c n ∧
    2 ≤ n ∧
    s.thr.tandem = none ∧
    s.freeSlots t (pairCore c) = m :: rest :=
  ⟨(thr (fun th => { th with loc := .slot 0 1 2 }) demo), Pfx.none, 2, 2, 1, 0, [3, 4, 5, 6, 7, 8, 9, 10, 11, 12, 13, 14, 15], by decide +kernel⟩

theorem witness_TandemPairs_waits : ∃ (s : State) (p : Pfx) (n : Nat) (c : Nat) (t : Nat),
    s.guardHolds p = true ∧
    s.thr.loc = Loc.slot t c n ∧
    2 ≤ n ∧
    s.thr.tandem = none ∧
    s.freeSlots t (pairCore c) = [] :=
  ⟨{ demo with others := (List.range 14).map fun n => { fellow (.slot 0 1 (n + 2)) none with id := n + 2 } }, Pfx.none, 2, 0, 0, by decide +kernel⟩

theorem witness_TandemPairs_uncouples : ∃ (s : State) (p : Pfx) (f : Tandem),
    s.guardHolds p = true ∧
    2 ≤ s.thr.loc.slotNo ∧
    s.thr.tandem = some f ∧
    s.thr.intervalOpen = false :=
  ⟨(thr (fun th => { th with tandem := some tandem }) demo), Pfx.none, tandem, by decide +kernel⟩

theorem witness_TandemPairs_tchk : ∃ (s : State) (p : Pfx),
    s.guardHolds p = true ∧
    s.thr.intervalOpen = false :=
  ⟨demo, Pfx.none, by decide +kernel⟩

theorem witness_TandemPairs_tchkOpen : ∃ (s : State) (p : Pfx),
    s.guardHolds p = true ∧
    s.thr.intervalOpen = true :=
  ⟨(thr (fun th => { th with tandem := some { tandem with count := 1 } }) demo), Pfx.none, by decide +kernel⟩

theorem witness_TandemPairs_agree : ∃ (s : State) (x : Thread) (f : Tandem),
    s.thread? x.id = some x ∧
    x.tandem = some f ∧
    x.loc.inSlot = true ∧
    x.park = some Park.follower ∧
    (List.map (fun th => th.id) s.threads).Nodup ∧
    f.leadFp = f.followFp ∧
    (∀ (va : VAddr), x.after ≠ some (Park.fault va)) :=
  ⟨(other (coupled fun t => { t with count := 3 }) demo), (coupled fun t => { t with count := 3 }), { tandem with count := 3 }, by decide +kernel, by decide +kernel, by decide +kernel, by decide +kernel, ⟨by decide +kernel, by decide +kernel, (fun va h => by cases (show (none : Option Park) = some (.fault va) from h))⟩⟩

theorem witness_TandemPairs_differ : ∃ (s : State) (x : Thread) (f : Tandem),
    s.thread? x.id = some x ∧
    x.tandem = some f ∧
    x.loc.inSlot = true ∧
    x.park = some Park.follower ∧
    (List.map (fun th => th.id) s.threads).Nodup ∧
    f.leadFp ≠ f.followFp ∧
    f.vector = false ∧
    f.missed = false :=
  ⟨(other (coupled fun t => { t with count := 3, leadFp := 5 }) demo), (coupled fun t => { t with count := 3, leadFp := 5 }), { tandem with count := 3, leadFp := 5 }, by decide +kernel⟩

theorem witness_CommitsProceed_request : ∃ (s : State) (t : Nat) (g : Nat) (x : Gang) (run : CommitRun),
    s.gang? (g / 65536) (g % 65536) = some x ∧
    x.commit = some run ∧
    t ∈ run.todo ∧
    (s.tile t).phaseOf g = none :=
  ⟨(committing commitRun (tile (fun x => { x with slice := [roundSuper] }) demo)), 0, (gangKey 5 7), { gang with commit := some commitRun, mir := true }, commitRun, by decide +kernel⟩

theorem witness_CommitsProceed_mirror : ∃ (s : State) (t : Nat) (g : Nat) (x : Gang) (run : CommitRun) (f : Phase) (name : Ltn) (w : Nat) (q : Packet),
    s.gang? (g / 65536) (g % 65536) = some x ∧
    x.commit = some run ∧
    (s.tile t).phaseOf g = some f ∧
    f.sent = false ∧
    (x.mir || f.full) = true ∧
    s.mirrorName t g = name ∧
    s.shadowSite t name = some w ∧
    s.mirrorPacket t g = some q ∧
    q.pos = Pos.arrived w :=
  ⟨(packet mirrorPk (mirrored (committing commitRun (tile (fun x => { x with phase := [phase] }) demo)))), 0, (gangKey 5 7), { gang with commit := some commitRun, mir := true }, commitRun, phase, 0, 2304, mirrorPk, by decide +kernel⟩

theorem witness_CommitsProceed_unmirrored : ∃ (s : State) (t : Nat) (g : Nat) (x : Gang) (run : CommitRun) (f : Phase) (name : Ltn),
    s.gang? (g / 65536) (g % 65536) = some x ∧
    x.commit = some run ∧
    (s.tile t).phaseOf g = some f ∧
    f.sent = false ∧
    (x.mir || f.full) = true ∧
    s.mirrorName t g = name ∧
    s.shadowSite t name = none :=
  ⟨(committing commitRun (tile (fun x => { x with phase := [phase] }) demo)), 0, (gangKey 5 7), { gang with commit := some commitRun, mir := true }, commitRun, phase, 0, by decide +kernel⟩

theorem witness_CommitsProceed_ack : ∃ (s : State) (t : Nat) (g : Nat) (x : Gang) (run : CommitRun) (f : Phase),
    s.gang? (g / 65536) (g % 65536) = some x ∧
    x.commit = some run ∧
    (s.tile t).phaseOf g = some f ∧
    f.sent = true :=
  ⟨(committing commitRun (tile (fun x => { x with phase := [{ phase with sent := true }] }) demo)), 0, (gangKey 5 7), { gang with commit := some commitRun, mir := true }, commitRun, { phase with sent := true }, by decide +kernel⟩

theorem witness_CommitsProceed_report : ∃ (s : State) (t : Nat) (g : Nat) (x : Gang) (run : CommitRun) (f : Phase),
    s.gang? (g / 65536) (g % 65536) = some x ∧
    x.commit = some run ∧
    (s.tile t).phaseOf g = some f ∧
    t ∈ run.todo ∧
    ((x.mir || f.full) = true → f.acked = true) ∧
    x.order = none ∧
    x.stopped = false ∧
    (∃ w, w ∈ run.todo ∧ w ≠ t) :=
  ⟨(committing commitRun (tile (fun x => { x with phase := [{ phase with sent := true, acked := true }] }) demo)), 0, (gangKey 5 7), { gang with commit := some commitRun, mir := true }, commitRun, { phase with sent := true, acked := true }, by decide +kernel⟩

theorem witness_CommitsProceed_point : ∃ (s : State) (t : Nat) (g : Nat) (x : Gang) (run : CommitRun) (f : Phase),
    s.gang? (g / 65536) (g % 65536) = some x ∧
    x.commit = some run ∧
    (s.tile t).phaseOf g = some f ∧
    t ∈ run.todo ∧
    ((x.mir || f.full) = true → f.acked = true) ∧
    x.order = none ∧
    x.stopped = false ∧
    (∀ (w : Nat), w ∈ run.todo → w = t) :=
  ⟨(committing { commitRun with todo := [0] } (tile (fun x => { x with phase := [{ phase with sent := true, acked := true }], undo := [{ asid := 5, lgen := 7, stk := 3, kind := 0, addr := 0, block := { base := 0, data := [], tags := [], full := [], psn := [] } }] }) demo)), 0, (gangKey 5 7), { gang with commit := some { commitRun with todo := [0] }, mir := true }, { commitRun with todo := [0] }, { phase with sent := true, acked := true }, by decide +kernel⟩

theorem witness_RollbacksProceed_rcmt : ∃ (s : State) (p : Pfx) (a : RegNo) (g : Nat) (asid : Nat) (lgen : Nat) (x : Gang),
    s.guardHolds p = true ∧
    s.thr.priv ≠ 0 ∧
    g = cmdGang (s.x a) ∧
    asid = g / 65536 ∧
    lgen = g % 65536 ∧
    cmdBad (s.x a) 0 = false ∧
    s.gang? asid lgen = some x ∧
    x.commit = none ∧
    s.mayCommit asid lgen = true :=
  ⟨(system demo), Pfx.none, 2, (gangKey 5 7), 5, 7, gang, by decide +kernel⟩

theorem witness_RollbacksProceed_rcmtNot : ∃ (s : State) (p : Pfx) (a : RegNo) (g : Nat) (asid : Nat) (lgen : Nat),
    s.guardHolds p = true ∧
    s.thr.priv ≠ 0 ∧
    g = cmdGang (s.x a) ∧
    asid = g / 65536 ∧
    lgen = g % 65536 ∧
    cmdBad (s.x a) 0 = false ∧
    (s.gang? asid lgen = none ∨ (∃ x, s.gang? asid lgen = some x ∧ x.commit ≠ none) ∨ s.mayCommit asid lgen = false) :=
  ⟨(other (fellow (.slot 0 0 3) none) (system demo)), Pfx.none, 2, (gangKey 5 7), 5, 7, by decide +kernel⟩

theorem witness_RollbacksProceed_rbak : ∃ (s : State) (p : Pfx) (a : RegNo) (g : Nat) (asid : Nat) (lgen : Nat),
    s.guardHolds p = true ∧
    s.thr.priv ≠ 0 ∧
    g = cmdGang (s.x a) ∧
    asid = g / 65536 ∧
    lgen = g % 65536 ∧
    cmdBad (s.x a) 1 = false ∧
    (s.gang? asid lgen).isSome = true ∧
    s.gangNrb asid lgen = false :=
  ⟨(system demo), Pfx.none, 2, (gangKey 5 7), 5, 7, by decide +kernel⟩

theorem witness_RollbacksProceed_rbakNot : ∃ (s : State) (p : Pfx) (a : RegNo) (g : Nat) (asid : Nat) (lgen : Nat),
    s.guardHolds p = true ∧
    s.thr.priv ≠ 0 ∧
    g = cmdGang (s.x a) ∧
    asid = g / 65536 ∧
    lgen = g % 65536 ∧
    cmdBad (s.x a) 1 = false ∧
    (s.gang? asid lgen = none ∨ s.gangNrb asid lgen = true) :=
  ⟨(system (tile (fun x => { x with resid := [{ resid 0 with nrb := true }] }) demo)), Pfx.none, 2, (gangKey 5 7), 5, 7, by decide +kernel⟩

theorem witness_RollbacksProceed_stops : ∃ (s : State) (g : Nat) (asid : Nat) (lgen : Nat) (x : Gang),
    asid = g / 65536 ∧
    lgen = g % 65536 ∧
    s.gang? asid lgen = some x ∧
    s.rollbackDue g x = true ∧
    x.stopped = false :=
  ⟨(withGang (fun g => { g with order := some .rollback }) (other (fellow (.slot 0 0 3) none) demo)), (gangKey 5 7), 5, 7, { gang with order := some .rollback }, by decide +kernel⟩

theorem witness_RollbacksProceed_returns : ∃ (s : State) (g : Nat) (asid : Nat) (lgen : Nat) (x : Gang),
    asid = g / 65536 ∧
    lgen = g % 65536 ∧
    s.gang? asid lgen = some x ∧
    s.rollbackDue g x = true ∧
    x.stopped = true ∧
    s.inFlight asid lgen = false ∧
    s.recoverable asid lgen = true :=
  ⟨(withGang (fun g => { g with order := some .rollback, stopped := true }) (tile (fun x => { x with commits := [items], slice := [roundSuper], undo := [{ asid := 5, lgen := 7, stk := 3, kind := 0, addr := 0, block := { base := 0, data := [], tags := [], full := [], psn := [] } }] }) (system demo))), (gangKey 5 7), 5, 7, { gang with order := some .rollback, stopped := true }, by decide +kernel⟩

theorem witness_SystemSlots_halt : ∃ (s : State) (p : Pfx),
    s.guardHolds p = true ∧
    s.thr.priv ≠ 0 ∧
    (s.module (siteModule s.tileNo)).evTail + 1 ≠ (s.module (siteModule s.tileNo)).evHead :=
  ⟨(system demo), Pfx.none, by decide +kernel⟩

theorem witness_SystemSlots_wfi : ∃ (s : State) (p : Pfx),
    s.guardHolds p = true ∧
    s.thr.priv ≠ 0 ∧
    s.wakeHolds s.thr.loc = true :=
  ⟨(tile (fun x => { x with trapq := [trapRec] }) (thr (fun th => { th with loc := .slot 0 8 1 }) (system demo))), Pfx.none, by decide +kernel⟩

theorem witness_SystemSlots_wfiWaits : ∃ (s : State) (p : Pfx),
    s.guardHolds p = true ∧
    s.thr.priv ≠ 0 ∧
    s.wakeHolds s.thr.loc = false :=
  ⟨(thr (fun th => { th with loc := .slot 0 8 1 }) (system demo)), Pfx.none, by decide +kernel⟩

theorem witness_SystemSlots_wake : ∃ (s : State) (x : Thread) (len : Nat),
    s.thread? x.id = some x ∧
    x.park = some (Park.wfi len) ∧
    s.wakeHolds x.loc = true ∧
    (List.map (fun th => th.id) s.threads).Nodup :=
  ⟨(tile (fun x => { x with trapq := [trapRec] }) (other (fellow (.slot 0 8 1) (some (.wfi 3))) demo)), (fellow (.slot 0 8 1) (some (.wfi 3))), 3, by decide +kernel⟩

theorem witness_GangsSaved_cxsv : ∃ (s : State) (p : Pfx) (a : RegNo) (g : Nat) (asid : Nat) (lgen : Nat),
    s.guardHolds p = true ∧
    s.thr.priv ≠ 0 ∧
    cmdBad (s.x a) 0 = false ∧
    g = cmdGang (s.x a) ∧
    asid = g / 65536 ∧
    lgen = g % 65536 ∧
    (s.gang? asid lgen).isSome = true ∧
    s.isPreempted asid lgen = false ∧
    s.preemptRequests g = [] :=
  ⟨(system demo), Pfx.none, 2, (gangKey 5 7), 5, 7, by decide +kernel⟩

theorem witness_GangsSaved_cxsvNot : ∃ (s : State) (p : Pfx) (a : RegNo) (g : Nat) (asid : Nat) (lgen : Nat),
    s.guardHolds p = true ∧
    s.thr.priv ≠ 0 ∧
    cmdBad (s.x a) 0 = false ∧
    g = cmdGang (s.x a) ∧
    asid = g / 65536 ∧
    lgen = g % 65536 ∧
    (s.gang? asid lgen = none ∨ s.isPreempted asid lgen = true ∨ s.preemptRequests g ≠ []) :=
  ⟨(system { demo with reqs := [.preempt 60 9 (gangKey 5 7)] }), Pfx.none, 2, (gangKey 5 7), 5, 7, by decide +kernel⟩

theorem witness_GangsSaved_cxld : ∃ (s : State) (p : Pfx) (a : RegNo) (g : Nat) (asid : Nat) (lgen : Nat) (x : Gang),
    s.guardHolds p = true ∧
    s.thr.priv ≠ 0 ∧
    cmdBad (s.x a) 0 = false ∧
    g = cmdGang (s.x a) ∧
    asid = g / 65536 ∧
    lgen = g % 65536 ∧
    s.gang? asid lgen = some x ∧
    s.mayRestore asid lgen x = true ∧
    (List.map (fun th => th.id) s.threads).Nodup ∧
    s.thr.inGang asid lgen = false :=
  ⟨(system (withGang (fun g => { g with saved := [(0, [0, 1, 2, 3])] }) (other (fellow (.saved 0) none) (demo.markPreempted 5 7 true)))), Pfx.none, 2, (gangKey 5 7), 5, 7, { gang with saved := [(0, [0, 1, 2, 3])] }, by decide +kernel⟩

theorem witness_GangsSaved_cxldNot : ∃ (s : State) (p : Pfx) (a : RegNo) (g : Nat) (asid : Nat) (lgen : Nat),
    s.guardHolds p = true ∧
    s.thr.priv ≠ 0 ∧
    cmdBad (s.x a) 0 = false ∧
    g = cmdGang (s.x a) ∧
    asid = g / 65536 ∧
    lgen = g % 65536 ∧
    (s.gang? asid lgen = none ∨ s.isPreempted asid lgen = false) :=
  ⟨(system demo), Pfx.none, 2, (gangKey 5 7), 5, 7, by decide +kernel⟩

theorem witness_GangsSaved_saved : ∃ (s : State) (g : Nat) (asid : Nat) (lgen : Nat) (x : Gang),
    asid = g / 65536 ∧
    lgen = g % 65536 ∧
    s.gang? asid lgen = some x ∧
    s.preemptDue g x = true ∧
    x.commit = none ∧
    x.stopped = false :=
  ⟨(system (other (fellow (.slot 0 0 3) none) { demo with reqs := [.preempt 60 9 (gangKey 5 7)] })), (gangKey 5 7), 5, 7, gang, by decide +kernel⟩

theorem witness_GangsSaved_notAtRest : ∃ (s : State) (g : Nat) (asid : Nat) (lgen : Nat) (x : Gang),
    asid = g / 65536 ∧
    lgen = g % 65536 ∧
    s.gang? asid lgen = some x ∧
    s.preemptDue g x = true ∧
    x.commit = none ∧
    x.stopped = false :=
  ⟨(system (other (fellowStores [entry 9 1 (.tile 0 8 0)]) { demo with reqs := [.preempt 60 9 (gangKey 5 7)] })), (gangKey 5 7), 5, 7, gang, by decide +kernel⟩

theorem witness_GangsEnded_qnch : ∃ (s : State) (p : Pfx) (a : RegNo) (g : Nat),
    s.guardHolds p = true ∧
    s.thr.priv ≠ 0 ∧
    cmdBad (s.x a) 0 = false ∧
    g = cmdGang (s.x a) ∧
    (s.gang? (g / 65536) (g % 65536)).isSome = true :=
  ⟨(system demo), Pfx.none, 2, (gangKey 5 7), by decide +kernel⟩

theorem witness_GangsEnded_qnchNot : ∃ (s : State) (p : Pfx) (a : RegNo) (g : Nat),
    s.guardHolds p = true ∧
    s.thr.priv ≠ 0 ∧
    cmdBad (s.x a) 0 = false ∧
    g = cmdGang (s.x a) ∧
    s.gang? (g / 65536) (g % 65536) = none :=
  ⟨(system { demo with gangs := [] }), Pfx.none, 2, (gangKey 5 7), by decide +kernel⟩

theorem witness_GangsEnded_ends : ∃ (s : State) (s' : State) (g : Nat) (asid : Nat) (lgen : Nat) (x : Gang),
    asid = g / 65536 ∧
    lgen = g % 65536 ∧
    s.gang? asid lgen = some x ∧
    s.quenchRequests g ≠ [] ∧
    x.order = none ∧
    x.stopped = false ∧
    s.rollbackDue g x = false ∧
    s.preemptRequests g = [] ∧
    s' = (s.markQuenching asid lgen).discardGang asid lgen :=
  ⟨(system (other (fellow (.slot 0 0 3) none) { demo with reqs := [.quench 60 9 (gangKey 5 7)] })), (((system (other (fellow (.slot 0 0 3) none) { demo with reqs := [.quench 60 9 (gangKey 5 7)] })).markQuenching 5 7).discardGang 5 7), (gangKey 5 7), 5, 7, gang, by decide +kernel⟩

theorem witness_GangsEnded_flying : ∃ (s : State) (s' : State) (g : Nat) (asid : Nat) (lgen : Nat) (x : Gang),
    asid = g / 65536 ∧
    lgen = g % 65536 ∧
    s.gang? asid lgen = some x ∧
    s.quenchRequests g ≠ [] ∧
    x.order = none ∧
    x.stopped = false ∧
    s.rollbackDue g x = false ∧
    s.preemptRequests g = [] ∧
    s' = (s.markQuenching asid lgen).discardGang asid lgen :=
  ⟨(packet (arrived 0 (.context 5)) (system { demo with reqs := [.quench 60 9 (gangKey 5 7)] })), (((packet (arrived 0 (.context 5)) (system { demo with reqs := [.quench 60 9 (gangKey 5 7)] })).markQuenching 5 7).discardGang 5 7), (gangKey 5 7), 5, 7, gang, by decide +kernel⟩

-- hosts, modules, losses
theorem witness_HostPorts_window : ∃ (s : State) (port : Nat) (w : Nat) (v : Word),
    w < 65536 ∧
    s.windowOk port v = true :=
  ⟨demo, 0, 7, winDesc, by decide +kernel⟩

theorem witness_HostPorts_badWindow : ∃ (s : State) (port : Nat) (w : Nat) (v : Word),
    s.windowOk port v = false :=
  ⟨demo, 0, 7, (winDesc + 1), by decide +kernel⟩

theorem witness_HostPorts_tooLong : ∃ (s : State) (port : Nat) (off : Nat) (data : List Byte) (relaxed : Bool),
    (data = [] ∨ 512 < data.length ∨ 2 ^ 37 < off + data.length) :=
  ⟨demo, 0, 0, (List.replicate 513 1), true, by decide +kernel⟩

theorem witness_HostPorts_tooLongRead : ∃ (s : State) (port : Nat) (off : Nat) (n : Nat),
    (n = 0 ∨ 4096 < n ∨ 2 ^ 37 < off + n) :=
  ⟨demo, 0, 0, 4097, by decide +kernel⟩

theorem witness_HostPorts_heldWindow : ∃ (s : State) (port : Nat) (off : Nat) (data : List Byte) (ps : List HostPiece) (relaxed : Bool),
    data ≠ [] ∧
    data.length ≤ 512 ∧
    off + data.length ≤ 2 ^ 37 ∧
    (s.port port).pieces off data.length data = ps ∧
    (∀ (r : HostReq), r ∈ (s.port port).ingress → r.id ≠ s.nextId) ∧
    (∀ (t : Nat) (r : SliceReq), r ∈ (s.tile t).sliceq → r.who ≠ s.nextId) ∧
    ((∃ p, p ∈ ps ∧ s.entryHeld p.desc = true) ∨ ∃ r, r ∈ (s.port port).ingress ∧ r.read = false) :=
  ⟨striped, 0, 8, [1, 2], [{ desc := stripeDesc, off := 8, n := 2, data := [1, 2] }], false, by decide +kernel, by decide +kernel, by decide +kernel, by decide +kernel, ⟨by decide +kernel, (wit_noRequests _ _ (by decide +kernel)), by decide +kernel⟩⟩

theorem witness_HostPorts_queued : ∃ (s : State) (port : Nat) (off : Nat) (data : List Byte) (ps : List HostPiece) (relaxed : Bool),
    data ≠ [] ∧
    data.length ≤ 512 ∧
    off + data.length ≤ 2 ^ 37 ∧
    (s.port port).pieces off data.length data = ps ∧
    (∀ (r : HostReq), r ∈ (s.port port).ingress → r.id ≠ s.nextId) ∧
    (∀ (t : Nat) (r : SliceReq), r ∈ (s.tile t).sliceq → r.who ≠ s.nextId) ∧
    ((∃ p, p ∈ ps ∧ s.entryHeld p.desc = true) ∨ ∃ r, r ∈ (s.port port).ingress ∧ r.read = false) :=
  ⟨(port (fun p => { p with ingress := [{ id := 60, read := false, relaxed := false, pieces := [] }] }) demo), 0, 126, [1, 2, 3, 4], [{ desc := winDesc, off := 126, n := 2, data := [1, 2] }, { desc := winDesc, off := 128, n := 2, data := [3, 4] }], true, by decide +kernel, by decide +kernel, by decide +kernel, by decide +kernel, ⟨by decide +kernel, (wit_noRequests _ _ (by decide +kernel)), by decide +kernel⟩⟩

theorem witness_HostPorts_ordered : ∃ (s : State) (port : Nat) (off : Nat) (data : List Byte) (ps : List HostPiece) (hs : List (Nat × Nat)),
    data ≠ [] ∧
    data.length ≤ 512 ∧
    off + data.length ≤ 2 ^ 37 ∧
    (s.port port).pieces off data.length data = ps ∧
    (∀ (r : HostReq), r ∈ (s.port port).ingress → r.id ≠ s.nextId) ∧
    (∀ (t : Nat) (r : SliceReq), r ∈ (s.tile t).sliceq → r.who ≠ s.nextId) ∧
    (∀ (p : HostPiece), p ∈ ps → s.entryHeld p.desc = false) ∧
    (∀ (r : HostReq), r ∈ (s.port port).ingress → r.read = true) ∧
    s.pieceHomes ps = some hs :=
  ⟨(port id demo), 0, 126, [1, 2, 3, 4], [{ desc := winDesc, off := 126, n := 2, data := [1, 2] }, { desc := winDesc, off := 128, n := 2, data := [3, 4] }], [(0, vaultKey 0 0x20007E), (0, vaultKey 0 0x200080)], by decide +kernel, by decide +kernel, by decide +kernel, by decide +kernel, ⟨by decide +kernel, (wit_noRequests _ _ (by decide +kernel)), by decide +kernel⟩⟩

theorem witness_HostPorts_relaxedBehind : ∃ (s : State) (port : Nat) (off : Nat) (data : List Byte) (ps : List HostPiece) (hs : List (Nat × Nat)),
    data ≠ [] ∧
    data.length ≤ 512 ∧
    off + data.length ≤ 2 ^ 37 ∧
    (s.port port).pieces off data.length data = ps ∧
    (∀ (r : HostReq), r ∈ (s.port port).ingress → r.id ≠ s.nextId) ∧
    (∀ (t : Nat) (r : SliceReq), r ∈ (s.tile t).sliceq → r.who ≠ s.nextId) ∧
    (∀ (p : HostPiece), p ∈ ps → s.entryHeld p.desc = false) ∧
    (∀ (r : HostReq), r ∈ (s.port port).ingress → r.read = true) ∧
    s.pieceHomes ps = some hs ∧
    (∃ w, w ∈ (s.port port).held ∧ ∃ h, h ∈ hs ∧ s.heldAt w = some h.fst) :=
  ⟨(port (fun p => { p with held := [heldWrite], mark := 1, seq := 1 }) demo), 0, 126, [1, 2, 3, 4], [{ desc := winDesc, off := 126, n := 2, data := [1, 2] }, { desc := winDesc, off := 128, n := 2, data := [3, 4] }], [(0, vaultKey 0 0x20007E), (0, vaultKey 0 0x200080)], by decide +kernel, by decide +kernel, by decide +kernel, by decide +kernel, ⟨by decide +kernel, (wit_noRequests _ _ (by decide +kernel)), by decide +kernel⟩⟩

theorem witness_HostPorts_relaxed : ∃ (s : State) (port : Nat) (off : Nat) (data : List Byte) (ps : List HostPiece) (hs : List (Nat × Nat)) (p : HostPiece) (t : Nat) (pa : Nat),
    data ≠ [] ∧
    data.length ≤ 512 ∧
    off + data.length ≤ 2 ^ 37 ∧
    (s.port port).pieces off data.length data = ps ∧
    (∀ (r : HostReq), r ∈ (s.port port).ingress → r.id ≠ s.nextId) ∧
    (∀ (t : Nat) (r : SliceReq), r ∈ (s.tile t).sliceq → r.who ≠ s.nextId) ∧
    (∀ (p : HostPiece), p ∈ ps → s.entryHeld p.desc = false) ∧
    (∀ (r : HostReq), r ∈ (s.port port).ingress → r.read = true) ∧
    s.pieceHomes ps = some hs ∧
    ps = [p] ∧
    hs = [(t, pa)] ∧
    (∀ (w : HeldWrite), w ∈ (s.port port).held → s.heldAt w ≠ some t) ∧
    isVaultKey pa = true ∧
    s.writeWaits s.nextId noGang 0 pa p.n = none ∧
    (∀ (z : Super), z ∈ (s.tile (keySite pa)).slice → ∀ (l : Line), l ∈ z.lines → l.dirty = false → l.old = none) :=
  ⟨(port id demo), 0, 8, [1, 2, 3, 4], [{ desc := winDesc, off := 8, n := 4, data := [1, 2, 3, 4] }], [(0, vaultKey 0 0x200008)], { desc := winDesc, off := 8, n := 4, data := [1, 2, 3, 4] }, 0, (vaultKey 0 0x200008), by decide +kernel, by decide +kernel, by decide +kernel, by decide +kernel, ⟨by decide +kernel, (wit_noRequests _ _ (by decide +kernel)), by decide +kernel⟩⟩

theorem witness_HostPorts_unmapped : ∃ (s : State) (port : Nat) (off : Nat) (data : List Byte) (ps : List HostPiece) (relaxed : Bool),
    data ≠ [] ∧
    data.length ≤ 512 ∧
    off + data.length ≤ 2 ^ 37 ∧
    (s.port port).pieces off data.length data = ps ∧
    (∀ (r : HostReq), r ∈ (s.port port).ingress → r.id ≠ s.nextId) ∧
    (∀ (t : Nat) (r : SliceReq), r ∈ (s.tile t).sliceq → r.who ≠ s.nextId) ∧
    (∀ (p : HostPiece), p ∈ ps → s.entryHeld p.desc = false) ∧
    (∀ (r : HostReq), r ∈ (s.port port).ingress → r.read = true) ∧
    s.pieceHomes ps = none :=
  ⟨demo, 0, 8, [1, 2, 3, 4], [{ desc := 0, off := 8, n := 4, data := [1, 2, 3, 4] }], false, by decide +kernel, by decide +kernel, by decide +kernel, by decide +kernel, ⟨by decide +kernel, (wit_noRequests _ _ (by decide +kernel)), by decide +kernel⟩⟩

theorem witness_HostPorts_nothingHeld : ∃ (s : State) (port : Nat) (home : Nat) (mark : Nat),
    ((s.port port).mark < mark ∨ ∀ (w : HeldWrite), w ∈ (s.port port).held → (s.heldAt w).getD home ≠ home) :=
  ⟨(port id demo), 0, 0, 0, by decide +kernel⟩

theorem witness_HostPorts_notCovered : ∃ (s : State) (port : Nat) (home : Nat) (mark : Nat),
    ((s.port port).mark < mark ∨ ∀ (w : HeldWrite), w ∈ (s.port port).held → (s.heldAt w).getD home ≠ home) :=
  ⟨(port (fun p => { p with held := [heldWrite], mark := 1, seq := 1 }) demo), 0, 0, 2, by decide +kernel⟩

theorem witness_HostPorts_early : ∃ (s : State) (port : Nat) (home : Nat) (mark : Nat) (w : HeldWrite),
    mark ≤ (s.port port).mark ∧
    List.find? (fun w => decide ((s.heldAt w).getD home = home)) (s.port port).held = some w ∧
    (s.entryHeld w.desc = true ∨
      w.relaxed = false ∧ (mark < w.seq ∨ ∃ o, List.find? (fun o => !o.relaxed) (s.port port).held = some o ∧ o.id ≠ w.id)) :=
  ⟨(port (fun p => { p with held := [{ heldWrite with seq := 2 }], mark := 2, seq := 2 }) demo), 0, 0, 1, { heldWrite with seq := 2 }, by decide +kernel, by decide +kernel, (.inr ⟨rfl, .inl (by decide)⟩)⟩

theorem witness_HostPorts_elsewhere : ∃ (s : State) (port : Nat) (home : Nat) (mark : Nat) (w : HeldWrite),
    mark ≤ (s.port port).mark ∧
    List.find? (fun w => decide ((s.heldAt w).getD home = home)) (s.port port).held = some w ∧
    (s.entryHeld w.desc = true ∨
      w.relaxed = false ∧ (mark < w.seq ∨ ∃ o, List.find? (fun o => !o.relaxed) (s.port port).held = some o ∧ o.id ≠ w.id)) :=
  ⟨(port (fun p => { p with windows := [(0, winDesc)], held := [{ heldWrite with id := 69, desc := winDesc + 2 ^ 32 }, heldWrite], mark := 2, seq := 2 }) demo), 0, 0, 1, heldWrite, by decide +kernel, by decide +kernel, (.inr ⟨rfl, .inr ⟨{ heldWrite with id := 69, desc := winDesc + 2 ^ 32 }, by decide +kernel, by decide⟩⟩)⟩

theorem witness_HostPorts_missing : ∃ (s : State) (port : Nat) (home : Nat) (mark : Nat) (w : HeldWrite) (pa : Nat) (k : Park),
    mark ≤ (s.port port).mark ∧
    List.find? (fun w => decide ((s.heldAt w).getD home = home)) (s.port port).held = some w ∧
    s.entryHeld w.desc = false ∧
    (w.relaxed = true ∨ w.seq ≤ mark ∧ ∃ o, List.find? (fun o => !o.relaxed) (s.port port).held = some o ∧ o.id = w.id) ∧
    s.entryHome w.desc w.off = some (home, pa) ∧
    s.writeWaits w.id noGang 0 pa w.data.length = some k :=
  ⟨((port (fun p => { p with held := [heldWrite], mark := 2, seq := 2 }) demo).modTile 0 fun x => { x with slice := [] }), 0, 0, 1, heldWrite, (vaultKey 0 0x200008), (.fill 0 (superOf 0x200008)), by decide +kernel, by decide +kernel, by decide +kernel, (.inr ⟨by decide, heldWrite, by decide +kernel, rfl⟩), by decide +kernel⟩

theorem witness_HostPorts_watermark : ∃ (s : State) (port : Nat) (home : Nat) (mark : Nat) (w : HeldWrite) (pa : Nat),
    mark ≤ (s.port port).mark ∧
    List.find? (fun w => decide ((s.heldAt w).getD home = home)) (s.port port).held = some w ∧
    s.entryHeld w.desc = false ∧
    (w.relaxed = true ∨ w.seq ≤ mark ∧ ∃ o, List.find? (fun o => !o.relaxed) (s.port port).held = some o ∧ o.id = w.id) ∧
    s.entryHome w.desc w.off = some (home, pa) ∧
    isVaultKey pa = true ∧
    s.writeWaits w.id noGang 0 pa w.data.length = none ∧
    (∀ (z : Super), z ∈ (s.tile (keySite pa)).slice → ∀ (l : Line), l ∈ z.lines → l.dirty = false → l.old = none) :=
  ⟨(port (fun p => { p with held := [heldWrite], mark := 2, seq := 2 }) demo), 0, 0, 1, heldWrite, (vaultKey 0 0x200008), by decide +kernel, by decide +kernel, by decide +kernel, (.inr ⟨by decide, heldWrite, by decide +kernel, rfl⟩), by decide +kernel⟩

theorem witness_HostPorts_noHome : ∃ (s : State) (port : Nat) (home : Nat) (mark : Nat) (w : HeldWrite),
    mark ≤ (s.port port).mark ∧
    List.find? (fun w => decide ((s.heldAt w).getD home = home)) (s.port port).held = some w ∧
    s.entryHeld w.desc = false ∧
    (w.relaxed = true ∨ w.seq ≤ mark ∧ ∃ o, List.find? (fun o => !o.relaxed) (s.port port).held = some o ∧ o.id = w.id) ∧
    s.entryHome w.desc w.off = none :=
  ⟨(port (fun p => { p with held := [{ heldWrite with desc := 0 }], mark := 2, seq := 2 }) demo), 0, 0, 1, { heldWrite with desc := 0 }, by decide +kernel, by decide +kernel, by decide +kernel, (.inr ⟨by decide, { heldWrite with desc := 0 }, by decide +kernel, rfl⟩), by decide +kernel⟩

theorem witness_HostPorts_readQueued : ∃ (s : State) (port : Nat) (off : Nat) (n : Nat) (ps : List HostPiece),
    0 < n ∧
    n ≤ 4096 ∧
    off + n ≤ 2 ^ 37 ∧
    (s.port port).pieces off n [] = ps ∧
    (∀ (r : HostReq), r ∈ (s.port port).ingress → r.id ≠ s.nextId) ∧
    (∀ (t : Nat) (r : SliceReq), r ∈ (s.tile t).sliceq → r.who ≠ s.nextId) ∧
    ((∃ p, p ∈ ps ∧ s.entryHeld p.desc = true) ∨ ∃ r, r ∈ (s.port port).ingress ∧ r.read = false) :=
  ⟨(port (fun p => { p with ingress := [{ id := 60, read := false, relaxed := false, pieces := [] }] }) demo), 0, 126, 4, [{ desc := winDesc, off := 126, n := 2, data := [] }, { desc := winDesc, off := 128, n := 2, data := [] }], by decide +kernel, by decide +kernel, by decide +kernel, by decide +kernel, ⟨by decide +kernel, (wit_noRequests _ _ (by decide +kernel)), by decide +kernel⟩⟩

theorem witness_HostPorts_read : ∃ (s : State) (port : Nat) (off : Nat) (n : Nat) (ps : List HostPiece) (hs : List (Nat × Nat)) (qs : List (Nat × Nat)),
    0 < n ∧
    n ≤ 4096 ∧
    off + n ≤ 2 ^ 37 ∧
    (s.port port).pieces off n [] = ps ∧
    (∀ (r : HostReq), r ∈ (s.port port).ingress → r.id ≠ s.nextId) ∧
    (∀ (t : Nat) (r : SliceReq), r ∈ (s.tile t).sliceq → r.who ≠ s.nextId) ∧
    (∀ (p : HostPiece), p ∈ ps → s.entryHeld p.desc = false) ∧
    (∀ (r : HostReq), r ∈ (s.port port).ingress → r.read = true) ∧
    s.pieceHomes ps = some hs ∧
    List.map (fun x => (x.fst.snd, x.snd.n)) (hs.zip ps) = qs ∧
    (s.port port).held = [] ∧
    (∀ (q : Nat × Nat), q ∈ qs → s.readWaits s.nextId q.fst q.snd = none) :=
  ⟨(port id demo), 0, 126, 4, [{ desc := winDesc, off := 126, n := 2, data := [] }, { desc := winDesc, off := 128, n := 2, data := [] }], [(0, vaultKey 0 0x20007E), (0, vaultKey 0 0x200080)], [(vaultKey 0 0x20007E, 2), (vaultKey 0 0x200080, 2)], by decide +kernel, by decide +kernel, by decide +kernel, by decide +kernel, ⟨by decide +kernel, (wit_noRequests _ _ (by decide +kernel)), by decide +kernel⟩⟩

theorem witness_HostPorts_unsupported : ∃ (s : State) (port : Nat) (off : Nat) (n : Nat) (ps : List HostPiece),
    0 < n ∧
    n ≤ 4096 ∧
    off + n ≤ 2 ^ 37 ∧
    (s.port port).pieces off n [] = ps ∧
    (∀ (r : HostReq), r ∈ (s.port port).ingress → r.id ≠ s.nextId) ∧
    (∀ (t : Nat) (r : SliceReq), r ∈ (s.tile t).sliceq → r.who ≠ s.nextId) ∧
    (∀ (p : HostPiece), p ∈ ps → s.entryHeld p.desc = false) ∧
    (∀ (r : HostReq), r ∈ (s.port port).ingress → r.read = true) ∧
    s.pieceHomes ps = none :=
  ⟨demo, 0, 8, 4, [{ desc := 0, off := 8, n := 4, data := [] }], by decide +kernel, by decide +kernel, by decide +kernel, by decide +kernel, ⟨by decide +kernel, (wit_noRequests _ _ (by decide +kernel)), by decide +kernel⟩⟩

theorem witness_HostPorts_completion : ∃ (s : State) (port : Nat) (pk : Nat) (p : Packet) (th : Nat) (n : Nat) (va : VAddr) (hpa : Nat) (t : Nat) (ok : Bool) (data : BitVec 128),
    s.packet? pk = some p ∧
    p.id = pk ∧
    pk < s.nextId ∧
    p.body = Payload.hostLoad th n va port hpa ∧
    p.pos = Pos.arrived t :=
  ⟨(packet hostRead demo), 0, 50, hostRead, 2, 8, 0x20008, 0x1000, 0, true, 77, by decide +kernel⟩

theorem witness_LaunchSlots_record : ∃ (s : State) (port : Nat) (slot : Nat) (byte : Nat) (v : Byte),
    slot < 16 ∧
    byte < 256 ∧
    (s.port port).slotState slot = 0 :=
  ⟨(launch 7 0), 0, 3, 255, 9, by decide +kernel⟩

theorem witness_LaunchSlots_busy : ∃ (s : State) (port : Nat) (slot : Nat) (byte : Nat) (v : Byte) (w : Word),
    slot < 16 ∧
    (s.port port).slotState slot ≠ 0 :=
  ⟨(launch 7 3), 0, 3, 255, 9, 9, by decide +kernel⟩

theorem witness_LaunchSlots_arm : ∃ (s : State) (port : Nat) (slot : Nat) (w : Word),
    slot < 16 ∧
    BitVec.getLsbD w 63 = true ∧
    (s.port port).slotState slot = 0 :=
  ⟨(launch 7 0), 0, 3, (BitVec.ofNat 64 (2 ^ 63 + 9)), by decide +kernel⟩

theorem witness_LaunchSlots_free : ∃ (s : State) (port : Nat) (slot : Nat),
    slot < 16 ∧
    3 ≤ (s.port port).slotState slot :=
  ⟨(launch 7 4), 0, 3, by decide +kernel⟩

theorem witness_LaunchSlots_launching : ∃ (s : State) (port : Nat) (slot : Nat) (rest : List Nat),
    slot < 16 ∧
    (s.port port).armed = slot :: rest ∧
    (s.port port).writesOut = false ∧
    (s.port port).slotState slot = 1 :=
  ⟨(launch 7 1), 0, 3, [], by decide +kernel⟩

theorem witness_LaunchSlots_refused : ∃ (s : State) (port : Nat) (slot : Nat) (rest : List Nat) (n : Nat),
    slot < 16 ∧
    (s.port port).armed = slot :: rest ∧
    (s.port port).writesOut = false ∧
    n < 16 ∧
    (s.port port).slotState slot = 2 ∧
    s.refusal port ((s.port port).record slot) = some n :=
  ⟨(launch 6 2), 0, 3, [], 1, by decide +kernel⟩

theorem witness_LaunchSlots_launched : ∃ (s : State) (port : Nat) (slot : Nat) (rest : List Nat),
    slot < 16 ∧
    (s.port port).armed = slot :: rest ∧
    (s.port port).writesOut = false ∧
    (s.port port).slotState slot = 2 ∧
    s.refusal port ((s.port port).record slot) = none :=
  ⟨(launch 7 2), 0, 3, [], by decide +kernel⟩

theorem witness_ModuleController_boot : ∃ (s : State) (m : Nat),
    (s.module m).refused = false ∧
    (s.module m).phase = 0 :=
  ⟨demo, 0, by decide +kernel⟩

theorem witness_ModuleController_refused : ∃ (s : State) (m : Nat),
    (s.module m).refused = true :=
  ⟨(demo.modModule 0 fun m => { m with refused := true }), 0, by decide +kernel⟩

theorem witness_ModuleController_image : ∃ (s : State) (m : Nat) (k : Nat),
    (s.module m).refused = false ∧
    k < 2 ∧
    (s.module m).phase = k + 1 ∧
    k < (s.module m).mrs.length :=
  ⟨(demo.modModule 0 fun m => { m with phase := 2 }), 0, 1, by decide +kernel⟩

theorem witness_ModuleController_image0 : ∃ (s : State) (m : Nat) (k : Nat),
    (s.module m).refused = false ∧
    k < 2 ∧
    (s.module m).phase = k + 1 ∧
    k < (s.module m).mrs.length :=
  ⟨(demo.modModule 0 fun m => { m with phase := 1 }), 0, 0, by decide +kernel⟩

theorem witness_ModuleController_next : ∃ (s : State) (m : Nat),
    (s.module m).refused = false ∧
    ((s.module m).phase = 3 ∨ (s.module m).phase = 4 ∨ (s.module m).phase = 6) :=
  ⟨(demo.modModule 0 fun m => { m with phase := 3 }), 0, by decide +kernel⟩

theorem witness_ModuleController_booted : ∃ (s : State) (m : Nat),
    (s.module m).refused = false ∧
    (s.module m).phase = 7 :=
  ⟨(demo.modModule 0 fun m => { m with phase := 7 }), 0, by decide +kernel⟩

theorem witness_ModuleController_extend : ∃ (s : State) (m : Nat) (mr : Nat) (digest : BitVec 256),
    mr < (s.module m).mrs.length :=
  ⟨demo, 0, 7, 5, by decide +kernel⟩

theorem witness_ModuleController_limit : ∃ (s : State) (m : Nat) (watts : Nat),
    1000 ≤ watts ∧
    watts ≤ 24000 :=
  ⟨demo, 0, 24000, by decide +kernel⟩

theorem witness_ModuleController_zoneLimit : ∃ (s : State) (m : Nat) (z : Nat) (watts : Nat),
    z ≤ 80 ∧
    50 ≤ watts ∧
    watts ≤ 300 :=
  ⟨demo, 0, 80, 50, by decide +kernel⟩

theorem witness_ModuleController_restart : ∃ (s : State) (m : Nat) (name : Ltn) (core : Nat) (slot : Nat) (th : Thread),
    (s.binding name).v = true ∧
    s.slotThread (s.siteOf name) core slot = some th ∧
    th.park = some Park.stopped ∧
    (List.map (fun th => th.id) s.threads).Nodup :=
  ⟨(other stopped demo), 0, 0, 8, 1, stopped, by decide +kernel⟩

theorem witness_LossesAreMet_zoneAgain : ∃ (s : State) (z : Nat),
    (s.zone z).lost = true :=
  ⟨(demo.modZone 3 fun z => { z with lost := true }), 3, by decide +kernel⟩

theorem witness_LossesAreMet_zone : ∃ (s : State) (z : Nat),
    (s.zone z).lost = false :=
  ⟨demo, 0, by decide +kernel⟩

theorem witness_LossesAreMet_tileAgain : ∃ (s : State) (t : Nat),
    (s.module (siteModule t)).dead.contains t = true :=
  ⟨(demo.modModule 0 fun m => { m with dead := [3] }), 3, by decide +kernel⟩

theorem witness_LossesAreMet_tile : ∃ (s : State) (t : Nat),
    (s.module (siteModule t)).dead.contains t = false :=
  ⟨demo, 1, by decide +kernel⟩

theorem witness_LossesAreMet_unreachable : ∃ (s : State) (m : Nat) (peer : Nat),
    BitVec.getLsbD (assocGet peer 0 (s.module m).peers) 19 = true :=
  ⟨{ demo.modModule 0 (fun m => { m with peers := [(1, 0x80005)] }) with gangs := [wide] }, 0, 1, by decide +kernel⟩

theorem witness_LossesAreMet_laneAbsent : ∃ (s : State) (link : Nat) (lane : Nat),
    (s.hasLane link lane = false ∨ assocGet lane 0 (s.link link).errs ≤ (s.module (link / 640 / 128)).threshold) :=
  ⟨demo, 4, 2, by decide +kernel⟩

theorem witness_LossesAreMet_laneBelow : ∃ (s : State) (link : Nat) (lane : Nat),
    (s.hasLane link lane = false ∨ assocGet lane 0 (s.link link).errs ≤ (s.module (link / 640 / 128)).threshold) :=
  ⟨(linked Link.reset), 4, 67, by decide +kernel⟩

theorem witness_LossesAreMet_lane : ∃ (s : State) (link : Nat) (lane : Nat),
    s.hasLane link lane = true ∧
    (s.link link).failed = false ∧
    (s.link link).lost.contains lane = false ∧
    (s.module (link / 640 / 128)).threshold < assocGet lane 0 (s.link link).errs ∧
    (s.link link).lost.length < 36 :=
  ⟨(linked { Link.reset with errs := [(67, 1)] }), 4, 67, by decide +kernel⟩

theorem witness_LossesAreMet_lane36 : ∃ (s : State) (link : Nat) (lane : Nat),
    s.hasLane link lane = true ∧
    (s.link link).failed = false ∧
    (s.link link).lost.contains lane = false ∧
    (s.module (link / 640 / 128)).threshold < assocGet lane 0 (s.link link).errs ∧
    (s.link link).lost.length < 36 :=
  ⟨(linked { Link.reset with errs := [(40, 1)], lost := List.range 35 }), 4, 40, by decide +kernel⟩

theorem witness_LossesAreMet_retires : ∃ (s : State) (link : Nat) (lane : Nat),
    s.hasLane link lane = true ∧
    (s.link link).failed = false ∧
    (s.link link).lost.contains lane = false ∧
    (s.module (link / 640 / 128)).threshold < assocGet lane 0 (s.link link).errs ∧
    36 ≤ (s.link link).lost.length :=
  ⟨(linked { Link.reset with errs := [(40, 1)], lost := List.range 36 }), 4, 40, by decide +kernel⟩

theorem witness_LossesAreMet_retrained : ∃ (s : State) (link : Nat),
    (s.link link).retraining = true :=
  ⟨{ demo with links := [(4, { Link.reset with lost := [1, 2, 3, 4, 5], retraining := true })] }, 4, by decide +kernel⟩

theorem witness_LossesAreMet_retrained4 : ∃ (s : State) (link : Nat),
    (s.link link).retraining = true :=
  ⟨{ demo with links := [(4, { Link.reset with lost := [1, 2, 3, 4], retraining := true })] }, 4, by decide +kernel⟩

theorem witness_LossesAreMet_noReshelving : ∃ (s : State) (z : Nat),
    (s.zone z).reshelving = false :=
  ⟨demo, 3, by decide +kernel⟩

theorem witness_LossesAreMet_reshelveWaits : ∃ (s : State) (z : Nat),
    (s.gangs.any fun g => s.usesGroup z g && (g.order.isSome || g.stopped)) = true :=
  ⟨(withGang (fun g => { g with stopped := true }) (demo.modZone 0 fun z => { z with reshelving := true, retiring := [9], live := 160 })), 0, by decide +kernel⟩

theorem witness_LossesAreMet_reshelve : ∃ (s : State) (z : Nat) (r : Option (List (Nat × Nat × List (Nat × Nat)))),
    (s.zone z).reshelving = true ∧
    (s.gangs.any fun g => s.usesGroup z g && (g.order.isSome || g.stopped)) = false ∧
    (r =
      (s.modZone z fun x =>
            { retired := x.retired, retiring := x.retiring, salvage := x.salvage, returning := x.returning, stripeP := x.stripeP,
              stripeA := x.stripeA, epoch := x.epoch, live := x.live, binds := (s.zone z).reshelved.binds, limit := x.limit,
              draw := x.draw, temp := x.temp, droop := x.droop, power := x.power, thermal := x.thermal, lost := x.lost,
              clamped := x.clamped, cycBase := x.cycBase, cycAt := x.cycAt, reshelving := x.reshelving,
              trims := x.trims }).newShelves
        z (s.zone z).reshelved (s.stripePages z)) ∧
    r ≠ none :=
  ⟨reshelving, 3, ((toBe reshelving).newShelves 3 (reshelving.zone 3).reshelved (reshelving.stripePages 3)), by decide +kernel, by decide +kernel, rfl, by decide +kernel⟩

-- a reshelving without room
theorem witness_LossesAreMet_reshelveShort : ∃ (s : State) (z : Nat) (r : Option (List (Nat × Nat × List (Nat × Nat)))),
    (s.zone z).reshelving = true ∧
    (s.gangs.any fun g => s.usesGroup z g && (g.order.isSome || g.stopped)) = false ∧
    (r =
      (s.modZone z fun x =>
            { retired := x.retired, retiring := x.retiring, salvage := x.salvage, returning := x.returning, stripeP := x.stripeP,
              stripeA := x.stripeA, epoch := x.epoch, live := x.live, binds := (s.zone z).reshelved.binds, limit := x.limit,
              draw := x.draw, temp := x.temp, droop := x.droop, power := x.power, thermal := x.thermal, lost := x.lost,
              clamped := x.clamped, cycBase := x.cycBase, cycAt := x.cycAt, reshelving := x.reshelving,
              trims := x.trims }).newShelves
        z (s.zone z).reshelved (s.stripePages z)) ∧
    r = none :=
  ⟨crowded, 3, none, by decide +kernel, crowded_idle, (by rw [crowded_pages]; exact crowded_none.symm), by decide +kernel⟩

-- the later phases of boot
theorem witness_ModuleController_images : ∃ (s : State) (m : Nat),
    (s.module m).refused = false ∧
    (s.module m).phase = 5 ∧
    3 < (s.module m).mrs.length :=
  ⟨(demo.modModule 0 fun m => { m with phase := 5 }), 0, by decide +kernel⟩

-- vectors
theorem witness_VectorInstructions_three : ∃ (s : State) (p : Pfx) (d : RegNo) (a : RegNo) (b : RegNo) (x : Bool) (c : VCmp) (f : Option Fmt) (dst : Fmt) (os : List Nat),
    s.guardHolds p = true ∧
    s.thr.tandem = none ∧
    (∀ (id : Nat), (s.unitQueue s.tileNo s.coreNo).head? = some id → id = s.thr.id) ∧
    s.thr.groupWaits = false ∧
    s.thr.vec = VRun.idle ∧
    (false = true → s.thr.vl.toNat % 32 = 0) ∧
    (s.checkStreams [s.arg a (elemFmt f) true false x, s.arg b (elemFmt f) true false x, s.arg d (elemFmt f) true true x] =
      Except.ok os) ∧
    s.poisonOf ([s.arg a (elemFmt f) true false x, s.arg b (elemFmt f) true false x, s.arg d (elemFmt f) true true x].zip os) = none ∧
    (∀ (y : VArg × Nat),
      y ∈ [s.arg a (elemFmt f) true false x, s.arg b (elemFmt f) true false x, s.arg d (elemFmt f) true true x].zip os →
        y.fst.wr = true → s.vwaits y.snd y.fst.n = none) :=
  ⟨(streams 2), Pfx.none, 3, 1, 2, true, .eq, (some .f32), .f32, [256, 512, 768], by decide +kernel, by decide +kernel, (wit_unitFree _ (by decide +kernel)), by decide +kernel, by decide +kernel, by decide +kernel, wit_ok (by decide +kernel), by decide +kernel⟩

theorem witness_VectorInstructions_two : ∃ (s : State) (p : Pfx) (d : RegNo) (a : RegNo) (b : RegNo) (x : Bool) (c : VCmp) (f : Option Fmt) (dst : Fmt) (os : List Nat),
    s.guardHolds p = true ∧
    s.thr.tandem = none ∧
    (∀ (id : Nat), (s.unitQueue s.tileNo s.coreNo).head? = some id → id = s.thr.id) ∧
    s.thr.groupWaits = false ∧
    s.thr.vec = VRun.idle ∧
    (false = true → s.thr.vl.toNat % 32 = 0) ∧
    s.checkStreams [s.arg a (elemFmt f) true false x, s.arg d (elemFmt f) false true x] = Except.ok os ∧
    s.poisonOf ([s.arg a (elemFmt f) true false x, s.arg d (elemFmt f) false true x].zip os) = none ∧
    (∀ (y : VArg × Nat),
      y ∈ [s.arg a (elemFmt f) true false x, s.arg d (elemFmt f) false true x].zip os →
        y.fst.wr = true → s.vwaits y.snd y.fst.n = none) :=
  ⟨(streams 2), Pfx.none, 3, 1, 2, true, .eq, (none), .f32, [256, 768], by decide +kernel, by decide +kernel, (wit_unitFree _ (by decide +kernel)), by decide +kernel, by decide +kernel, by decide +kernel, wit_ok (by decide +kernel), by decide +kernel⟩

theorem witness_VectorInstructions_fp4 : ∃ (s : State) (p : Pfx) (d : RegNo) (a : RegNo) (b : RegNo) (x : Bool) (c : VCmp) (f : Option Fmt) (dst : Fmt) (os : List Nat),
    s.guardHolds p = true ∧
    s.thr.tandem = none ∧
    (∀ (id : Nat), (s.unitQueue s.tileNo s.coreNo).head? = some id → id = s.thr.id) ∧
    s.thr.groupWaits = false ∧
    s.thr.vec = VRun.idle ∧
    ((decide (dst = Fmt.f4b) || decide (f.getD Fmt.i8 = Fmt.f4b)) = true → s.thr.vl.toNat % 32 = 0) ∧
    s.checkStreams [s.arg a (f.getD Fmt.i8) true false x, s.arg d dst false true x] = Except.ok os ∧
    s.poisonOf ([s.arg a (f.getD Fmt.i8) true false x, s.arg d dst false true x].zip os) = none ∧
    (∀ (y : VArg × Nat),
      y ∈ [s.arg a (f.getD Fmt.i8) true false x, s.arg d dst false true x].zip os → y.fst.wr = true → s.vwaits y.snd y.fst.n = none) :=
  ⟨(streams 32), Pfx.none, 3, 1, 2, false, .eq, (some .f32), .f4b, [256, 768], by decide +kernel, by decide +kernel, (wit_unitFree _ (by decide +kernel)), by decide +kernel, by decide +kernel, by decide +kernel, wit_ok (by decide +kernel), by decide +kernel⟩

theorem witness_VectorInstructions_quant : ∃ (s : State) (p : Pfx) (d : RegNo) (a : RegNo) (b : RegNo) (x : Bool) (c : VCmp) (f : Option Fmt) (dst : Fmt) (os : List Nat),
    s.guardHolds p = true ∧
    s.thr.tandem = none ∧
    (∀ (id : Nat), (s.unitQueue s.tileNo s.coreNo).head? = some id → id = s.thr.id) ∧
    s.thr.groupWaits = false ∧
    s.thr.vec = VRun.idle ∧
    ((decide (dst = Fmt.f4b) || decide (f.getD Fmt.i8 = Fmt.f4b)) = true → s.thr.vl.toNat % 32 = 0) ∧
    s.checkStreams [s.arg a (f.getD Fmt.i8) true false x, s.arg d dst false true x] = Except.ok os ∧
    s.poisonOf ([s.arg a (f.getD Fmt.i8) true false x, s.arg d dst false true x].zip os) = none ∧
    (∀ (y : VArg × Nat),
      y ∈ [s.arg a (f.getD Fmt.i8) true false x, s.arg d dst false true x].zip os → y.fst.wr = true → s.vwaits y.snd y.fst.n = none) :=
  ⟨(streams 2), Pfx.none, 3, 1, 2, false, .eq, (some .f32), .i8, [256, 768], by decide +kernel, by decide +kernel, (wit_unitFree _ (by decide +kernel)), by decide +kernel, by decide +kernel, by decide +kernel, wit_ok (by decide +kernel), by decide +kernel⟩

theorem witness_VectorInstructions_set : ∃ (s : State) (p : Pfx) (d : RegNo) (a : RegNo) (b : RegNo) (x : Bool) (c : VCmp) (f : Option Fmt) (dst : Fmt) (os : List Nat),
    s.guardHolds p = true ∧
    s.thr.tandem = none ∧
    (∀ (id : Nat), (s.unitQueue s.tileNo s.coreNo).head? = some id → id = s.thr.id) ∧
    s.thr.groupWaits = false ∧
    s.thr.vec = VRun.idle ∧
    (false = true → s.thr.vl.toNat % 32 = 0) ∧
    s.checkStreams [s.arg d (elemFmt f) false true x] = Except.ok os ∧
    s.poisonOf ([s.arg d (elemFmt f) false true x].zip os) = none ∧
    (∀ (y : VArg × Nat), y ∈ [s.arg d (elemFmt f) false true x].zip os → y.fst.wr = true → s.vwaits y.snd y.fst.n = none) :=
  ⟨(streams 2), Pfx.none, 3, 1, 2, true, .eq, (some .i64), .f32, [768], by decide +kernel, by decide +kernel, (wit_unitFree _ (by decide +kernel)), by decide +kernel, by decide +kernel, by decide +kernel, wit_ok (by decide +kernel), by decide +kernel⟩

theorem witness_VectorInstructions_sum : ∃ (s : State) (p : Pfx) (d : RegNo) (a : RegNo) (b : RegNo) (x : Bool) (c : VCmp) (f : Option Fmt) (dst : Fmt) (os : List Nat),
    s.guardHolds p = true ∧
    s.thr.tandem = none ∧
    (∀ (id : Nat), (s.unitQueue s.tileNo s.coreNo).head? = some id → id = s.thr.id) ∧
    s.thr.groupWaits = false ∧
    s.thr.vec = VRun.idle ∧
    (false = true → s.thr.vl.toNat % 32 = 0) ∧
    s.checkStreams [s.arg a (elemFmt f) true false x] = Except.ok os ∧
    s.poisonOf ([s.arg a (elemFmt f) true false x].zip os) = none ∧
    (∀ (y : VArg × Nat), y ∈ [s.arg a (elemFmt f) true false x].zip os → y.fst.wr = true → s.vwaits y.snd y.fst.n = none) :=
  ⟨(streams 2), Pfx.none, 3, 1, 2, true, .eq, (some .i8), .f32, [256], by decide +kernel, by decide +kernel, (wit_unitFree _ (by decide +kernel)), by decide +kernel, by decide +kernel, by decide +kernel, wit_ok (by decide +kernel), by decide +kernel⟩

theorem witness_VectorInstructions_dot : ∃ (s : State) (p : Pfx) (d : RegNo) (a : RegNo) (b : RegNo) (x : Bool) (c : VCmp) (f : Option Fmt) (dst : Fmt) (os : List Nat),
    s.guardHolds p = true ∧
    s.thr.tandem = none ∧
    (∀ (id : Nat), (s.unitQueue s.tileNo s.coreNo).head? = some id → id = s.thr.id) ∧
    s.thr.groupWaits = false ∧
    s.thr.vec = VRun.idle ∧
    (false = true → s.thr.vl.toNat % 32 = 0) ∧
    s.checkStreams [s.arg a (elemFmt f) true false x, s.arg b (elemFmt f) true false x] = Except.ok os ∧
    s.poisonOf ([s.arg a (elemFmt f) true false x, s.arg b (elemFmt f) true false x].zip os) = none ∧
    (∀ (y : VArg × Nat),
      y ∈ [s.arg a (elemFmt f) true false x, s.arg b (elemFmt f) true false x].zip os →
        y.fst.wr = true → s.vwaits y.snd y.fst.n = none) :=
  ⟨(streams 2), Pfx.none, 3, 1, 2, true, .eq, (some .i8), .f32, [256, 512], by decide +kernel, by decide +kernel, (wit_unitFree _ (by decide +kernel)), by decide +kernel, by decide +kernel, by decide +kernel, wit_ok (by decide +kernel), by decide +kernel⟩

theorem witness_VectorInstructions_gather : ∃ (s : State) (p : Pfx) (d : RegNo) (a : RegNo) (b : RegNo) (x : Bool) (f : Option Fmt) (io : Nat) (od : Nat) (elems : List Nat),
    s.guardHolds p = true ∧
    s.thr.tandem = none ∧
    (∀ (id : Nat), (s.unitQueue s.tileNo s.coreNo).head? = some id → id = s.thr.id) ∧
    s.thr.groupWaits = false ∧
    s.thr.vec = VRun.idle ∧
    s.checkStream { reg := b, n := 4 * s.thr.vl.toNat, align := 4, e := 4, rd := true, wr := false, adv := x } = Except.ok io ∧
    s.poisonIn io (4 * s.thr.vl.toNat) = none ∧
    s.checkStream (s.arg d (elemFmt f) false true x) = Except.ok od ∧
    (s.checkTable (s.reg a) (fmtBytes (elemFmt f)) permR (List.map (fun i => s.vget (io + 4 * i) 4) (List.range s.thr.vl.toNat)) =
      Except.ok elems) ∧
    (∀ (o : Nat), o ∈ elems → s.poisonIn o (fmtBytes (elemFmt f)) = none) ∧
    s.vwaits od (streamBytes (elemFmt f) s.thr.vl.toNat) = none :=
  ⟨(regs [(2, win 256), (1, win 512)] indexed), Pfx.none, 3, 1, 2, true, (some .i16), 256, 768, [514, 522], by decide +kernel, by decide +kernel, (wit_unitFree _ (by decide +kernel)), by decide +kernel, by decide +kernel, wit_ok (by decide +kernel), by decide +kernel, wit_ok (by decide +kernel), wit_ok (by decide +kernel), by decide +kernel⟩

theorem witness_VectorInstructions_scatter : ∃ (s : State) (p : Pfx) (d : RegNo) (a : RegNo) (b : RegNo) (x : Bool) (f : Option Fmt) (io : Nat) (od : Nat) (elems : List Nat),
    s.guardHolds p = true ∧
    s.thr.tandem = none ∧
    (∀ (id : Nat), (s.unitQueue s.tileNo s.coreNo).head? = some id → id = s.thr.id) ∧
    s.thr.groupWaits = false ∧
    s.thr.vec = VRun.idle ∧
    s.checkStream { reg := b, n := 4 * s.thr.vl.toNat, align := 4, e := 4, rd := true, wr := false, adv := x } = Except.ok io ∧
    s.poisonIn io (4 * s.thr.vl.toNat) = none ∧
    s.checkStream (s.arg a (elemFmt f) true false x) = Except.ok od ∧
    (s.checkTable (s.reg d) (fmtBytes (elemFmt f)) permW (List.map (fun i => s.vget (io + 4 * i) 4) (List.range s.thr.vl.toNat)) =
      Except.ok elems) ∧
    s.poisonIn od (streamBytes (elemFmt f) s.thr.vl.toNat) = none ∧
    (∀ (o : Nat), o ∈ elems → s.vwaits o (fmtBytes (elemFmt f)) = none) :=
  ⟨(regs [(2, win 256), (1, win 512)] indexed), Pfx.none, 3, 1, 2, true, (some .i16), 256, 512, [770, 778], by decide +kernel, by decide +kernel, (wit_unitFree _ (by decide +kernel)), by decide +kernel, by decide +kernel, wit_ok (by decide +kernel), by decide +kernel, wit_ok (by decide +kernel), wit_ok (by decide +kernel), by decide +kernel⟩

-- vector results
theorem witness_VectorResults_pairs : ∃ (s : State) (p : Pfx) (d : RegNo) (a : RegNo) (b : RegNo) (x : Bool) (c : VCmp) (f : Option Fmt) (F : Fmt) (e : Nat) (w : Nat) (oa : Nat) (ob : Nat) (od : Nat),
    s.guardHolds p = true ∧
    s.thr.tandem = none ∧
    (∀ (id : Nat), (s.unitQueue s.tileNo s.coreNo).head? = some id → id = s.thr.id) ∧
    s.thr.groupWaits = false ∧
    s.thr.vec = VRun.idle ∧
    F = elemFmt f ∧
    F ≠ Fmt.f4b ∧
    e = fmtBytes F ∧
    w = fmtBits F ∧
    s.sr = false ∧
    s.quarters.Nodup ∧
    (∀ (q : Nat), q ∈ s.quarters → q < 4) ∧
    (∀ (i : Nat), i < s.thr.vl.toNat → (s.tile s.tileNo).owns (quarterOf (s.winKey (od + i * e))) s.thr.asid s.thr.lgen = true) ∧
    s.vwaits od (streamBytes F s.thr.vl.toNat) = none ∧
    s.checkStreams [s.arg a F true false x, s.arg b F true false x, s.arg d F false true x] = Except.ok [oa, ob, od] ∧
    anyOverlap [(s.arg a F true false x, oa), (s.arg b F true false x, ob), (s.arg d F false true x, od)] = false ∧
    s.poisonOf [(s.arg a F true false x, oa), (s.arg b F true false x, ob), (s.arg d F false true x, od)] = none :=
  ⟨((streams 3).poke (windowKey 0 [0, 1, 2, 3] 256) [1, 255, 0x80, 0x3F, 5, 0, 0x80, 0x40, 0, 0, 0xC0, 0x7F]), Pfx.none, 3, 1, 2, true, .lt, (some .f32), .f32, 4, 32, 256, 512, 768, by decide +kernel, by decide +kernel, (wit_unitFree _ (by decide +kernel)), by decide +kernel, by decide +kernel, by decide +kernel, by decide +kernel, ⟨by decide +kernel, by decide +kernel, by decide +kernel, by decide +kernel, ⟨by decide +kernel, by decide +kernel, by decide +kernel, wit_ok (by decide +kernel), by decide +kernel⟩⟩⟩

theorem witness_VectorResults_select : ∃ (s : State) (p : Pfx) (d : RegNo) (a : RegNo) (b : RegNo) (x : Bool) (c : VCmp) (f : Option Fmt) (F : Fmt) (e : Nat) (w : Nat) (oa : Nat) (ob : Nat) (od : Nat),
    s.guardHolds p = true ∧
    s.thr.tandem = none ∧
    (∀ (id : Nat), (s.unitQueue s.tileNo s.coreNo).head? = some id → id = s.thr.id) ∧
    s.thr.groupWaits = false ∧
    s.thr.vec = VRun.idle ∧
    F = elemFmt f ∧
    F ≠ Fmt.f4b ∧
    e = fmtBytes F ∧
    w = fmtBits F ∧
    s.sr = false ∧
    s.quarters.Nodup ∧
    (∀ (q : Nat), q ∈ s.quarters → q < 4) ∧
    (∀ (i : Nat), i < s.thr.vl.toNat → (s.tile s.tileNo).owns (quarterOf (s.winKey (od + i * e))) s.thr.asid s.thr.lgen = true) ∧
    s.vwaits od (streamBytes F s.thr.vl.toNat) = none ∧
    s.checkStreams [s.arg a F true false x, s.arg b F true false x, s.arg d F true true x] = Except.ok [oa, ob, od] ∧
    anyOverlap [(s.arg a F true false x, oa), (s.arg b F true false x, ob), (s.arg d F true true x, od)] = false ∧
    s.poisonOf [(s.arg a F true false x, oa), (s.arg b F true false x, ob), (s.arg d F true true x, od)] = none :=
  ⟨((streams 3).poke (windowKey 0 [0, 1, 2, 3] 256) [1, 255, 0x80, 0x3F, 5, 0, 0x80, 0x40, 0, 0, 0xC0, 0x7F]), Pfx.none, 3, 1, 2, false, .lt, (some .i16), .i16, 2, 16, 256, 512, 768, by decide +kernel, by decide +kernel, (wit_unitFree _ (by decide +kernel)), by decide +kernel, by decide +kernel, by decide +kernel, by decide +kernel, ⟨by decide +kernel, by decide +kernel, by decide +kernel, by decide +kernel, ⟨by decide +kernel, by decide +kernel, by decide +kernel, wit_ok (by decide +kernel), by decide +kernel⟩⟩⟩

theorem witness_VectorResults_fma : ∃ (s : State) (p : Pfx) (d : RegNo) (a : RegNo) (b : RegNo) (x : Bool) (c : VCmp) (f : Option Fmt) (F : Fmt) (e : Nat) (w : Nat) (oa : Nat) (ob : Nat) (od : Nat),
    s.guardHolds p = true ∧
    s.thr.tandem = none ∧
    (∀ (id : Nat), (s.unitQueue s.tileNo s.coreNo).head? = some id → id = s.thr.id) ∧
    s.thr.groupWaits = false ∧
    s.thr.vec = VRun.idle ∧
    F = elemFmt f ∧
    F ≠ Fmt.f4b ∧
    e = fmtBytes F ∧
    w = fmtBits F ∧
    s.sr = false ∧
    s.quarters.Nodup ∧
    (∀ (q : Nat), q ∈ s.quarters → q < 4) ∧
    (∀ (i : Nat), i < s.thr.vl.toNat → (s.tile s.tileNo).owns (quarterOf (s.winKey (od + i * e))) s.thr.asid s.thr.lgen = true) ∧
    s.vwaits od (streamBytes F s.thr.vl.toNat) = none ∧
    s.checkStreams [s.arg a F true false x, s.arg b F true false x, s.arg d F true true x] = .ok [oa, ob, od] ∧
    anyOverlap [(s.arg a F true false x, oa), (s.arg b F true false x, ob), (s.arg d F true true x, od)] = false ∧
    s.poisonOf [(s.arg a F true false x, oa), (s.arg b F true false x, ob), (s.arg d F true true x, od)] = none ∧
    isIntFmt F = false :=
  ⟨((streams 3).poke (windowKey 0 [0, 1, 2, 3] 256) [1, 255, 0x80, 0x3F, 5, 0, 0x80, 0x40, 0, 0, 0xC0, 0x7F]), Pfx.none, 3, 1, 2, false, .lt, (some .f32), .f32, 4, 32, 256, 512, 768, by decide +kernel, by decide +kernel, (wit_unitFree _ (by decide +kernel)), by decide +kernel, by decide +kernel, by decide +kernel, by decide +kernel, ⟨by decide +kernel, by decide +kernel, by decide +kernel, by decide +kernel, ⟨by decide +kernel, by decide +kernel, by decide +kernel, wit_ok (by decide +kernel), by decide +kernel⟩⟩⟩

theorem witness_VectorResults_single : ∃ (s : State) (p : Pfx) (d : RegNo) (a : RegNo) (b : RegNo) (x : Bool) (c : VCmp) (f : Option Fmt) (F : Fmt) (e : Nat) (w : Nat) (oa : Nat) (ob : Nat) (od : Nat),
    s.guardHolds p = true ∧
    s.thr.tandem = none ∧
    (∀ (id : Nat), (s.unitQueue s.tileNo s.coreNo).head? = some id → id = s.thr.id) ∧
    s.thr.groupWaits = false ∧
    s.thr.vec = VRun.idle ∧
    F = elemFmt f ∧
    F ≠ Fmt.f4b ∧
    e = fmtBytes F ∧
    w = fmtBits F ∧
    s.sr = false ∧
    s.quarters.Nodup ∧
    (∀ (q : Nat), q ∈ s.quarters → q < 4) ∧
    (∀ (i : Nat), i < s.thr.vl.toNat → (s.tile s.tileNo).owns (quarterOf (s.winKey (od + i * e))) s.thr.asid s.thr.lgen = true) ∧
    s.vwaits od (streamBytes F s.thr.vl.toNat) = none ∧
    s.checkStreams [s.arg a F true false x, s.arg d F false true x] = Except.ok [oa, od] ∧
    anyOverlap [(s.arg a F true false x, oa), (s.arg d F false true x, od)] = false ∧
    s.poisonOf [(s.arg a F true false x, oa), (s.arg d F false true x, od)] = none :=
  ⟨((streams 3).poke (windowKey 0 [0, 1, 2, 3] 256) [1, 255, 0x80, 0x3F, 5, 0, 0x80, 0x40, 0, 0, 0xC0, 0x7F]), Pfx.none, 3, 1, 2, false, .lt, (some .i16), .i16, 2, 16, 256, 512, 768, by decide +kernel, by decide +kernel, (wit_unitFree _ (by decide +kernel)), by decide +kernel, by decide +kernel, by decide +kernel, by decide +kernel, ⟨by decide +kernel, by decide +kernel, by decide +kernel, by decide +kernel, ⟨by decide +kernel, by decide +kernel, by decide +kernel, wit_ok (by decide +kernel), by decide +kernel⟩⟩⟩

theorem witness_VectorResults_shift : ∃ (s : State) (p : Pfx) (d : RegNo) (a : RegNo) (b : RegNo) (x : Bool) (c : VCmp) (f : Option Fmt) (F : Fmt) (e : Nat) (w : Nat) (oa : Nat) (ob : Nat) (od : Nat),
    s.guardHolds p = true ∧
    s.thr.tandem = none ∧
    (∀ (id : Nat), (s.unitQueue s.tileNo s.coreNo).head? = some id → id = s.thr.id) ∧
    s.thr.groupWaits = false ∧
    s.thr.vec = VRun.idle ∧
    F = elemFmt f ∧
    F ≠ Fmt.f4b ∧
    e = fmtBytes F ∧
    w = fmtBits F ∧
    s.sr = false ∧
    s.quarters.Nodup ∧
    (∀ (q : Nat), q ∈ s.quarters → q < 4) ∧
    (∀ (i : Nat), i < s.thr.vl.toNat → (s.tile s.tileNo).owns (quarterOf (s.winKey (od + i * e))) s.thr.asid s.thr.lgen = true) ∧
    s.vwaits od (streamBytes F s.thr.vl.toNat) = none ∧
    s.checkStreams [s.arg a F true false x, s.arg d F false true x] = .ok [oa, od] ∧
    anyOverlap [(s.arg a F true false x, oa), (s.arg d F false true x, od)] = false ∧
    s.poisonOf [(s.arg a F true false x, oa), (s.arg d F false true x, od)] = none ∧
    isIntFmt F = true :=
  ⟨((streams 3).poke (windowKey 0 [0, 1, 2, 3] 256) [1, 255, 0x80, 0x3F, 5, 0, 0x80, 0x40, 0, 0, 0xC0, 0x7F]), Pfx.none, 3, 1, 4, false, .lt, (some .i16), .i16, 2, 16, 256, 512, 768, by decide +kernel, by decide +kernel, (wit_unitFree _ (by decide +kernel)), by decide +kernel, by decide +kernel, by decide +kernel, by decide +kernel, ⟨by decide +kernel, by decide +kernel, by decide +kernel, by decide +kernel, ⟨by decide +kernel, by decide +kernel, by decide +kernel, wit_ok (by decide +kernel), by decide +kernel⟩⟩⟩

theorem witness_VectorResults_axpy : ∃ (s : State) (p : Pfx) (d : RegNo) (a : RegNo) (b : RegNo) (x : Bool) (c : VCmp) (f : Option Fmt) (F : Fmt) (e : Nat) (w : Nat) (oa : Nat) (ob : Nat) (od : Nat),
    s.guardHolds p = true ∧
    s.thr.tandem = none ∧
    (∀ (id : Nat), (s.unitQueue s.tileNo s.coreNo).head? = some id → id = s.thr.id) ∧
    s.thr.groupWaits = false ∧
    s.thr.vec = VRun.idle ∧
    F = elemFmt f ∧
    F ≠ Fmt.f4b ∧
    e = fmtBytes F ∧
    w = fmtBits F ∧
    s.sr = false ∧
    s.quarters.Nodup ∧
    (∀ (q : Nat), q ∈ s.quarters → q < 4) ∧
    (∀ (i : Nat), i < s.thr.vl.toNat → (s.tile s.tileNo).owns (quarterOf (s.winKey (od + i * e))) s.thr.asid s.thr.lgen = true) ∧
    s.vwaits od (streamBytes F s.thr.vl.toNat) = none ∧
    s.checkStreams [s.arg a F true false x, s.arg d F true true x] = .ok [oa, od] ∧
    anyOverlap [(s.arg a F true false x, oa), (s.arg d F true true x, od)] = false ∧
    s.poisonOf [(s.arg a F true false x, oa), (s.arg d F true true x, od)] = none ∧
    isIntFmt F = false :=
  ⟨((streams 3).poke (windowKey 0 [0, 1, 2, 3] 256) [1, 255, 0x80, 0x3F, 5, 0, 0x80, 0x40, 0, 0, 0xC0, 0x7F]), Pfx.none, 3, 1, 2, false, .lt, (some .f32), .f32, 4, 32, 256, 512, 768, by decide +kernel, by decide +kernel, (wit_unitFree _ (by decide +kernel)), by decide +kernel, by decide +kernel, by decide +kernel, by decide +kernel, ⟨by decide +kernel, by decide +kernel, by decide +kernel, by decide +kernel, ⟨by decide +kernel, by decide +kernel, by decide +kernel, wit_ok (by decide +kernel), by decide +kernel⟩⟩⟩

theorem witness_VectorResults_moves : ∃ (s : State) (p : Pfx) (d : RegNo) (a : RegNo) (b : RegNo) (x : Bool) (c : VCmp) (f : Option Fmt) (F : Fmt) (e : Nat) (w : Nat) (oa : Nat) (ob : Nat) (od : Nat) (from' : Nat → Nat),
    s.guardHolds p = true ∧
    s.thr.tandem = none ∧
    (∀ (id : Nat), (s.unitQueue s.tileNo s.coreNo).head? = some id → id = s.thr.id) ∧
    s.thr.groupWaits = false ∧
    s.thr.vec = VRun.idle ∧
    F = elemFmt f ∧
    F ≠ Fmt.f4b ∧
    e = fmtBytes F ∧
    w = fmtBits F ∧
    s.sr = false ∧
    s.quarters.Nodup ∧
    (∀ (q : Nat), q ∈ s.quarters → q < 4) ∧
    (∀ (i : Nat), i < s.thr.vl.toNat → (s.tile s.tileNo).owns (quarterOf (s.winKey (od + i * e))) s.thr.asid s.thr.lgen = true) ∧
    s.vwaits od (streamBytes F s.thr.vl.toNat) = none ∧
    (from' = fun k => if k < s.thr.vl.toNat then s.vget (oa + k * e) e else 0) ∧
    s.checkStreams [s.arg a F true false x, s.arg d F false true x] = Except.ok [oa, od] ∧
    anyOverlap [(s.arg a F true false x, oa), (s.arg d F false true x, od)] = false ∧
    s.poisonOf [(s.arg a F true false x, oa), (s.arg d F false true x, od)] = none :=
  ⟨((streams 3).poke (windowKey 0 [0, 1, 2, 3] 256) [1, 255, 0x80, 0x3F, 5, 0, 0x80, 0x40, 0, 0, 0xC0, 0x7F]), Pfx.none, 3, 1, 2, false, .lt, (some .i8), .i8, 1, 8, 256, 512, 768, _, by decide +kernel, by decide +kernel, (wit_unitFree _ (by decide +kernel)), by decide +kernel, by decide +kernel, by decide +kernel, by decide +kernel, ⟨by decide +kernel, by decide +kernel, by decide +kernel, by decide +kernel, ⟨by decide +kernel, by decide +kernel, by decide +kernel, by rfl, wit_ok (by decide +kernel), by decide +kernel⟩⟩⟩

theorem witness_VectorResults_vset : ∃ (s : State) (p : Pfx) (d : RegNo) (a : RegNo) (b : RegNo) (x : Bool) (c : VCmp) (f : Option Fmt) (F : Fmt) (e : Nat) (w : Nat) (oa : Nat) (ob : Nat) (od : Nat),
    s.guardHolds p = true ∧
    s.thr.tandem = none ∧
    (∀ (id : Nat), (s.unitQueue s.tileNo s.coreNo).head? = some id → id = s.thr.id) ∧
    s.thr.groupWaits = false ∧
    s.thr.vec = VRun.idle ∧
    F = elemFmt f ∧
    F ≠ Fmt.f4b ∧
    e = fmtBytes F ∧
    w = fmtBits F ∧
    s.sr = false ∧
    s.quarters.Nodup ∧
    (∀ (q : Nat), q ∈ s.quarters → q < 4) ∧
    (∀ (i : Nat), i < s.thr.vl.toNat → (s.tile s.tileNo).owns (quarterOf (s.winKey (od + i * e))) s.thr.asid s.thr.lgen = true) ∧
    s.vwaits od (streamBytes F s.thr.vl.toNat) = none ∧
    s.checkStreams [s.arg d F false true x] = Except.ok [od] ∧
    s.poisonOf [(s.arg d F false true x, od)] = none :=
  ⟨((streams 3).poke (windowKey 0 [0, 1, 2, 3] 256) [1, 255, 0x80, 0x3F, 5, 0, 0x80, 0x40, 0, 0, 0xC0, 0x7F]), Pfx.none, 3, 1, 2, true, .lt, (some .i16), .i16, 2, 16, 256, 512, 768, by decide +kernel, by decide +kernel, (wit_unitFree _ (by decide +kernel)), by decide +kernel, by decide +kernel, by decide +kernel, by decide +kernel, ⟨by decide +kernel, by decide +kernel, by decide +kernel, by decide +kernel, ⟨by decide +kernel, by decide +kernel, by decide +kernel, wit_ok (by decide +kernel), by decide +kernel⟩⟩⟩

theorem witness_VectorResults_reductions : ∃ (s : State) (p : Pfx) (d : RegNo) (a : RegNo) (b : RegNo) (x : Bool) (c : VCmp) (f : Option Fmt) (F : Fmt) (e : Nat) (w : Nat) (oa : Nat) (ob : Nat) (od : Nat),
    s.guardHolds p = true ∧
    s.thr.tandem = none ∧
    (∀ (id : Nat), (s.unitQueue s.tileNo s.coreNo).head? = some id → id = s.thr.id) ∧
    s.thr.groupWaits = false ∧
    s.thr.vec = VRun.idle ∧
    F = elemFmt f ∧
    F ≠ Fmt.f4b ∧
    e = fmtBytes F ∧
    w = fmtBits F ∧
    s.sr = false ∧
    s.quarters.Nodup ∧
    (∀ (q : Nat), q ∈ s.quarters → q < 4) ∧
    (∀ (i : Nat), i < s.thr.vl.toNat → (s.tile s.tileNo).owns (quarterOf (s.winKey (od + i * e))) s.thr.asid s.thr.lgen = true) ∧
    s.vwaits od (streamBytes F s.thr.vl.toNat) = none ∧
    isIntFmt F = true ∧
    s.checkStreams [s.arg a F true false false, s.arg b F true false false] = Except.ok [oa, ob] ∧
    s.poisonOf [(s.arg a F true false false, oa), (s.arg b F true false false, ob)] = none :=
  ⟨((streams 3).poke (windowKey 0 [0, 1, 2, 3] 256) [1, 255, 0x80, 0x3F, 5, 0, 0x80, 0x40, 0, 0, 0xC0, 0x7F]), Pfx.none, 3, 1, 2, false, .lt, (some .i8), .i8, 1, 8, 256, 512, 768, by decide +kernel, by decide +kernel, (wit_unitFree _ (by decide +kernel)), by decide +kernel, by decide +kernel, by decide +kernel, by decide +kernel, ⟨by decide +kernel, by decide +kernel, by decide +kernel, by decide +kernel, ⟨by decide +kernel, by decide +kernel, by decide +kernel, by decide +kernel, wit_ok (by decide +kernel), by decide +kernel⟩⟩⟩

end Sys2Proof.Tests
end

section
/-! PROOFS. Decoding: the fields of the words that the statements name, the chain before a base word, and what a chain with its base word can decode to
(spec/02_encoding.md R26-R40). -/
namespace Sys2Proof

-- the words
/-- A base word of the RRR layout (R29). -/
def rrrWord (op : BitVec 6) (d a b : BitVec 3) (v : BitVec 1) : Half := mkWord op (d ++ a ++ b ++ v)

/-- An XR word: the high bits of the three register fields, the guard and its negation (R32). -/
def xrWord (h g : BitVec 3) (n : BitVec 1) : Half := mkWord 0x3D (h ++ g ++ n ++ 0#3)

/-- An XI word (R32). -/
def xiWord (e : BitVec 10) : Half := mkWord 0x3C e

/-- What a chain whose words are XR and at most XP leaves to the instruction. -/
abbrev xrPfx (g : BitVec 3) (n : BitVec 1) : Pfx := { Pfx.none with xr := true, guard := g, neg := n = 1 }

theorem getLsbD_zero_bit (n : BitVec 1) : n.getLsbD 0 = decide (n = 1) := by revert n; decide

@[simp] theorem op6_mkWord (op : BitVec 6) (b : BitVec 10) : op6 (mkWord op b) = op := BitVec.extractLsb'_append_eq_left

@[simp] theorem body_mkWord (op : BitVec 6) (b : BitVec 10) : body (mkWord op b) = b := BitVec.extractLsb'_append_eq_right

@[simp] theorem op6_rrrWord (op : BitVec 6) (d a b : BitVec 3) (v : BitVec 1) : op6 (rrrWord op d a b v) = op := op6_mkWord _ _

@[simp] theorem op6_xrWord (h g : BitVec 3) (n : BitVec 1) : op6 (xrWord h g n) = 0x3D := op6_mkWord _ _

@[simp] theorem op6_xiWord (e : BitVec 10) : op6 (xiWord e) = 0x3C := op6_mkWord _ _

@[simp] theorem body_xiWord (e : BitVec 10) : body (xiWord e) = e := body_mkWord _ _

@[simp] theorem rrrWord_f1 (op : BitVec 6) (d a b : BitVec 3) (v : BitVec 1) : (body (rrrWord op d a b v)).extractLsb' 7 3 = d := by
  rw [rrrWord, body_mkWord]; simp only [BitVec.extractLsb'_append_eq_ite]; simp

@[simp] theorem rrrWord_f2 (op : BitVec 6) (d a b : BitVec 3) (v : BitVec 1) : (body (rrrWord op d a b v)).extractLsb' 4 3 = a := by
  rw [rrrWord, body_mkWord]; simp only [BitVec.extractLsb'_append_eq_ite]; simp

@[simp] theorem rrrWord_f3 (op : BitVec 6) (d a b : BitVec 3) (v : BitVec 1) : (body (rrrWord op d a b v)).extractLsb' 1 3 = b := by
  rw [rrrWord, body_mkWord]; simp only [BitVec.extractLsb'_append_eq_ite]; simp

@[simp] theorem rrrWord_x (op : BitVec 6) (d a b : BitVec 3) (v : BitVec 1) :
    (body (rrrWord op d a b v)).getLsbD 0 = decide (v = 1) := by
  rw [rrrWord, body_mkWord, BitVec.getLsbD_append, if_pos (by decide), getLsbD_zero_bit]

theorem xrWord_high (h g : BitVec 3) (n : BitVec 1) (k : Nat) : (body (xrWord h g n)).getLsbD (7 + k) = h.getLsbD k := by
  rw [xrWord, body_mkWord]; simp only [BitVec.getLsbD_append]
  rw [if_neg (by omega), if_neg (by omega), if_neg (by omega)]; congr 1; omega

@[simp] theorem xrWord_guard (h g : BitVec 3) (n : BitVec 1) : (body (xrWord h g n)).extractLsb' 4 3 = g := by
  rw [xrWord, body_mkWord]; simp only [BitVec.extractLsb'_append_eq_ite]; simp

@[simp] theorem xrWord_neg (h g : BitVec 3) (n : BitVec 1) : (body (xrWord h g n))[3] = decide (n = 1) := by
  rw [← BitVec.getLsbD_eq_getElem, xrWord, body_mkWord]; simp only [BitVec.getLsbD_append]
  rw [if_neg (by decide), if_pos (by decide), getLsbD_zero_bit]

@[simp] theorem reservedBits_xrWord (h g : BitVec 3) (n : BitVec 1) : reservedBits (xrWord h g n) = false := by
  have e : (xrWord h g n).extractLsb' 0 3 = 0 := by simp only [xrWord, mkWord, BitVec.extractLsb'_append_eq_ite]; simp
  simp [reservedBits, e]

-- prefixes of a chain
@[simp] theorem prefixWord_nil (op : BitVec 6) : prefixWord [] op = none := rfl

@[simp] theorem prefixWord_cons (w : Half) (c : List Half) (op : BitVec 6) :
    prefixWord (w :: c) op = if op6 w = op then some w else prefixWord c op := by
  by_cases h : op6 w = op <;> simp [prefixWord, h]

@[simp] theorem prefixBody_nil (op : BitVec 6) : prefixBody [] op = 0 := rfl

@[simp] theorem prefixBody_cons (w : Half) (c : List Half) (op : BitVec 6) :
    prefixBody (w :: c) op = if op6 w = op then body w else prefixBody c op := by
  unfold prefixBody; rw [prefixWord_cons]
  by_cases h : op6 w = op
  · rw [if_pos h, if_pos h]
  · rw [if_neg h, if_neg h]

@[simp] theorem xiBodies_nil : xiBodies [] = [] := rfl

@[simp] theorem xiBodies_cons (w : Half) (c : List Half) :
    xiBodies (w :: c) = if op6 w = 0x3C then body w :: xiBodies c else xiBodies c := by
  unfold xiBodies
  by_cases h : op6 w = 0x3C
  · rw [List.filter_cons_of_pos (by simpa using h), if_pos h]; rfl
  · rw [List.filter_cons_of_neg (by simpa using h), if_neg h]

theorem prefixWord_xiWords (xs : List (BitVec 10)) {op : BitVec 6} (h : op ≠ 0x3C) : prefixWord (xs.map xiWord) op = none := by
  induction xs with
  | nil => rfl
  | cons e xs ih => rw [List.map_cons, prefixWord_cons, if_neg (by rw [op6_xiWord]; exact Ne.symm h), ih]

@[simp] theorem xiBodies_xiWords (xs : List (BitVec 10)) : xiBodies (xs.map xiWord) = xs := by
  induction xs with
  | nil => rfl
  | cons e xs ih => simp [ih]

-- the chain before a base word
theorem chainWord_base {c : List Half} {w : Half} (h : (op6 w).toNat < 0x3C) : chainWord c w = .done := if_pos h

theorem chainWord_prefix {c : List Half} {w : Half} (h : 0x3C ≤ (op6 w).toNat) (hc : c.length < 4)
    (hr : op6 w = 0x3C ∨ ∀ v ∈ c, op6 v ≠ op6 w) (hz : reservedBits w = false) : chainWord c w = .more (c ++ [w]) := by
  have hr' : (op6 w ≠ 0x3C && c.any fun v => op6 v = op6 w) = false := by
    rcases hr with hr | hr
    · simp [hr]
    · have : (c.any fun v => decide (op6 v = op6 w)) = false := by simpa using hr
      simp [this]
  unfold chainWord
  rw [if_neg (by omega), if_neg (by simp only [hr', hz]; simpa using hc)]

theorem decode_base {w : Half} (h : (op6 w).toNat < 0x3C) : decode [w] = decodeBase [] w := by
  simp only [decode, decodeFrom, chainWord_base h]

theorem decode_prefix_base {v w : Half} (hv : 0x3C ≤ (op6 v).toNat) (hz : reservedBits v = false) (h : (op6 w).toNat < 0x3C) :
    decode [v, w] = decodeBase [v] w := by
  simp only [decode, decodeFrom, chainWord_prefix (c := []) hv (by simp) (.inr (by simp)) hz, List.nil_append, chainWord_base h]

theorem decode_two_prefixes_base {u v w : Half} (hu : 0x3C ≤ (op6 u).toNat) (hv : 0x3C ≤ (op6 v).toNat) (huv : op6 u ≠ op6 v)
    (hzu : reservedBits u = false) (hzv : reservedBits v = false) (h : (op6 w).toNat < 0x3C) :
    decode [u, v, w] = decodeBase [u, v] w := by
  simp only [decode, decodeFrom, chainWord_prefix hu (c := []) (by simp) (.inr (by simp)) hzu, List.nil_append,
    chainWord_prefix hv (c := [u]) (by simp) (.inr (by simpa using huv)) hzv, List.singleton_append, chainWord_base h]

/-- A reserved bit set in the first word is refused at once (R33). -/
theorem decode_reserved {v : Half} {ws : List Half} (hv : 0x3C ≤ (op6 v).toNat) (hz : reservedBits v = true) :
    ∃ e, decode (v :: ws) = .bad e := by
  refine ⟨⟨.chainShape, v, 0⟩, ?_⟩
  have : chainWord [] v = .bad ⟨.chainShape, v, 0⟩ := by
    unfold chainWord; rw [if_neg (by omega), if_pos (by simp [hz])]; rfl
  simp only [decode, decodeFrom, this]

/-- XI words enter the chain as they come, while it has room (R33). -/
theorem decodeFrom_xiWords (xs : List (BitVec 10)) (c ws : List Half) (h : c.length + xs.length ≤ 4) :
    decodeFrom c (xs.map xiWord ++ ws) = decodeFrom (c ++ xs.map xiWord) ws := by
  induction xs generalizing c with
  | nil => simp
  | cons e xs ih =>
    simp only [List.length_cons] at h
    have hz : reservedBits (xiWord e) = false := by simp [reservedBits]
    have := chainWord_prefix (c := c) (w := xiWord e) (by simp) (by omega) (.inl (by simp)) hz
    simp only [List.map_cons, List.cons_append, decodeFrom, this]
    rw [ih _ (by simp; omega)]; simp

-- the base word
theorem firstBad_eq_none {t : Half → Bool} {k : Nat} {c : List Half} : firstBad t k c = none ↔ ∀ w ∈ c, t w = false := by
  induction c generalizing k with
  | nil => simp [firstBad]
  | cons w c ih => by_cases h : t w <;> simp [firstBad, h, ih]

theorem firstBad_of_mem {t : Half → Bool} {c : List Half} {w : Half} (hw : w ∈ c) (ht : t w = true) (k : Nat) :
    ∃ x, firstBad t k c = some x := by
  rcases e : firstBad t k c with _ | x
  · exact absurd ht (by simp [firstBad_eq_none.mp e w hw])
  · exact ⟨x, rfl⟩

/-- A chain that passes checks 3-5 of R39 gives the instruction of its entry. -/
theorem decodeBase_ok {c : List Half} {base : Half} {sp : OpSpec} (hp : ∀ w ∈ c, op6 w = 0x3E → chainPage c ≠ 0)
    (hs : opSpec (chainPage c) (op6 base).toNat = some sp)
    (hr : ∀ w ∈ c, refusesPrefix (chainPage c) (op6 base).toNat sp w = false) (hx : noXmAccepted sp.xm = true)
    (hb : baseFieldsLegal (chainPage c) (op6 base).toNat sp (chainFields sp c base) base = true) :
    decodeBase c base = .ok (sp.make (chainFields sp c base)) (c.length + 1) := by
  have h1 : firstBad (fun w => op6 w = 0x3E && chainPage c = 0) 0 c = none :=
    firstBad_eq_none.mpr fun w hw => by simpa using hp w hw
  simp only [decodeBase, h1, hs, firstBad_eq_none.mpr hr, hx, hb]; simp

/-- A word of the chain that the entry refuses ends in a failure (check 4 of R39). -/
theorem decodeBase_refused {c : List Half} {base w : Half} {sp : OpSpec} (hs : opSpec (chainPage c) (op6 base).toNat = some sp)
    (hw : w ∈ c) (hr : refusesPrefix (chainPage c) (op6 base).toNat sp w = true) : ∃ e, decodeBase c base = .bad e := by
  obtain ⟨x, hx⟩ := firstBad_of_mem hw hr 0
  unfold decodeBase
  simp only [hs, hx]
  split <;> exact ⟨_, rfl⟩

/-- A base-word field that the entry does not have ends in a failure (check 5 of R39). -/
theorem decodeBase_badField {c : List Half} {base : Half} {sp : OpSpec} (hs : opSpec (chainPage c) (op6 base).toNat = some sp)
    (hb : baseFieldsLegal (chainPage c) (op6 base).toNat sp (chainFields sp c base) base = false) : ∃ e, decodeBase c base = .bad e := by
  unfold decodeBase
  simp only [hs, hb]
  split
  · exact ⟨_, rfl⟩
  · split
    · exact ⟨_, rfl⟩
    · split <;> exact ⟨_, by simp; rfl⟩

/-- What a chain can decode to: nothing under page 0 with an XP, else an unassigned encoding or the instruction of its point, whose entry
refuses no word of the chain. -/
theorem decodeBase_inv {c : List Half} {base : Half} {i : Instr} {k : Nat} (h : decodeBase c base = .ok i k) :
    (∀ w ∈ c, op6 w = 0x3E → chainPage c ≠ 0) ∧
    ((∃ n, i = .unassignedOpcode (BitVec.ofNat 2 (chainPage c)) base n) ∨
      ∃ sp, opSpec (chainPage c) (op6 base).toNat = some sp ∧
        (∀ w ∈ c, refusesPrefix (chainPage c) (op6 base).toNat sp w = false) ∧ i = sp.make (chainFields sp c base)) := by
  unfold decodeBase at h
  simp only at h
  split at h
  · cases h
  next h1 =>
  refine ⟨fun w hw => by simpa using firstBad_eq_none.mp h1 w hw, ?_⟩
  split at h
  · injection h with h; exact .inl ⟨_, h.symm⟩
  next sp hs =>
  split at h
  · cases h
  next h2 =>
  split at h
  · cases h
  split at h
  · injection h with h; exact .inr ⟨sp, hs, firstBad_eq_none.mp h2, h.symm⟩
  · cases h

end Sys2Proof
end

section
/-! PROOFS. The words of the three-register instructions of page 0 (spec/02_encoding.md R29-R36, R41; spec/04_threads_registers.md R83). -/
namespace Sys2Proof

-- base words of the RRR layout
/-- The fields of an RRR base word under prefixes p and an XP with modifier 0. -/
def rrrFields (p : Pfx) (f1 f2 f3 : RegNo) (x : Bool) : Fields := { Fields.plain p with f1 := f1, f2 := f2, f3 := f3, x := x }

theorem chainFields_rrr {sp : OpSpec} {c : List Half} (hl : sp.layout = .rrr) (hi : sp.imm = .none) (hm : prefixWord c 0x3F = none)
    (hd : (prefixBody c 0x3E).extractLsb' 0 8 = 0) (op : BitVec 6) (d a b : BitVec 3) (v : BitVec 1) :
    chainFields sp c (rrrWord op d a b v) =
      rrrFields (chainPfx c) (regField (sp.f1 = .reg && (prefixBody c 0x3D).getLsbD 9) d)
        (regField (sp.f2 = .reg && (prefixBody c 0x3D).getLsbD 8) a) (regField (sp.f3 = .reg && (prefixBody c 0x3D).getLsbD 7) b)
        (decide (v = 1)) := by
  have hb : prefixBody c 0x3F = 0 := by unfold prefixBody; rw [hm]
  simp only [chainFields, hl, hi, hb, hd, rrrFields, Fields.plain, hasF1, hasF2, hasF3, rrrWord_f1, rrrWord_f2, rrrWord_f3, rrrWord_x, immOf]
  rfl

theorem legal_rrr_reg {page op : Nat} {mk : Fields → Instr} {x : Bool} {f : Fields} {base : Half} (hx : x = true ∨ f.x = false)
    (hp : isPair page op = false) : baseFieldsLegal page op (rrr .reg .reg .reg mk x) f base = true := by
  rcases hx with rfl | hx <;> simp [baseFieldsLegal, rrr, wfUse, *]

-- the high bits that XR gives (R30, R32)
theorem regField_getLsbD (h : BitVec 1) (n : BitVec 3) : regField (h.getLsbD 0) n = h ++ n := by revert h n; decide

theorem regField_xr_f1 (hd ha hb n : BitVec 1) (g d : BitVec 3) :
    regField ((body (xrWord (hd ++ ha ++ hb) g n)).getLsbD 9) d = hd ++ d := by
  rw [xrWord_high _ _ _ 2, ← regField_getLsbD]; simp only [BitVec.getLsbD_append]; rfl

theorem regField_xr_f2 (hd ha hb n : BitVec 1) (g a : BitVec 3) :
    regField ((body (xrWord (hd ++ ha ++ hb) g n)).getLsbD 8) a = ha ++ a := by
  rw [xrWord_high _ _ _ 1, ← regField_getLsbD]; simp only [BitVec.getLsbD_append]; rfl

theorem regField_xr_f3 (hd ha hb n : BitVec 1) (g b : BitVec 3) :
    regField ((body (xrWord (hd ++ ha ++ hb) g n)).getLsbD 7) b = hb ++ b := by
  rw [xrWord_high _ _ _ 0, ← regField_getLsbD]; simp only [BitVec.getLsbD_append]; rfl

section
variable {op : BitVec 6} {mk : Fields → Instr} {x : Bool} {v : BitVec 1}

/-- An RRR point of page 0 whose three fields are registers: its word alone. -/
theorem decode_rrr (hs : opSpec 0 op.toNat = some (rrr .reg .reg .reg mk x)) (ho : op.toNat < 0x3C) (hx : x = true ∨ v = 0)
    (d a b : BitVec 3) :
    decode [rrrWord op d a b v] = .ok (mk (rrrFields .none (0#1 ++ d) (0#1 ++ a) (0#1 ++ b) (decide (v = 1)))) 1 := by
  have hf := chainFields_rrr (sp := rrr .reg .reg .reg mk x) (c := []) rfl rfl rfl rfl op d a b v
  rw [decode_base (by simpa using ho), decodeBase_ok (sp := rrr .reg .reg .reg mk x) (by simp) (by rw [op6_rrrWord]; exact hs) (by simp) rfl,
    hf]
  · rfl
  · rw [hf]
    refine legal_rrr_reg (hx.imp_right fun h => ?_) rfl
    simp [rrrFields, h]

/-- The same point after an XR word: the high bits of the registers, and the guard. -/
theorem decode_xr_rrr (hs : opSpec 0 op.toNat = some (rrr .reg .reg .reg mk x)) (ho : op.toNat < 0x3C) (hx : x = true ∨ v = 0)
    (d a b g : BitVec 3) (hd ha hb n : BitVec 1) :
    decode [xrWord (hd ++ ha ++ hb) g n, rrrWord op d a b v] =
      .ok (mk (rrrFields (xrPfx g n) (hd ++ d) (ha ++ a) (hb ++ b) (decide (v = 1)))) 2 := by
  have hf := chainFields_rrr (sp := rrr .reg .reg .reg mk x) (c := [xrWord (hd ++ ha ++ hb) g n]) rfl rfl (by simp) (by simp)
    op d a b v
  have hr : ∀ w ∈ [xrWord (hd ++ ha ++ hb) g n], refusesPrefix 0 op.toNat (rrr .reg .reg .reg mk x) w = false := by
    simp [refusesPrefix, rrr]
  have hpage : chainPage [xrWord (hd ++ ha ++ hb) g n] = 0 := by simp [chainPage]
  rw [decode_prefix_base (by simp) (by simp) (by simpa using ho),
    decodeBase_ok (sp := rrr .reg .reg .reg mk x) (by simp) (by rw [op6_rrrWord, hpage]; exact hs) (by rw [op6_rrrWord, hpage]; exact hr) rfl, hf]
  · have hb' : prefixBody [xrWord (hd ++ ha ++ hb) g n] 0x3D = body (xrWord (hd ++ ha ++ hb) g n) := by simp
    have hp : chainPfx [xrWord (hd ++ ha ++ hb) g n] = xrPfx g n := by simp [chainPfx, Pfx.none]
    simp only [hp, hb', rrr, decide_true, Bool.true_and, regField_xr_f1, regField_xr_f2, regField_xr_f3, List.length_singleton]
  · rw [hf]
    refine legal_rrr_reg (hx.imp_right fun h => ?_) (by rw [hpage]; rfl)
    simp [rrrFields, h]

/-- Two words decode to what the second word means in the chain of the first. -/
theorem decode_two_inv {w base : Half} {i : Instr} {k : Nat} (hw : 0x3C ≤ (op6 w).toNat) (hb : (op6 base).toNat < 0x3C)
    (h : decode [w, base] = .ok i k) : decodeBase [w] base = .ok i k := by
  rcases hz : reservedBits w
  · exact decode_prefix_base hw hz hb ▸ h
  · obtain ⟨e, he⟩ := decode_reserved (ws := [base]) hw hz
    rw [he] at h; cases h

/-- Every instruction of the map stands on the page where the map has it (R41-R44). -/
theorem page_of_make {page n : Nat} {sp : OpSpec} (hs : opSpec page n = some sp) (f : Fields) :
    (fieldsOf (sp.make f)).map Prod.fst = some page := by
  have h0 : ∀ sp ∈ page0a ++ page0b ++ page0c, (fieldsOf (sp.make f)).map Prod.fst = some 0 := List.map_eq_replicate_iff.mp rfl
  have h1 : ∀ sp ∈ page1a ++ page1b, (fieldsOf (sp.make f)).map Prod.fst = some 1 := List.map_eq_replicate_iff.mp rfl
  have h2 : ∀ sp ∈ page2a ++ page2b, (fieldsOf (sp.make f)).map Prod.fst = some 2 := List.map_eq_replicate_iff.mp rfl
  have h3 : ∀ sp ∈ page3a ++ page3b, (fieldsOf (sp.make f)).map Prod.fst = some 3 := List.map_eq_replicate_iff.mp rfl
  unfold opSpec at hs
  split at hs
  · exact h0 sp (List.mem_of_getElem? hs)
  · exact h1 sp (List.mem_of_getElem? hs)
  · exact h2 sp (List.mem_of_getElem? hs)
  · exact h3 sp (List.mem_of_getElem? hs)
  · cases hs

/-- A three-register point of page 0 refuses XI and XM, and its word after an XP is of another page or of none (R33, R36). -/
theorem decode_rrr_other_prefix (hs : opSpec 0 op.toNat = some (rrr .reg .reg .reg mk x)) (ho : op.toNat < 0x3C) (d a b : BitVec 3) {w : Half}
    (hw : op6 w ∈ [0x3C#6, 0x3E, 0x3F]) {i : Instr} {k : Nat} (h : decode [w, rrrWord op d a b v] = .ok i k) :
    (fieldsOf i).map Prod.fst ≠ some 0 := by
  have hw' : 0x3C ≤ (op6 w).toNat := by
    simp only [List.mem_cons, List.not_mem_nil, or_false] at hw
    rcases hw with e | e | e <;> simp [e]
  obtain ⟨hp, hi⟩ := decodeBase_inv (decode_two_inv hw' (by simpa using ho) h)
  rcases hi with ⟨n, rfl⟩ | ⟨sp, hsp, hr, rfl⟩
  · exact (Option.some_ne_none 0).symm
  rw [op6_rrrWord] at hsp hr
  rw [page_of_make hsp]
  intro hz
  have hz : chainPage [w] = 0 := by simpa using hz
  rw [hz, hs] at hsp
  obtain rfl := Option.some.inj hsp
  have hr := hr w (by simp)
  simp only [List.mem_cons, List.not_mem_nil, or_false] at hw
  rcases hw with e | e | e
  · simp [refusesPrefix, e, rrr] at hr
  · exact hp w (by simp) e hz
  · simp [refusesPrefix, e, rrr, xmAccepted] at hr
end

-- the three-register points of page 0
/-- An opcode and a value of bit [0] name a three-register instruction of page 0 (R41). -/
def ThreeRegisterPoint (q : BitVec 6 × BitVec 1 × (Pfx → RegNo → RegNo → RegNo → Instr)) : Prop :=
  ∃ mk x, opSpec 0 q.1.toNat = some (rrr .reg .reg .reg mk x) ∧ q.1.toNat < 0x3C ∧ (x = true ∨ q.2.1 = 0) ∧
    ∀ p d a b, mk (rrrFields p d a b (decide (q.2.1 = 1))) = q.2.2 p d a b

theorem ThreeRegisterPoint.decodes {q : BitVec 6 × BitVec 1 × (Pfx → RegNo → RegNo → RegNo → Instr)} (hq : ThreeRegisterPoint q)
    (d a b g : BitVec 3) (hd ha hb n : BitVec 1) :
    decode [rrrWord q.1 d a b q.2.1] = .ok (q.2.2 .none (0#1 ++ d) (0#1 ++ a) (0#1 ++ b)) 1 ∧
    decode [xrWord (hd ++ ha ++ hb) g n, rrrWord q.1 d a b q.2.1] = .ok (q.2.2 (xrPfx g n) (hd ++ d) (ha ++ a) (hb ++ b)) 2 ∧
    ∀ (w : Half) (p : Pfx) (d' a' b' : RegNo) (k : Nat), op6 w ∈ [0x3C#6, 0x3E, 0x3F] →
      decode [w, rrrWord q.1 d a b q.2.1] ≠ .ok (q.2.2 p d' a' b') k := by
  obtain ⟨mk, x, hs, ho, hx, hmk⟩ := hq
  refine ⟨?_, ?_, fun w p d' a' b' k hw h => ?_⟩
  · rw [decode_rrr hs ho hx, hmk]
  · rw [decode_xr_rrr hs ho hx, hmk]
  · exact decode_rrr_other_prefix hs ho d a b hw h (by rw [← hmk]; exact page_of_make hs _)

end Sys2Proof
end

section
/-! PROOFS. The words of predicate logic, which stand behind an XP of page 1 (spec/02_encoding.md R30-R36, spec/04_threads_registers.md R88). -/
namespace Sys2Proof

/-- The XP word of page 1 with modifier 0 (R36). -/
def xpPage1 : Half := 0xF900

@[simp] theorem op6_xpPage1 : op6 xpPage1 = 0x3E := by decide

@[simp] theorem body_xpPage1 : body xpPage1 = 0x100 := by decide

@[simp] theorem reservedBits_xpPage1 : reservedBits xpPage1 = false := by decide

theorem chainPage_xpPage1 (c : List Half) : chainPage (xpPage1 :: c) = 1 := by simp [chainPage]

@[simp] theorem prOf_low (n : BitVec 3) : prOf (regField false n) = n := by revert n; decide

theorem toNat_regField_low (n : BitVec 3) : (regField false n).toNat < 8 := by revert n; decide

theorem regField_low_eq_zero {n : BitVec 3} : regField false n = 0#4 ↔ n = 0#3 := by revert n; decide

/-- What an entry refuses of an XR word: a high bit of a field that is no register (R30, R33). -/
theorem refusesPrefix_xr {page op : Nat} {sp : OpSpec} {w : Half} (hw : op6 w = 0x3D) :
    refusesPrefix page op sp w =
      (((body w).getLsbD 9 && sp.f1 ≠ .reg) || ((body w).getLsbD 8 && sp.f2 ≠ .reg) || ((body w).getLsbD 7 && sp.f3 ≠ .reg)) := by
  unfold refusesPrefix; rw [hw]; rfl

section
variable {op : BitVec 6} {u : Use} {mk : Fields → Instr}

/-- An entry without register fields refuses an XR word exactly when a high bit is set. -/
theorem refusesPrefix_xrWord {page op : Nat} (hu : u = .pred ∨ u = .off) (h g : BitVec 3) (n : BitVec 1) :
    refusesPrefix page op (rrr .pred .pred u mk) (xrWord h g n) = decide (h ≠ 0) := by
  have e : (h.getLsbD 2 || h.getLsbD 1 || h.getLsbD 0) = decide (h ≠ 0) := by revert h; decide
  rw [refusesPrefix_xr (op6_xrWord h g n), xrWord_high h g n 2, xrWord_high h g n 1, xrWord_high h g n 0, ← e]
  rcases hu with rfl | rfl <;> simp [rrr]

theorem refusesPrefix_xpPage1 {op : Nat} : refusesPrefix 1 op (rrr .pred .pred u mk) xpPage1 = false := by
  simp [refusesPrefix, mdAccepted]

/-- Predicate fields have no high bit, and an unused field and bit [0] are zero (R30). -/
theorem legal_rrr_pred {op : Nat} (ho : isPair 1 op = false) (hu : u = .pred ∨ u = .off) (p : Pfx) (f1 f2 f3 : BitVec 3) (x : Bool) (base : Half) :
    baseFieldsLegal 1 op (rrr .pred .pred u mk) (rrrFields p (regField false f1) (regField false f2) (regField false f3) x) base =
      (decide (u ≠ .off ∨ f3 = 0) && !x) := by
  have h := toNat_regField_low
  rcases hu with rfl | rfl <;> simp [baseFieldsLegal, rrr, rrrFields, Fields.plain, wfUse, ho, h, regField_low_eq_zero]

/-- Under XP, with or without XR, the fields of an entry without registers are the low bits alone. -/
theorem chainFields_rrr_pred {c : List Half} (hu : u = .pred ∨ u = .off) (hm : prefixWord c 0x3F = none)
    (hd : (prefixBody c 0x3E).extractLsb' 0 8 = 0) (a b d : BitVec 3) (v : BitVec 1) :
    chainFields (rrr .pred .pred u mk) c (rrrWord op d a b v) =
      rrrFields (chainPfx c) (regField false d) (regField false a) (regField false b) (decide (v = 1)) := by
  rw [chainFields_rrr rfl rfl hm hd]
  rcases hu with rfl | rfl <;> rfl

/-- A point of page 1 without register fields: its word behind XP, refused where an unused field or bit [0] is set. -/
theorem decode_xp_rrr (hs : opSpec 1 op.toNat = some (rrr .pred .pred u mk)) (ho : op.toNat < 0x28) (hu : u = .pred ∨ u = .off) (d a b : BitVec 3) :
    (u ≠ .off ∨ b = 0 →
      decode [xpPage1, rrrWord op d a b 0] = .ok (mk (rrrFields .none (regField false d) (regField false a) (regField false b) false)) 2) ∧
    ∀ v : BitVec 1, ¬(u ≠ .off ∨ b = 0) ∨ v = 1 → ∃ e, decode [xpPage1, rrrWord op d a b v] = .bad e := by
  have hpair : isPair 1 op.toNat = false := by simp [isPair]; omega
  have hf := chainFields_rrr_pred (op := op) (mk := mk) (c := [xpPage1]) hu (by simp) (by simp) a b d
  have hpage := chainPage_xpPage1 []
  have hb : (op6 (rrrWord op d a b 0)).toNat < 0x3C := by rw [op6_rrrWord]; omega
  refine ⟨fun hz => ?_, fun v hz => ?_⟩
  · rw [decode_prefix_base (by simp) (by simp) hb,
      decodeBase_ok (sp := rrr .pred .pred u mk) (by simp [hpage]) (by rw [op6_rrrWord, hpage]; exact hs)
        (by rw [List.forall_mem_singleton, hpage, op6_rrrWord]; exact refusesPrefix_xpPage1) rfl, hf]
    · rfl
    · rw [hf, hpage, op6_rrrWord, legal_rrr_pred hpair hu]; simp only [decide_eq_true hz]; rfl
  · rw [decode_prefix_base (by simp) (by simp) (by rw [op6_rrrWord]; omega)]
    refine decodeBase_badField (sp := rrr .pred .pred u mk) (by rw [op6_rrrWord, hpage]; exact hs) ?_
    rw [hf, hpage, op6_rrrWord, legal_rrr_pred hpair hu]
    rcases hz with hz | rfl
    · rw [decide_eq_false hz, Bool.false_and]
    · simp

/-- The same point with a guard: refused where XR has a high bit. -/
theorem decode_xp_xr_rrr (hs : opSpec 1 op.toNat = some (rrr .pred .pred u mk)) (ho : op.toNat < 0x28) (hu : u = .pred ∨ u = .off)
    (d a b g : BitVec 3) (n : BitVec 1) :
    (u ≠ .off ∨ b = 0 → decode [xpPage1, xrWord 0 g n, rrrWord op d a b 0] =
      .ok (mk (rrrFields (xrPfx g n) (regField false d) (regField false a) (regField false b) false)) 3) ∧
    ∀ h : BitVec 3, h ≠ 0 → ∃ e, decode [xpPage1, xrWord h g n, rrrWord op d a b 0] = .bad e := by
  have hpair : isPair 1 op.toNat = false := by simp [isPair]; omega
  have hpage (h) := chainPage_xpPage1 [xrWord h g n]
  have hb (h) : decode [xpPage1, xrWord h g n, rrrWord op d a b 0] = decodeBase [xpPage1, xrWord h g n] (rrrWord op d a b 0) :=
    decode_two_prefixes_base (by simp) (by simp) (by simp) (by simp) (by simp) (by rw [op6_rrrWord]; omega)
  have hs' (h) : opSpec (chainPage [xpPage1, xrWord h g n]) (op6 (rrrWord op d a b 0)).toNat = some (rrr .pred .pred u mk) := by
    rw [op6_rrrWord, hpage]; exact hs
  refine ⟨fun hz => ?_, fun h hh => ?_⟩
  · have hf := chainFields_rrr_pred (op := op) (mk := mk) (c := [xpPage1, xrWord 0 g n]) hu (by simp) (by simp) a b d
    have hr : ∀ w ∈ [xpPage1, xrWord 0 g n], refusesPrefix (chainPage [xpPage1, xrWord 0 g n]) (op6 (rrrWord op d a b 0)).toNat
        (rrr .pred .pred u mk) w = false := by
      rw [List.forall_mem_cons, List.forall_mem_singleton, hpage]
      exact ⟨refusesPrefix_xpPage1, by rw [refusesPrefix_xrWord hu]; rfl⟩
    rw [hb, decodeBase_ok (by simp [hpage]) (hs' 0) hr rfl, hf]
    · have : chainPfx [xpPage1, xrWord 0 g n] = xrPfx g n := by simp [chainPfx, Pfx.none]
      rw [this]; rfl
    · rw [hf, hpage, op6_rrrWord, legal_rrr_pred hpair hu]; simp only [decide_eq_true hz]; rfl
  · rw [hb]
    exact decodeBase_refused (hs' h) (w := xrWord h g n) (by simp) (by rw [refusesPrefix_xrWord hu]; simpa using hh)

/-- The words of predicate logic (R88): i behind XP, ix with a guard, and no word with a high bit in XR, a source that the point does not have, or
bit [0]. -/
theorem predicateLogic_words (hs : opSpec 1 op.toNat = some (rrr .pred .pred u mk)) (ho : op.toNat < 0x28) (hu : u = .pred ∨ u = .off)
    {pd pa pb b g : BitVec 3} {n : BitVec 1} (hb : u ≠ .off ∨ b = 0) (hop : op = 3 ∨ op = 4 → u = .off) {i ix : Instr}
    (hi : mk (rrrFields .none (regField false pd) (regField false pa) (regField false b) false) = i)
    (hix : mk (rrrFields (xrPfx g n) (regField false pd) (regField false pa) (regField false b) false) = ix) (h : BitVec 3) (x : BitVec 1) :
    decode [xpPage1, rrrWord op pd pa b 0] = .ok i 2 ∧ decode [xpPage1, xrWord 0 g n, rrrWord op pd pa b 0] = .ok ix 3 ∧
    (h ≠ 0 → ∃ e, decode [xpPage1, xrWord h g n, rrrWord op pd pa b 0] = .bad e) ∧
    ((op = 3 ∨ op = 4) ∧ pb ≠ 0 ∨ x = 1 → ∃ e, decode [xpPage1, rrrWord op pd pa pb x] = .bad e) := by
  obtain ⟨hok, -⟩ := decode_xp_rrr hs ho hu pd pa b
  obtain ⟨-, hbad⟩ := decode_xp_rrr hs ho hu pd pa pb
  obtain ⟨hxr, hhigh⟩ := decode_xp_xr_rrr hs ho hu pd pa b g n
  refine ⟨hi ▸ hok hb, hix ▸ hxr hb, hhigh h, fun hx => hbad x (hx.imp_left ?_)⟩
  rintro ⟨h34, hpb⟩
  exact fun hn => hn.elim (fun hu => hu (hop h34)) hpb
end

end Sys2Proof
end

section
/-! PROOFS. Words with an immediate that XI words extend (spec/02_encoding.md R34), and a base word behind them. -/
namespace Sys2Proof

/-- The prefixes of a chain of XI words alone. -/
abbrev xiPfx (n : Nat) : Pfx := { Pfx.none with xi := n }

/-- The fields behind XI words are those of the base word alone, but for the count of the prefixes and the immediate. -/
theorem chainFields_xiWords (sp : OpSpec) (xs : List (BitVec 10)) (base : Half) :
    chainFields sp (xs.map xiWord) base =
      { chainFields sp [] base with p := xiPfx xs.length, imm := immOf sp.imm sp.layout xs (body base) } := by
  have hw (op : BitVec 6) (h : op ≠ 0x3C) := prefixWord_xiWords xs h
  have hb (op : BitVec 6) (h : op ≠ 0x3C) : prefixBody (xs.map xiWord) op = 0 := by unfold prefixBody; rw [hw op h]
  have hp : chainPfx (xs.map xiWord) = xiPfx xs.length := by
    simp only [chainPfx, hw 0x3D (by decide), hw 0x3F (by decide), hb 0x3D (by decide), xiBodies_xiWords]; rfl
  simp only [chainFields, hp, hb 0x3D (by decide), hb 0x3E (by decide), hb 0x3F (by decide), xiBodies_xiWords]
  rfl

/-- A chain of XI words before a base word, where the entry takes an immediate, is the instruction of its point. -/
theorem decode_xiWords {xs : List (BitVec 10)} {base : Half} (sp : OpSpec) (hl : xs.length ≤ 4) (ho : (op6 base).toNat < 0x3C)
    (hs : opSpec 0 (op6 base).toNat = some sp) (hi : sp.imm ≠ .none) (hx : noXmAccepted sp.xm = true) {f : Fields}
    (hf : { chainFields sp [] base with p := xiPfx xs.length, imm := immOf sp.imm sp.layout xs (body base) } = f)
    (hb : baseFieldsLegal 0 (op6 base).toNat sp f base = true) :
    decode (xs.map xiWord ++ [base]) = .ok (sp.make f) (xs.length + 1) := by
  rw [← chainFields_xiWords] at hf
  have hpage : chainPage (xs.map xiWord) = 0 := by
    simp only [chainPage, prefixBody, prefixWord_xiWords xs (op := 0x3E) (by decide)]; rfl
  have hxi (w : Half) (hw : w ∈ xs.map xiWord) : op6 w = 0x3C := by
    obtain ⟨e, -, rfl⟩ := List.mem_map.mp hw; exact op6_xiWord e
  have hr : ∀ w ∈ xs.map xiWord, refusesPrefix 0 (op6 base).toNat sp w = false := fun w hw => by
    unfold refusesPrefix; rw [hxi w hw]; exact decide_eq_false hi
  rw [decode, decodeFrom_xiWords xs [] [base] (by simpa using hl), List.nil_append]
  simp only [decodeFrom, chainWord_base ho]
  rw [decodeBase_ok (sp := sp) (fun w hw h => by rw [hxi w hw] at h; exact absurd h (by decide)) (hpage ▸ hs) (hpage ▸ hr) hx
    (by rw [hf, hpage]; exact hb), hf]
  simp

-- the immediate (R34)
/-- The number that the XI words give is below 1,024 to their number. -/
theorem foldl_xi_lt (xs : List (BitVec 10)) (v : Nat) : xs.foldl (fun v e => v * 1024 + e.toNat) v < (v + 1) * 1024 ^ xs.length := by
  induction xs generalizing v with
  | nil => simp
  | cons e xs ih =>
    have he : e.toNat < 1024 := e.isLt
    calc (e :: xs).foldl (fun v e => v * 1024 + e.toNat) v
      _ < (v * 1024 + e.toNat + 1) * 1024 ^ xs.length := ih _
      _ ≤ (v + 1) * 1024 * 1024 ^ xs.length := Nat.mul_le_mul_right _ (by omega)
      _ = (v + 1) * 1024 ^ (e :: xs).length := by rw [List.length_cons, Nat.pow_succ', Nat.mul_assoc]

/-- Sign extension of a number held in a word is that of the number itself. -/
theorem sext_ofNat {n : Nat} (h : n ≤ 64) (v : Nat) : sext n (BitVec.ofNat 64 v) = (BitVec.ofNat n v).signExtend 64 := by
  rw [sext, BitVec.setWidth_ofNat_of_le h]

/-- A signed immediate of n bits with its XI words. -/
theorem immOf_signed {l : Layout} {xs : List (BitVec 10)} (hl : 10 * xs.length + immWidth l ≤ 64) (b : BitVec 10) :
    immOf .signed l xs b = (BitVec.ofNat (10 * xs.length + immWidth l) (rawImm xs (immWidth l) (lowImm l b))).signExtend 64 :=
  sext_ofNat hl _

/-- The words of `br` (R96). -/
theorem decode_br (pp : BitVec 3) (n : BitVec 1) (o : BitVec 6) (xs : List (BitVec 10)) (h : xs.length ≤ 4) :
    decode (xs.map xiWord ++ [mkWord 0x2E (pp ++ n ++ o)]) =
      .ok (.br (xiPfx xs.length) pp (decide (n = 1))
        ((BitVec.ofNat (10 * xs.length + 6) (xs.foldl (fun v e => v * 1024 + e.toNat) 0 * 64 + o.toNat)).signExtend 64)) (xs.length + 1) := by
  have hpp : (pp ++ n ++ o).extractLsb' 7 3 = pp := by simp only [BitVec.extractLsb'_append_eq_ite]; simp
  have ho : (pp ++ n ++ o).extractLsb' 0 6 = o := by simp only [BitVec.extractLsb'_append_eq_ite]; simp
  have hn : (pp ++ n ++ o).getLsbD 6 = decide (n = 1) := by
    simp only [BitVec.getLsbD_append]; rw [if_neg (by decide), if_pos (by decide), getLsbD_zero_bit]
  have hi := immOf_signed (l := .b) (xs := xs) (by simp [immWidth]; omega) (pp ++ n ++ o)
  refine (decode_xiWords (withImm .b .pred .off .signed fun f => .br f.p (prOf f.f1) f.x f.imm) (f :=
    { Fields.plain (xiPfx xs.length) with f1 := regField false pp, x := decide (n = 1), imm := immOf .signed .b xs (pp ++ n ++ o) })
    h (by simp) (by rw [op6_mkWord]; rfl) (by decide) rfl ?_ ?_).trans ?_
  · simp only [chainFields, withImm, body_mkWord, hpp, hn]; rfl
  · simp [baseFieldsLegal, withImm, wfUse, toNat_regField_low, Fields.plain, isPair]
  · simp only [withImm, prOf_low, hi, lowImm, ho]; rfl

/-- The words of `lea` (R93). -/
theorem decode_lea (d : BitVec 3) (i : BitVec 7) (xs : List (BitVec 10)) (h : xs.length ≤ 4) :
    decode (xs.map xiWord ++ [mkWord 0x38 (d ++ i)]) =
      .ok (.lea (xiPfx xs.length) (0#1 ++ d)
        ((BitVec.ofNat (10 * xs.length + 7) (xs.foldl (fun v e => v * 1024 + e.toNat) 0 * 128 + i.toNat)).signExtend 64)) (xs.length + 1) := by
  have hd : (d ++ i).extractLsb' 7 3 = d := BitVec.extractLsb'_append_eq_left
  have hi : (d ++ i).extractLsb' 0 7 = i := BitVec.extractLsb'_append_eq_right
  have himm := immOf_signed (l := .rw) (xs := xs) (by simp [immWidth]; omega) (d ++ i)
  refine (decode_xiWords (withImm .rw .reg .off .signed fun f => .lea f.p f.f1 f.imm) (f :=
    { Fields.plain (xiPfx xs.length) with f1 := regField false d, imm := immOf .signed .rw xs (d ++ i) })
    h (by simp) (by rw [op6_mkWord]; rfl) (by decide) rfl ?_ ?_).trans ?_
  · simp only [chainFields, withImm, body_mkWord, hd]; rfl
  · simp [baseFieldsLegal, withImm, wfUse, Fields.plain, isPair]
  · simp only [withImm, himm, lowImm, hi]; rfl

/-- The words of `trap` (R101). -/
theorem decode_trap (c : BitVec 10) (xs : List (BitVec 10)) (h : xs.length ≤ 4) :
    decode (xs.map xiWord ++ [mkWord 0x37 c]) =
      .ok (.trap (xiPfx xs.length) (BitVec.ofNat 64 (xs.foldl (fun v e => v * 1024 + e.toNat) 0 * 1024 + c.toNat))) (xs.length + 1) := by
  have hlt : xs.foldl (fun v e => v * 1024 + e.toNat) 0 * 1024 + c.toNat < 2 ^ 50 := by
    have hx := foldl_xi_lt xs 0
    have hc : c.toNat < 1024 := c.isLt
    have : 1024 ^ xs.length ≤ 1024 ^ 4 := Nat.pow_le_pow_right (by decide) h
    omega
  refine (decode_xiWords (withImm .s .off .off (.zext 0x3FFFFFFFFFFFF) fun f => .trap f.p f.imm) (f :=
    { Fields.plain (xiPfx xs.length) with imm := immOf (.zext 0x3FFFFFFFFFFFF) .s xs c })
    h (by simp) (by rw [op6_mkWord]; rfl) (by decide) rfl ?_ ?_).trans ?_
  · rw [body_mkWord]; rfl
  · simp [baseFieldsLegal, withImm, wfUse, Fields.plain, isPair, immOf, rawImm, immWidth, lowImm]
    omega
  · rfl

end Sys2Proof
end

section
/-! PROOFS. The arithmetic of the integer instructions as numbers (spec/04_threads_registers.md R83, R84, R87). -/
namespace Sys2Proof.Machine

/-- The high half of a 128-bit number, read as signed. -/
theorem highHalf_eq_div (p : BitVec 128) : p.extractLsb' 64 64 = BitVec.ofInt 64 (p.toInt / 2 ^ 64) := by
  have hp : p.toNat < 2 ^ 128 := p.isLt
  apply BitVec.eq_of_toNat_eq
  rw [BitVec.extractLsb'_toNat, BitVec.toNat_ofInt, BitVec.toInt_eq_toNat_cond, Nat.shiftRight_eq_div_pow]
  split <;> omega

/-- The product of two signed words fits in 128 bits. -/
theorem toInt_product (x y : Word) : ((x.signExtend 128 : BitVec 128) * y.signExtend 128).toInt = x.toInt * y.toInt := by
  have hx : x.toInt.natAbs ≤ 2 ^ 63 := by have := x.le_toInt; have := x.toInt_lt; omega
  have hy : y.toInt.natAbs ≤ 2 ^ 63 := by have := y.le_toInt; have := y.toInt_lt; omega
  have hxy : (x.toInt * y.toInt).natAbs ≤ 2 ^ 63 * 2 ^ 63 := by
    rw [Int.natAbs_mul]; exact Nat.mul_le_mul hx hy
  rw [BitVec.toInt_mul, BitVec.toInt_signExtend_of_le (by decide), BitVec.toInt_signExtend_of_le (by decide)]
  exact Int.bmod_eq_of_le (by omega) (by omega)

theorem mulHigh_signed (x y : Word) : mulHigh false x y = BitVec.ofInt 64 (x.toInt * y.toInt / 2 ^ 64) := by
  simp only [mulHigh, Bool.false_eq_true, if_false, highHalf_eq_div, toInt_product]

theorem mulHigh_unsigned (x y : Word) : mulHigh true x y = BitVec.ofNat 64 (x.toNat * y.toNat / 2 ^ 64) := by
  have hx : x.toNat < 2 ^ 64 := x.isLt
  have hy : y.toNat < 2 ^ 64 := y.isLt
  have hxy : x.toNat * y.toNat < 2 ^ 64 * 2 ^ 64 := Nat.mul_lt_mul'' hx hy
  apply BitVec.eq_of_toNat_eq
  simp [mulHigh, Nat.shiftRight_eq_div_pow]
  omega

theorem quotient_signed (x y : Word) :
    quotient false x y = if y = 0 then BitVec.allOnes 64 else BitVec.ofInt 64 (x.toInt.tdiv y.toInt) := by
  have h : x.sdiv y = BitVec.ofInt 64 (x.toInt.tdiv y.toInt) := by
    apply BitVec.eq_of_toInt_eq; rw [BitVec.toInt_sdiv, BitVec.toInt_ofInt]
  simp [quotient, h]

theorem quotient_unsigned (x y : Word) :
    quotient true x y = if y = 0 then BitVec.allOnes 64 else BitVec.ofNat 64 (x.toNat / y.toNat) := by
  have h : x / y = BitVec.ofNat 64 (x.toNat / y.toNat) := by rw [← BitVec.toNat_udiv, BitVec.ofNat_toNat, BitVec.setWidth_eq]
  simp [quotient, h]

theorem remainder_signed (x y : Word) :
    remainder false x y = if y = 0 then x else BitVec.ofInt 64 (x.toInt.tmod y.toInt) := by
  have h : x.srem y = BitVec.ofInt 64 (x.toInt.tmod y.toInt) := by rw [← BitVec.toInt_srem, BitVec.ofInt_toInt]
  simp [remainder, h]

theorem remainder_unsigned (x y : Word) :
    remainder true x y = if y = 0 then x else BitVec.ofNat 64 (x.toNat % y.toNat) := by
  have h : x % y = BitVec.ofNat 64 (x.toNat % y.toNat) := by rw [← BitVec.toNat_umod, BitVec.ofNat_toNat, BitVec.setWidth_eq]
  simp [remainder, h]

theorem shiftLeft_eq_mul (x : Word) (n : Nat) : x <<< n = BitVec.ofNat 64 (x.toNat * 2 ^ n) := by
  apply BitVec.eq_of_toNat_eq; simp [Nat.shiftLeft_eq]

theorem shiftRight_eq_div (x : Word) (n : Nat) : x >>> n = BitVec.ofNat 64 (x.toNat / 2 ^ n) := by
  rw [← Nat.shiftRight_eq_div_pow, ← BitVec.toNat_ushiftRight, BitVec.ofNat_toNat, BitVec.setWidth_eq]

theorem sshiftRight_eq_div (x : Word) (n : Nat) : x.sshiftRight n = BitVec.ofInt 64 (x.toInt / 2 ^ n) := by
  rw [← BitVec.ofInt_toInt (x := x.sshiftRight n), BitVec.toInt_sshiftRight, Int.shiftRight_eq_div_pow]; simp

-- shifts by a register count only its bits [5:0] (R83)
theorem shiftLeft_shiftCount (x y : Word) : x <<< shiftCount y = BitVec.ofNat 64 (x.toNat * 2 ^ (y.toNat % 64)) := shiftLeft_eq_mul x _

theorem shiftRight_shiftCount (x y : Word) : x >>> shiftCount y = BitVec.ofNat 64 (x.toNat / 2 ^ (y.toNat % 64)) := shiftRight_eq_div x _

theorem sshiftRight_shiftCount (x y : Word) : x.sshiftRight (shiftCount y) = BitVec.ofInt 64 (x.toInt / 2 ^ (y.toNat % 64)) :=
  sshiftRight_eq_div x _

theorem rotateLeft_shiftCount (x y : Word) :
    x.rotateLeft (shiftCount y) = (x <<< (y.toNat % 64)) ||| (x >>> (64 - y.toNat % 64)) := by
  rw [shiftCount, BitVec.rotateLeft_def, Nat.mod_mod]

theorem min_signed (x y : Word) : (if ltW false y x then y else x) = if x.toInt ≤ y.toInt then x else y := by
  simp only [ltW, BitVec.slt_eq_decide, Bool.false_eq_true, if_false, decide_eq_true_eq]
  by_cases h : x.toInt ≤ y.toInt
  · rw [if_pos h, if_neg (by omega)]
  · rw [if_neg h, if_pos (by omega)]

theorem min_unsigned (x y : Word) : (if ltW true y x then y else x) = if x.toNat ≤ y.toNat then x else y := by
  simp only [ltW, BitVec.ult_eq_decide, if_true, decide_eq_true_eq]
  by_cases h : x.toNat ≤ y.toNat
  · rw [if_pos h, if_neg (by omega)]
  · rw [if_neg h, if_pos (by omega)]

theorem max_signed (x y : Word) : (if ltW false x y then y else x) = if x.toInt ≤ y.toInt then y else x := by
  simp only [ltW, BitVec.slt_eq_decide, Bool.false_eq_true, if_false, decide_eq_true_eq]
  rcases Int.lt_trichotomy x.toInt y.toInt with h | h | h
  · rw [if_pos h, if_pos (by omega)]
  · rw [BitVec.eq_of_toInt_eq h, ite_self, ite_self]
  · rw [if_neg (by omega), if_neg (by omega)]

theorem max_unsigned (x y : Word) : (if ltW true x y then y else x) = if x.toNat ≤ y.toNat then y else x := by
  simp only [ltW, BitVec.ult_eq_decide, if_true, decide_eq_true_eq]
  rcases Nat.lt_trichotomy x.toNat y.toNat with h | h | h
  · rw [if_pos h, if_pos (by omega)]
  · rw [BitVec.eq_of_toNat_eq h, ite_self, ite_self]
  · rw [if_neg (by omega), if_neg (by omega)]

theorem zext_eq_and (n : Nat) (x m : Word) (hm : m.toNat = 2 ^ n - 1) : zext n x = x &&& m := by
  apply BitVec.eq_of_toNat_eq
  rw [BitVec.toNat_and, hm, Nat.and_two_pow_sub_one_eq_mod, zext, BitVec.toNat_setWidth, BitVec.toNat_setWidth]
  exact Nat.mod_eq_of_lt (Nat.lt_of_le_of_lt (Nat.mod_le _ _) x.isLt)

end Sys2Proof.Machine
end

section
/-! PROOFS. Instructions that write one register or one predicate and do nothing else, and the integer instructions
(spec/04_threads_registers.md R83-R88). -/
namespace Sys2Proof.Machine

/-- An instruction writes a value into a register, retires, and leaves everything else as it was. -/
def State.Yields (s : State) (i : Instr) (pg : Nat) (p : Pfx) (d : RegNo) (v : Reg) : Prop :=
  ∃ t, exec i s = .next t ∧ t.reg d = readBack d v ∧ s.RegisterOnly t [d] [] (s.nextPc pg p)

/-- An instruction writes a value into a predicate, retires, and leaves everything else as it was. -/
def State.Decides (s : State) (i : Instr) (pg : Nat) (p : Pfx) (pd : PredNo) (v : Bool) : Prop :=
  ∃ t, exec i s = .next t ∧ t.pred pd = predBack pd v ∧ s.RegisterOnly t [] [pd] (s.nextPc pg p)

theorem yields_of_guarded {s : State} {i : Instr} {pg : Nat} {p : Pfx} {d : RegNo} (v : State → Reg) (h : s.guardHolds p = true)
    (he : exec i s = guarded pg p s fun s => (s.setReg d (v s)).retire pg p) : s.Yields i pg p d (v s) :=
  ⟨_, he.trans (guarded_of_holds h), regOnly_setReg s pg p d (v s)⟩

theorem decides_of_guarded {s : State} {i : Instr} {pg : Nat} {p : Pfx} {pd : PredNo} (v : State → Bool) (h : s.guardHolds p = true)
    (he : exec i s = guarded pg p s fun s => (s.setPred pd (v s)).retire pg p) : s.Decides i pg p pd (v s) :=
  ⟨_, he.trans (guarded_of_holds h), regOnly_setPred s pg p pd (v s)⟩

/-- A three-register integer instruction yields its function of the two sources (R83). -/
theorem yields_intOp {s : State} {i : Instr} (f : Word → Word → Word) {p : Pfx} {d a b : RegNo} {v : Word} (h : s.guardHolds p = true)
    (he : exec i s = intOp f p d a b s) (hv : f (s.x a) (s.x b) = v) : s.Yields i 0 p d (.int v) :=
  hv ▸ yields_of_guarded (fun s => .int (f (s.x a) (s.x b))) h he

/-- An integer instruction of one source yields its function of it (R84, R87). -/
theorem yields_intOp1 {s : State} {i : Instr} (f : Word → Word) {p : Pfx} {d a : RegNo} {v : Word} (h : s.guardHolds p = true)
    (he : exec i s = intOp1 f p d a s) (hv : f (s.x a) = v) : s.Yields i 0 p d (.int v) :=
  hv ▸ yields_of_guarded (fun s => .int (f (s.x a))) h he

/-- Settles O10: the words by the points of the map, the results by the arithmetic of each operation, the frame by the law of a register write. -/
theorem integerResults : Obligations.IntegerResults := by
  unfold Obligations.IntegerResults
  refine ⟨⟨fun q hq d a b g hd ha hb n => ?_, fun s p d a b h => ?_⟩, fun s p d a imm h => ⟨?_, ?_⟩⟩
  · have hq : ThreeRegisterPoint q := by
      revert q
      simp only [List.forall_mem_cons, List.not_mem_nil, false_imp_iff, implies_true, and_true]
      and_intros
      all_goals exact ⟨_, _, rfl, by decide, by decide, fun _ _ _ _ => rfl⟩
    exact hq.decodes d a b g hd ha hb n
  · simp only [List.forall_mem_cons, List.not_mem_nil, false_imp_iff, implies_true, and_true]
    exact ⟨yields_intOp (· + ·) h rfl rfl, yields_intOp (· - ·) h rfl rfl, yields_intOp (· * ·) h rfl rfl,
      yields_intOp (mulHigh false) h rfl (mulHigh_signed _ _), yields_intOp (mulHigh true) h rfl (mulHigh_unsigned _ _),
      yields_intOp (quotient false) h rfl (quotient_signed _ _), yields_intOp (quotient true) h rfl (quotient_unsigned _ _),
      yields_intOp (remainder false) h rfl (remainder_signed _ _), yields_intOp (remainder true) h rfl (remainder_unsigned _ _),
      yields_intOp (· &&& ·) h rfl rfl, yields_intOp (· ||| ·) h rfl rfl, yields_intOp (· ^^^ ·) h rfl rfl,
      yields_intOp (fun x y => x &&& ~~~y) h rfl rfl, yields_intOp (fun x y => x <<< shiftCount y) h rfl (shiftLeft_shiftCount _ _),
      yields_intOp (fun x y => x >>> shiftCount y) h rfl (shiftRight_shiftCount _ _),
      yields_intOp (fun x y => x.sshiftRight (shiftCount y)) h rfl (sshiftRight_shiftCount _ _),
      yields_intOp (fun x y => x.rotateLeft (shiftCount y)) h rfl (rotateLeft_shiftCount _ _),
      yields_intOp (fun x y => if ltW false y x then y else x) h rfl (min_signed _ _),
      yields_intOp (fun x y => if ltW true y x then y else x) h rfl (min_unsigned _ _),
      yields_intOp (fun x y => if ltW false x y then y else x) h rfl (max_signed _ _),
      yields_intOp (fun x y => if ltW true x y then y else x) h rfl (max_unsigned _ _)⟩
  · simp only [List.forall_mem_cons, List.not_mem_nil, false_imp_iff, implies_true, and_true]
    exact ⟨yields_intOp1 (· + imm) h rfl rfl, yields_intOp1 (· &&& imm) h rfl rfl, yields_intOp1 (· ||| imm) h rfl rfl,
      yields_intOp1 (· ^^^ imm) h rfl rfl, yields_intOp1 (· <<< imm.toNat) h rfl (shiftLeft_eq_mul _ _),
      yields_intOp1 (· >>> imm.toNat) h rfl (shiftRight_eq_div _ _),
      yields_intOp1 (·.sshiftRight imm.toNat) h rfl (sshiftRight_eq_div _ _), yields_of_guarded (fun _ => .int imm) h rfl,
      yields_of_guarded (·.reg a) h rfl,
      yields_intOp1 (sext 8) h rfl rfl, yields_intOp1 (sext 16) h rfl rfl, yields_intOp1 (sext 32) h rfl rfl,
      yields_intOp1 (zext 8) h rfl (zext_eq_and 8 _ _ rfl), yields_intOp1 (zext 16) h rfl (zext_eq_and 16 _ _ rfl),
      yields_intOp1 (zext 32) h rfl (zext_eq_and 32 _ _ rfl)⟩
  · exact ⟨_, (guarded_of_holds h : execNop p s = _), retire_registerOnly s 0 p⟩
end Sys2Proof.Machine
end

section
/-! PROOFS. Bit counts, compares and predicate logic (spec/04_threads_registers.md R86-R88). -/
namespace Sys2Proof.Machine

-- counts of bits (R87)
/-- The length of the longest initial run where a test holds: it holds before, and fails at the end of it. -/
theorem takeWhile_length_spec (q : Nat → Bool) (l : List Nat) (n : Nat) (hn : n = (l.takeWhile q).length) :
    n ≤ l.length ∧ (∀ k (h : k < l.length), k < n → q l[k] = true) ∧ ∀ h : n < l.length, q l[n] = false := by
  have e : n = l.findIdx (fun i => !q i) := by
    rw [hn, List.takeWhile_eq_take_findIdx_not, List.length_take, Nat.min_eq_left List.findIdx_le_length]
  subst e
  refine ⟨List.findIdx_le_length, fun k h hk => ?_, fun h => ?_⟩
  · simpa using List.not_of_lt_findIdx hk
  · simpa using List.findIdx_getElem (w := h)

theorem leadingZeros_spec (x : Word) : leadingZeros x ≤ 64 ∧ (∀ k, k < leadingZeros x → x.getLsbD (63 - k) = false) ∧
    (leadingZeros x < 64 → x.getLsbD (63 - leadingZeros x) = true) := by
  obtain ⟨hle, hbefore, hat⟩ := takeWhile_length_spec (fun i => !x.getLsbD i) (List.range 64).reverse (leadingZeros x) rfl
  simp only [List.length_reverse, List.length_range, List.getElem_reverse, List.getElem_range] at hle hbefore hat
  exact ⟨hle, fun k hk => by simpa using hbefore k (by omega) hk, fun h => by simpa using hat h⟩

theorem trailingZeros_spec (x : Word) : trailingZeros x ≤ 64 ∧ (∀ k, k < trailingZeros x → x.getLsbD k = false) ∧
    (trailingZeros x < 64 → x.getLsbD (trailingZeros x) = true) := by
  obtain ⟨hle, hbefore, hat⟩ := takeWhile_length_spec (fun i => !x.getLsbD i) (List.range 64) (trailingZeros x) rfl
  simp only [List.length_range, List.getElem_range] at hle hbefore hat
  exact ⟨hle, fun k hk => by simpa using hbefore k (by omega) hk, fun h => by simpa using hat h⟩

theorem popcount_eq_countP (x : Word) : popcount x = (List.range 64).countP fun k => x.getLsbD k := by
  rw [popcount, List.countP_eq_length_filter]

-- compares (R86)
/-- A compare of two registers decides its relation. -/
theorem decides_cmpOp {s : State} {i : Instr} (r : Word → Word → Bool) {p : Pfx} {pd : PredNo} {a b : RegNo} {v : Bool}
    (h : s.guardHolds p = true) (he : exec i s = cmpOp r p pd a b s) (hv : r (s.x a) (s.x b) = v) : s.Decides i 0 p pd v :=
  hv ▸ decides_of_guarded (fun s => r (s.x a) (s.x b)) h he

/-- A compare with an immediate decides its test. -/
theorem decides_cmpImm {s : State} {i : Instr} (r : Word → Bool) {p : Pfx} {pd : PredNo} {a : RegNo} {v : Bool}
    (h : s.guardHolds p = true) (he : exec i s = cmpImm r p pd a s) (hv : r (s.x a) = v) : s.Decides i 0 p pd v :=
  hv ▸ decides_of_guarded (fun s => r (s.x a)) h he

theorem equals_eq (x y : Word) : (decide (x = y) ^^ false) = decide (x = y) := Bool.xor_false _

theorem differs_eq (x y : Word) : (decide (x = y) ^^ true) = decide (x ≠ y) := by simp

/-- Settles O11: the counts by the longest run of zero bits, the compares and predicate logic by the law of a predicate write, the words by the points
of page 1. -/
theorem countsComparesAndPredicates : Obligations.CountsComparesAndPredicates := by
  unfold Obligations.CountsComparesAndPredicates
  refine ⟨fun s p d a h => ⟨?_, ?_, ?_⟩, fun pd pa pb g n hi x => ?_, fun s p pd pa pb a b imm h => ?_⟩
  · obtain ⟨t, ht, hd, hr⟩ := yields_intOp1 (s := s) (i := .clz p d a false) (fun x => BitVec.ofNat 64 (leadingZeros x)) h rfl rfl
    obtain ⟨hle, hbefore, hat⟩ := leadingZeros_spec (s.x a)
    exact ⟨t, _, ht, hle, hd, hbefore, hat, hr⟩
  · obtain ⟨t, ht, hd, hr⟩ := yields_intOp1 (s := s) (i := .clz p d a true) (fun x => BitVec.ofNat 64 (trailingZeros x)) h rfl rfl
    obtain ⟨hle, hbefore, hat⟩ := trailingZeros_spec (s.x a)
    exact ⟨t, _, ht, hle, hd, hbefore, hat, hr⟩
  · exact yields_intOp1 (fun x => BitVec.ofNat 64 (popcount x)) h rfl (by rw [popcount_eq_countP])
  · have two (op : BitVec 6) {mk : Fields → Instr} := @predicateLogic_words op .pred mk
    have one (op : BitVec 6) {mk : Fields → Instr} := @predicateLogic_words op .off mk
    refine List.forall_mem_cons.mpr ⟨two 0 rfl (by decide) (.inl rfl) (.inl (by decide)) (by decide) ?_ ?_ hi x,
      List.forall_mem_cons.mpr ⟨two 1 rfl (by decide) (.inl rfl) (.inl (by decide)) (by decide) ?_ ?_ hi x,
      List.forall_mem_cons.mpr ⟨two 2 rfl (by decide) (.inl rfl) (.inl (by decide)) (by decide) ?_ ?_ hi x,
      List.forall_mem_cons.mpr ⟨one 3 rfl (by decide) (.inr rfl) (.inr rfl) (by decide) ?_ ?_ hi x,
      List.forall_mem_singleton.mpr (one 4 rfl (by decide) (.inr rfl) (.inr rfl) (by decide) ?_ ?_ hi x)⟩⟩⟩⟩
    all_goals simp only [rrrFields, Fields.plain, prOf_low]
  · simp only [List.forall_mem_cons, List.not_mem_nil, false_imp_iff, implies_true, and_true]
    exact ⟨decides_cmpOp (fun x y => xor (x = y) false) h rfl (equals_eq _ _), decides_cmpOp (fun x y => xor (x = y) true) h rfl (differs_eq _ _),
      decides_cmpOp (ltW false) h rfl rfl, decides_cmpOp (ltW true) h rfl rfl, decides_cmpOp (leW false) h rfl rfl,
      decides_cmpOp (leW true) h rfl rfl, decides_cmpImm (fun x => x = imm) h rfl rfl, decides_cmpImm (fun x => x.slt imm) h rfl rfl,
      decides_of_guarded (fun s => s.pred pa && s.pred pb) h rfl, decides_of_guarded (fun s => s.pred pa || s.pred pb) h rfl,
      decides_of_guarded (fun s => xor (s.pred pa) (s.pred pb)) h rfl, decides_of_guarded (fun s => !s.pred pa) h rfl,
      decides_of_guarded (fun s => s.pred pa) h rfl, decides_of_guarded (fun s => (s.reg a).tag) h rfl⟩

end Sys2Proof.Machine
end

section
/-! PROOFS. Capabilities bit by bit: moving a cursor, restricting permissions, making a capability of an image (spec/04_threads_registers.md R77,
R90-R94). -/
namespace Sys2Proof.Machine

-- bits of a register
/-- A run of n ones from bit lo on. -/
theorem getLsbD_ones (n lo k : Nat) (hk : k < 128) :
    (BitVec.ofNat 128 (2 ^ n - 1) <<< lo).getLsbD k = decide (lo ≤ k ∧ k < lo + n) := by
  rw [BitVec.getLsbD_shiftLeft, BitVec.getLsbD_ofNat, Nat.testBit_two_pow_sub_one]
  simp only [hk, decide_true, Bool.true_and]
  by_cases h : k < lo
  · simp [h, Nat.not_le.mpr h]
  · have hlt : k - lo < 128 := by omega
    simp only [h, hlt, decide_false, decide_true, Bool.not_false, Bool.true_and]
    exact decide_eq_decide.mpr (by omega)

theorem getLsbD_withCursor (r : Reg) (v : VAddr) (k : Nat) (hk : k < 128) :
    (r.withCursor v).bits.getLsbD k = if k < 48 then v.getLsbD k else r.bits.getLsbD k := by
  simp only [Reg.withCursor, BitVec.getLsbD_or, BitVec.getLsbD_shiftLeft, BitVec.getLsbD_ushiftRight, BitVec.getLsbD_setWidth]
  by_cases h : k < 48
  · simp [h, hk]
  · rw [BitVec.getLsbD_of_ge v k (by omega), show 48 + (k - 48) = k by omega]; simp [h, hk]

/-- The permissions that `cperm` leaves (R90). -/
def restrictedPerms (a : Reg) (m : Word) : BitVec 9 :=
  (a.perms &&& (m.setWidth 8).setWidth 9) ||| (if m.getLsbD 8 then permLOC else 0) ||| (a.perms &&& permLOC)

/-- `cperm` changes the permission bits and no other. -/
theorem getLsbD_restrict (a : Reg) (m : Word) (k : Nat) (hk : k < 128) :
    (restrict a m).bits.getLsbD k = if 48 ≤ k ∧ k < 57 then (restrictedPerms a m).getLsbD (k - 48) else a.bits.getLsbD k := by
  have hmask : ((0x1FF#128) <<< 48).getLsbD k = decide (48 ≤ k ∧ k < 57) := getLsbD_ones 9 48 k hk
  have hb : (restrict a m).bits = (a.bits &&& ~~~((0x1FF#128) <<< 48)) ||| ((restrictedPerms a m).setWidth 128 <<< 48) := rfl
  rw [hb, BitVec.getLsbD_or, BitVec.getLsbD_and, BitVec.getLsbD_not, hmask, BitVec.getLsbD_shiftLeft, BitVec.getLsbD_setWidth]
  by_cases h : 48 ≤ k ∧ k < 57
  · have h1 : k - 48 < 128 := by omega
    simp [h, h1, hk]
  · have h1 : k < 48 ∨ 9 ≤ k - 48 := by omega
    rcases h1 with h1 | h1
    · simp [h, h1, hk]
    · simp [h, hk, BitVec.getLsbD_of_ge _ _ h1]

theorem bitsOf_eq_extract (x : BitVec 128) (hi lo : Nat) : bitsOf x.toNat hi lo = (x.extractLsb' lo (hi + 1 - lo)).toNat := by
  rw [BitVec.extractLsb'_toNat, Nat.shiftRight_eq_div_pow]; rfl

/-- Bounds are read from the bits from 64 on. -/
theorem bounds_congr {r r' : Reg} (h : ∀ k, 64 ≤ k → k < 128 → r.bits.getLsbD k = r'.bits.getLsbD k) :
    r.base = r'.base ∧ r.length = r'.length := by
  have e (lo n : Nat) (hlo : 64 ≤ lo) (hn : lo + n ≤ 128) : r.bits.extractLsb' lo n = r'.bits.extractLsb' lo n := by
    apply BitVec.eq_of_getLsbD_eq
    intro i hi
    simp only [BitVec.getLsbD_extractLsb', h (lo + i) (by omega) (by omega)]
  simp only [Reg.base, Reg.length, bitsOf_eq_extract, e 64 44 (by decide) (by decide), e 108 15 (by decide) (by decide),
    e 123 5 (by decide) (by decide), and_self]

theorem restrict_bounds (a : Reg) (m : Word) : (restrict a m).base = a.base ∧ (restrict a m).length = a.length :=
  bounds_congr fun k h1 h2 => by rw [getLsbD_restrict a m k h2, if_neg (by omega)]

theorem restrict_cursor (a : Reg) (m : Word) : (restrict a m).cursor = a.cursor := by
  apply BitVec.eq_of_getLsbD_eq
  intro k hk
  simp only [Reg.cursor, BitVec.getLsbD_setWidth]
  rw [getLsbD_restrict a m k (by omega), if_neg (by omega)]

theorem restrict_perms (a : Reg) (m : Word) : (restrict a m).perms = restrictedPerms a m := by
  apply BitVec.eq_of_getLsbD_eq
  intro k hk
  rw [Reg.perms, BitVec.getLsbD_extractLsb', getLsbD_restrict a m _ (by omega), if_pos (by omega), Nat.add_sub_cancel_left]
  simp [hk]

/-- Below LOC the permissions are masked. -/
theorem restrictedPerms_low (a : Reg) (m : Word) (k : Nat) (hk : k < 8) :
    (restrictedPerms a m).getLsbD k = (a.perms.getLsbD k && m.getLsbD k) := by
  have hloc : permLOC.getLsbD k = false := by revert k; decide
  have hif : (if m.getLsbD 8 then permLOC else 0).getLsbD k = false := by split <;> simp [hloc]
  simp only [restrictedPerms, BitVec.getLsbD_or, BitVec.getLsbD_and, hif, hloc, BitVec.getLsbD_setWidth]
  rw [Bool.and_false, Bool.or_false, Bool.or_false]
  simp [hk, show k < 9 by omega]

/-- LOC is added where the mask has it, and never removed. -/
theorem restrictedPerms_loc (a : Reg) (m : Word) : (restrictedPerms a m).getLsbD 8 = (a.perms.getLsbD 8 || m.getLsbD 8) := by
  have hloc : permLOC.getLsbD 8 = true := rfl
  have hif : (if m.getLsbD 8 then permLOC else 0).getLsbD 8 = m.getLsbD 8 := by
    cases h : m.getLsbD 8 <;> rfl
  simp only [restrictedPerms, BitVec.getLsbD_or, BitVec.getLsbD_and, hif, hloc, BitVec.getLsbD_setWidth]
  simp [Bool.or_comm]

/-- The capability that system level makes of an untagged image: the cursor placed and the reserved bits cleared (R94). -/
theorem getLsbD_minted (a : Reg) (v : VAddr) (k : Nat) (hk : k < 128) :
    ((a.withCursor v).bits &&& ~~~((0x7F#128) <<< 57)).getLsbD k =
      if k < 48 then v.getLsbD k else if 57 ≤ k ∧ k ≤ 63 then false else a.bits.getLsbD k := by
  have hmask : ((0x7F#128) <<< 57).getLsbD k = decide (57 ≤ k ∧ k < 64) := getLsbD_ones 7 57 k hk
  rw [BitVec.getLsbD_and, BitVec.getLsbD_not, hmask, getLsbD_withCursor a v k hk]
  by_cases h : k < 48
  · have h2 : ¬(57 ≤ k ∧ k < 64) := by omega
    simp [h, h2, hk]
  · by_cases h2 : 57 ≤ k ∧ k ≤ 63
    · simp [h, h2]; omega
    · have h3 : ¬(57 ≤ k ∧ k < 64) := by omega
      simp [h, h2, h3, hk]

end Sys2Proof.Machine
end

section
/-! PROOFS. The capability instructions that read, move, copy, restrict and make (spec/04_threads_registers.md R90-R94). -/
namespace Sys2Proof.Machine

theorem ofNat_ite (c : Bool) (n : Nat) : BitVec.ofNat 64 (if c then n else 0) = if c then BitVec.ofNat 64 n else 0 := by
  cases c <;> rfl

/-- An instruction that reads a part of a capability yields it (R91). -/
theorem yields_partOp {s : State} {i : Instr} (f : Reg → Nat) {p : Pfx} {d a : RegNo} {v : Word} (h : s.guardHolds p = true)
    (he : exec i s = partOp f p d a s) (hv : BitVec.ofNat 64 (f (s.reg a)) = v) : s.Yields i 1 p d (.int v) :=
  hv ▸ yields_of_guarded (fun s => .int (BitVec.ofNat 64 (f (s.reg a)))) h he

/-- `cperm` restricts a tagged source, and takes 0x03 of an untagged one (R90). -/
theorem exec_cperm {s : State} {p : Pfx} {d a b : RegNo} (h : s.guardHolds p = true) :
    exec (.cperm p d a b) s =
      .next (if (s.reg a).tag then (s.setReg d (restrict (s.reg a) (s.x b))).retire 1 p else s.takeTrap 0x03 0) :=
  (guarded_of_holds h : execCperm p d a b s = _)

theorem cperm_yields {s : State} {p : Pfx} {d a b : RegNo} (h : s.guardHolds p = true) (ht : (s.reg a).tag = true) :
    s.Yields (.cperm p d a b) 1 p d (restrict (s.reg a) (s.x b)) :=
  ⟨_, by rw [exec_cperm h, if_pos ht], regOnly_setReg s 1 p d _⟩

theorem cperm_traps {s : State} {p : Pfx} {d a b : RegNo} (h : s.guardHolds p = true) (ht : (s.reg a).tag = false) :
    exec (.cperm p d a b) s = .next (s.takeTrap 0x03 0) := by
  rw [exec_cperm h, if_neg (by simp [ht])]

/-- `cfrom` writes what the placing of the cursor answers, or takes its trap (R94). -/
theorem exec_cfrom {s : State} {p : Pfx} {d a b : RegNo} (h : s.guardHolds p = true) :
    exec (.cfrom p d a b) s =
      .next (s.checked (placeCursor s.thr.priv (s.reg a) (addrOf (s.x b))) fun r => (s.setReg d r).retire 1 p) :=
  (guarded_of_holds h : execCfrom p d a b s = _)

theorem cfrom_yields {s : State} {p : Pfx} {d a b : RegNo} {r : Reg} (h : s.guardHolds p = true)
    (hr : placeCursor s.thr.priv (s.reg a) (addrOf (s.x b)) = .ok r) : s.Yields (.cfrom p d a b) 1 p d r :=
  ⟨_, by rw [exec_cfrom h, hr, checked_ok], regOnly_setReg s 1 p d r⟩

theorem cfrom_traps {s : State} {p : Pfx} {d a b : RegNo} (h : s.guardHolds p = true) (ht : (s.reg a).tag = false) (hp : s.thr.priv = 0) :
    exec (.cfrom p d a b) s = .next (s.takeTrap 0x03 0) := by
  have hc : placeCursor s.thr.priv (s.reg a) (addrOf (s.x b)) = .error (0x03, 0) := by simp [placeCursor, ht, hp]
  rw [exec_cfrom h, hc, checked_error]

/-- Settles O12: reads and cursor moves by the law of a register write, `cperm` and `cfrom` bit by bit, the words of `lea` by the words behind XI. -/
theorem capabilityFields : Obligations.CapabilityFields := by
  unfold Obligations.CapabilityFields
  refine ⟨⟨fun d i xs hl => decode_lea d i xs hl, fun s p d a b imm h => ?_⟩, fun s p d a b h => ⟨fun ht => ?_, fun ht => ?_, fun ht hp => ?_,
    fun ht hp hi hv => ?_⟩⟩
  · simp only [List.forall_mem_cons, List.not_mem_nil, false_imp_iff, implies_true, and_true]
    exact ⟨yields_partOp (fun r => if r.tag then r.base else 0) h rfl (ofNat_ite _ _),
      yields_partOp (fun r => if r.tag then r.limit % 2 ^ 49 else 0) h rfl (ofNat_ite _ _),
      yields_partOp (fun r => r.cursor.toNat) h rfl (BitVec.ofNat_toNat _ _),
      yields_of_guarded (fun s => { s.reg a with tag := false }) h rfl,
      yields_of_guarded (fun s => moveCursor (s.reg a) (s.x b)) h rfl,
      yields_of_guarded (fun s => moveCursor (s.reg a) imm) h rfl,
      yields_of_guarded (fun s => s.thr.pcc.withCursor (s.pc + imm.setWidth 48)) h rfl⟩
  · obtain ⟨t, he, hd, hr⟩ := cperm_yields (d := d) (b := b) h ht
    obtain ⟨hbase, hlength⟩ := restrict_bounds (s.reg a) (s.x b)
    exact ⟨t, _, he, hd, ht, restrict_cursor _ _, hbase, hlength,
      fun k hk => by rw [restrict_perms, restrictedPerms_low _ _ k hk], by rw [restrict_perms, restrictedPerms_loc], hr⟩
  · exact cfrom_yields h (by simp [placeCursor, ht])
  · have hc : placeCursor s.thr.priv (s.reg a) (addrOf (s.x b)) =
        .ok { tag := true, bits := ((s.reg a).withCursor (addrOf (s.x b))).bits &&& ~~~((0x7F#128) <<< 57) } := by
      simp [placeCursor, ht, Nat.one_le_iff_ne_zero, hp]
    obtain ⟨t, he, hd, hr⟩ := cfrom_yields (d := d) h hc
    refine ⟨t, _, he, hd, rfl, fun k hk => ?_, hr⟩
    rw [getLsbD_minted _ _ k hk]
    split
    · rw [addrOf, BitVec.getLsbD_setWidth]; simp [*]
    · rfl
  · exact ⟨⟨_, cfrom_traps h ht hp, takeTrap_entersTvec hi hp rfl hv⟩, ⟨_, cperm_traps h ht, takeTrap_entersTvec hi hp rfl hv⟩⟩

end Sys2Proof.Machine
end

section
/-! PROOFS. Control transfers (spec/04_threads_registers.md R95-R98). -/
namespace Sys2Proof.Machine

-- what a transfer keeps (R95)
theorem transfer_eq {s : State} {c : Reg} (h : c.Executable) : s.transfer c = s.withThr fun th => { th with pcc := c }.countRetired := by
  simp only [State.transfer, checkCap_of_covers h, checked_ok]

theorem transfer_sameSelf {s : State} {c : Reg} (h : c.Executable) : s.thr.SameSelf (s.transfer c).thr := by
  rw [transfer_eq h]; simp [Thread.SameSelf]

theorem transfer_pinned {s : State} {c : Reg} (h : c.Executable) (hp : (s.transfer c).thr.pinned = true) : s.thr.pinned = true := by
  rw [transfer_eq h] at hp; exact cr_pin { s.thr with pcc := c } hp

/-- A transfer relative to PCC retires the instruction at its target, and changes nothing else. -/
theorem transfer_codeAt {s : State} {a : VAddr} (h : (s.codeAt a).Executable) : s.RegisterOnly (s.transfer (s.codeAt a)) [] [] a := by
  have g := transfer_goesTo (s := s) h
  exact { retires := ⟨by rw [State.pc, Arch.pc, g.pcc]; exact pc_withCursor _ _, g.pcc, g.retc, g.stat, transfer_pinned h⟩
          regs := g.regs, preds := g.preds, specials := g.specials, memory := g.memory, self := transfer_sameSelf h, sb := g.sb, around := g.around }

-- calls (R97, R98)
/-- A call writes c15 and transfers. -/
theorem callTo_eq {s : State} {c : Reg} (h : c.Executable) (link : VAddr) :
    s.callTo c link = (s.setReg 15 (s.codeAt link)).transfer c := by
  simp only [State.callTo, checkCap_of_covers h, checked_ok]

/-- What stands after a transfer behind a register write, seen from before the write. -/
theorem goesTo_of_setReg {s t : State} {d : RegNo} {v c : Reg} (h : (s.setReg d v).GoesTo t c []) : s.GoesTo t c [d] ∧ t.reg d = readBack d v := by
  have hreg (r : RegNo) : t.reg r = if r = d then readBack d v else s.reg r := by rw [h.regs r (by simp), reg_setReg]
  refine ⟨{ pcc := h.pcc, retc := by simpa using h.retc, regs := fun r hr => ?_, preds := fun q hq => ?_, specials := ?_, stat := ?_,
            memory := fun a => ?_, sb := by simpa using h.sb, around := ?_ }, by rw [hreg, if_pos rfl]⟩
  · rw [hreg, if_neg (by simpa using hr)]
  · rw [h.preds q hq]; simp [State.pred]
  · rw [h.specials]; simp [Arch.specials]
  · simpa using h.stat
  · simpa [State.tagAt, State.fullAt, State.psnAt] using h.memory a
  · rw [h.around]; simp [State.surroundings]

theorem callTo_goesTo {s : State} {c : Reg} (h : c.Executable) (link : VAddr) :
    s.GoesTo (s.callTo c link) c [15] ∧ (s.callTo c link).reg 15 = s.codeAt link := by
  rw [callTo_eq h]
  exact goesTo_of_setReg (transfer_goesTo h)

/-- A call relative to PCC retires at its target with the link in c15, and changes nothing else. -/
theorem callTo_codeAt {s : State} {a link : VAddr} (h : (s.codeAt a).Executable) : s.RegisterOnly (s.callTo (s.codeAt a) link) [15] [] a := by
  obtain ⟨g, -⟩ := callTo_goesTo h link
  have hself : s.thr.SameSelf (s.setReg 15 (s.codeAt link)).thr := by simp [Thread.SameSelf]
  obtain ⟨h1, h2, h3, h4, h5, h6⟩ := hself
  have ht := transfer_sameSelf (s := s.setReg 15 (s.codeAt link)) h
  obtain ⟨k1, k2, k3, k4, k5, k6⟩ := callTo_eq h link ▸ ht
  have hpin (hp : (s.callTo (s.codeAt a) link).thr.pinned = true) : s.thr.pinned = true := by
    rw [callTo_eq h] at hp
    simpa [Thread.pinned] using transfer_pinned h hp
  exact { retires := ⟨by rw [State.pc, Arch.pc, g.pcc]; exact pc_withCursor _ _, g.pcc, g.retc, g.stat, hpin⟩
          regs := g.regs, preds := g.preds, specials := g.specials, memory := g.memory, sb := g.sb, around := g.around
          self := ⟨k1.trans h1, k2.trans h2, k3.trans h3, k4.trans h4, k5.trans h5, k6.trans h6⟩ }

-- targets (R27, R95)
theorem target_eq (s : State) (off : Word) : s.target off = s.pc + 2 * off.setWidth 48 := by
  rw [State.target, BitVec.shiftLeft_eq_mul_twoPow, BitVec.mul_comm]; rfl

theorem exec_br {s : State} {p : Pfx} {pp : PredNo} {n : Bool} {off : Word} (h : s.guardHolds p = true) :
    exec (.br p pp n off) s =
      .next (if (s.pred pp != n) = true then s.transfer (s.codeAt (s.pc + 2 * off.setWidth 48)) else s.retire 0 p) := by
  rw [← target_eq]; exact (guarded_of_holds h : execBr p pp n off s = _)

/-- Settles O22: transfers and calls by what a transfer keeps, the words of `br` by the words behind XI. -/
theorem transfers : Obligations.Transfers := by
  unfold Obligations.Transfers
  refine ⟨⟨fun pp n o xs hl => decode_br pp n o xs hl, fun s p pp n off h => ⟨fun hn => ?_, fun hx => ⟨fun hn => ?_, ?_, ?_⟩⟩⟩,
    fun s p a c h hx => ⟨fun hc => ⟨?_, ?_⟩, fun hc => ?_⟩⟩
  · exact ⟨_, by rw [exec_br h, if_neg (by simp [hn])], retire_registerOnly s 0 p⟩
  · exact ⟨_, by rw [exec_br h, if_pos hn], transfer_codeAt hx⟩
  · rw [← target_eq] at hx ⊢
    exact ⟨_, (guarded_of_holds h : execJmp p off s = _), transfer_codeAt hx⟩
  · rw [← target_eq] at hx ⊢
    exact ⟨_, (guarded_of_holds h : execCall p off s = _), callTo_codeAt hx, (callTo_goesTo hx _).2⟩
  · subst hc
    exact ⟨_, (guarded_of_holds h : execJr p a s = _), transfer_goesTo hx⟩
  · subst hc
    obtain ⟨hgoes, hlink⟩ := callTo_goesTo hx (s.nextPc 0 p)
    exact ⟨_, (guarded_of_holds h : execCallr p a s = _), hgoes, hlink⟩
  · subst hc
    exact ⟨_, (guarded_of_holds h : execRet p s = _), transfer_goesTo hx⟩

end Sys2Proof.Machine
end

section
/-! PROOFS. `trap`, `brk` and `eret` (spec/04_threads_registers.md R101; spec/16_traps_preemption.md R361-R369). -/
namespace Sys2Proof.Machine

theorem exec_trap {s : State} {p : Pfx} {code : Word} (h : s.guardHolds p = true) : exec (.trap p code) s = .next (s.takeTrap 0x10 code) :=
  (guarded_of_holds h : execTrap p code s = _)

theorem exec_brk {s : State} {p : Pfx} {code : Word} (h : s.guardHolds p = true) : exec (.brk p code) s = .next (s.takeTrap 0x0F code) :=
  (guarded_of_holds h : execBrk p code s = _)

theorem exec_eret {s : State} {p : Pfx} (h : s.guardHolds p = true) : exec (.eret p) s = .next (s.returnFromTrap (.eret p)) :=
  (guarded_of_holds h : execEret p s = _)

/-- A trap at system level with an executable SVEC: the saved registers, SVEC in PCC, the old PCC in SPCC, and nothing else (R366). -/
theorem takeTrap_system {s : State} {c : Nat} {v : Word} (hi : s.thr.intervalOpen = false) (hp : s.thr.priv = 1)
    (hv : (s.tile s.tileNo).svec.Executable) :
    let t := s.takeTrap c v
    s.TrapSaved t c v ∧ t.thr.pcc = (s.tile s.tileNo).svec ∧ (t.tile s.tileNo).spcc = s.thr.pcc ∧ t.thr.stat = s.thr.stat ∧
      t.thr.regs = s.thr.regs ∧ t.thr.preds = s.thr.preds ∧ t.thr.retc = s.thr.retc ∧ s.MemoryKept t := by
  rw [takeTrap_entersSvec hi hp hv]
  have htile := tile_modTile (s.saveTrap c v) s.tileNo s.tileNo fun x => { x with spcc := s.thr.pcc }
  rw [if_pos rfl] at htile
  exact ⟨⟨rfl, rfl, rfl, rfl⟩, rfl, congrArg Tile.spcc htile, rfl, rfl, rfl, rfl, fun _ => ⟨rfl, rfl, rfl, rfl⟩⟩

-- returns (R369)
/-- The capability that `eret` returns to: the gang's code, or SPCC's above user level, at EPC. -/
def State.returnCap (s : State) : Reg :=
  (if s.thr.estat.extractLsb' 6 2 = 0 then s.codeCap else (s.tile s.tileNo).spcc).withCursor s.thr.epc

/-- The status that `eret` leaves: PIN, TDM and NRB, bits [5:3], of the status now, the rest of ESTAT (R82, R369). -/
def returnStat (stat estat : BitVec 9) : BitVec 9 := (stat &&& 0x38) ||| (estat &&& 0x1C7)

theorem getLsbD_returnStat (stat estat : BitVec 9) (k : Nat) (hk : k < 9) :
    (returnStat stat estat).getLsbD k = if k = 3 ∨ k = 4 ∨ k = 5 then stat.getLsbD k else estat.getLsbD k := by
  have h1 : (0x38 : BitVec 9).getLsbD k = decide (k = 3 ∨ k = 4 ∨ k = 5) := by revert k; decide
  have h2 : (0x1C7 : BitVec 9).getLsbD k = !decide (k = 3 ∨ k = 4 ∨ k = 5) := by revert k; decide
  rw [returnStat, BitVec.getLsbD_or, BitVec.getLsbD_and, BitVec.getLsbD_and, h1, h2]
  by_cases h : k = 3 ∨ k = 4 ∨ k = 5 <;> simp [h]

/-- `eret` to a level not above the thread's own, to code that may be executed, retires there with the status of the return. -/
theorem returnFromTrap_eq {s : State} (i : Instr) (hl : (s.thr.estat.extractLsb' 6 2).toNat ≤ s.thr.priv) (hx : s.returnCap.Executable) :
    s.returnFromTrap i =
      s.withThr fun th => { th with pcc := s.returnCap, stat := returnStat th.stat s.thr.estat }.countRetired := by
  have hr : s.returnFromTrap i = s.checked (checkCap s.returnCap 2 permX) fun _ =>
      s.withThr fun th => { th with pcc := s.returnCap, stat := returnStat th.stat s.thr.estat }.countRetired := by
    have hz : s.thr.estat.extractLsb' 6 2 = 0 ↔ (s.thr.estat.extractLsb' 6 2).toNat = 0 :=
      ⟨fun h => by rw [h]; rfl, fun h => BitVec.eq_of_toNat_eq h⟩
    simp only [State.returnCap, hz]
    exact if_neg (Nat.not_lt.mpr hl)
  rw [hr, checkCap_of_covers hx, checked_ok]

/-- Above the thread's own level `eret` is privileged (R369). -/
theorem returnFromTrap_privileged {s : State} (i : Instr) (hl : s.thr.priv < (s.thr.estat.extractLsb' 6 2).toNat) :
    s.returnFromTrap i = s.privileged i := if_pos hl

/-- The level of a status word is its bits [7:6]. -/
theorem priv_congr {a b : BitVec 9} (h6 : a.getLsbD 6 = b.getLsbD 6) (h7 : a.getLsbD 7 = b.getLsbD 7) :
    (a.extractLsb' 6 2).toNat = (b.extractLsb' 6 2).toNat := by
  congr 1
  apply BitVec.eq_of_getLsbD_eq
  intro k hk
  rw [BitVec.getLsbD_extractLsb', BitVec.getLsbD_extractLsb']
  rcases Nat.lt_succ_iff_lt_or_eq.mp hk with h | rfl
  · rw [Nat.lt_one_iff.mp h, h6]
  · rw [h7]

/-- What stands after `eret`: the level, the status bits and the counters of the return, and everything else as before. -/
theorem returnFromTrap_returns {s : State} (i : Instr) (hl : (s.thr.estat.extractLsb' 6 2).toNat ≤ s.thr.priv) (hx : s.returnCap.Executable) :
    let t := s.returnFromTrap i
    t.thr.pcc = s.returnCap ∧ t.thr.priv = (s.thr.estat.extractLsb' 6 2).toNat ∧
      (∀ k, k < 9 → k ≠ 3 → t.thr.stat.getLsbD k = if k = 4 || k = 5 then s.thr.stat.getLsbD k else s.thr.estat.getLsbD k) ∧
      s.RegsKept t [] ∧ s.PredsKept t [] ∧ t.thr.specials = s.thr.specials ∧ s.MemoryKept t ∧ t.surroundings = s.surroundings ∧
      t.thr.retc = s.thr.retc + 1 := by
  rw [returnFromTrap_eq i hl hx]
  let th : Thread := { s.thr with pcc := s.returnCap, stat := returnStat s.thr.stat s.thr.estat }
  have hstat (k : Nat) (hk : k < 9) (h3 : k ≠ 3) :
      th.countRetired.stat.getLsbD k = if k = 4 ∨ k = 5 then s.thr.stat.getLsbD k else s.thr.estat.getLsbD k := by
    rw [cr_stat th k h3, getLsbD_returnStat _ _ k hk]; simp [h3]
  refine ⟨by simp, ?_, fun k hk h3 => by simpa using hstat k hk h3, fun r _ => by simp [State.reg], fun q _ => by simp [State.pred],
    by simp [Arch.specials], fun _ => ⟨rfl, rfl, rfl, rfl⟩, rfl, by simp⟩
  exact priv_congr (hstat 6 (by decide) (by decide)) (hstat 7 (by decide) (by decide))

/-- Settles O24: entries by the laws of a taken trap, the return by what `eret` leaves, the words of `trap` by the words behind XI. -/
theorem trapsEnterAndReturn : Obligations.TrapsEnterAndReturn := by
  unfold Obligations.TrapsEnterAndReturn
  refine ⟨⟨fun c xs hl => decode_trap c xs hl, fun s p code h hi => ⟨fun hp hv => ⟨?_, ?_⟩, fun hp hv => ?_⟩⟩,
    fun s p h => ⟨fun hl hx => ?_, fun hl hp hi => ?_⟩⟩
  · exact ⟨_, exec_trap h, takeTrap_entersTvec hi hp rfl hv⟩
  · exact ⟨_, exec_brk h, takeTrap_entersTvec hi hp rfl hv⟩
  · simp only [List.forall_mem_cons, List.not_mem_nil, false_imp_iff, implies_true, and_true]
    exact ⟨⟨_, exec_trap h, takeTrap_system hi hp hv⟩, ⟨_, exec_brk h, takeTrap_system hi hp hv⟩⟩
  · exact ⟨_, exec_eret h, returnFromTrap_returns _ hl hx⟩
  · refine ⟨_, exec_eret h, ?_⟩
    rw [returnFromTrap_privileged _ hl, State.privileged, takeTrap_holds hi hp rfl (by decide)]
    exact ⟨⟨rfl, rfl, rfl, rfl⟩, rfl, rfl⟩

end Sys2Proof.Machine
end

section
/-! PROOFS. Words written out: any chain before a base word, and the entry of the map that takes both (spec/02_encoding.md R29-R39); with them the
lines of the tables of encodings (spec/06_vector.md R153, spec/07_home_memory.md R177, spec/13_matrix.md R300). -/
namespace Sys2Proof

/-- Prefix words that R33 lets stand together before a base word. -/
abbrev IsChain (c : List Half) : Prop :=
  c.length ≤ 4 ∧ (c.all fun w => 0x3C ≤ (op6 w).toNat && !reservedBits w) = true ∧ c.Pairwise fun u v => op6 v = 0x3C ∨ op6 u ≠ op6 v

/-- What checks 3-5 of R39 ask of a chain and a base word at an entry of the map: no XP of page 0, no prefix that the entry refuses, an XM word
where it needs one, and legal fields. -/
abbrev OpSpec.Takes (sp : OpSpec) (c : List Half) (base : Half) : Prop :=
  firstBad (fun w => op6 w = 0x3E && chainPage c = 0) 0 c = none ∧
  firstBad (refusesPrefix (chainPage c) (op6 base).toNat sp) 0 c = none ∧
  ((prefixWord c 0x3F).isNone && !noXmAccepted sp.xm) = false ∧
  baseFieldsLegal (chainPage c) (op6 base).toNat sp (chainFields sp c base) base = true

/-- The words of a chain are read one by one, up to the base word. -/
theorem decodeFrom_chain {base : Half} (hb : (op6 base).toNat < 0x3C) (ds : List Half) :
    ∀ c, IsChain (c ++ ds) → decodeFrom c (ds ++ [base]) = decodeBase (c ++ ds) base := by
  induction ds with
  | nil => intro c _; simp only [List.nil_append, decodeFrom, chainWord_base hb, List.append_nil]
  | cons w ds ih =>
    intro c hc
    obtain ⟨hl, hw, hp⟩ := hc
    obtain ⟨hop, hz⟩ : 0x3C ≤ (op6 w).toNat ∧ reservedBits w = false := by
      simpa using List.all_eq_true.mp hw w (List.mem_append_right c List.mem_cons_self)
    have hr : op6 w = 0x3C ∨ ∀ v ∈ c, op6 v ≠ op6 w := by
      refine (Decidable.em (op6 w = 0x3C)).imp_right fun hx v hv => ?_
      exact ((List.pairwise_append.mp hp).2.2 v hv w List.mem_cons_self).resolve_left hx
    have hmore : chainWord c w = .more (c ++ [w]) :=
      chainWord_prefix hop (by simp only [List.length_append, List.length_cons] at hl; omega) hr hz
    have hassoc : c ++ w :: ds = c ++ [w] ++ ds := by simp
    rw [List.cons_append, decodeFrom, hmore, hassoc]
    exact ih _ (hassoc ▸ ⟨hl, hw, hp⟩)

/-- A chain and a base word that the entry of their point takes are its instruction. -/
theorem decodeBase_of_takes {c : List Half} {base : Half} {sp : OpSpec} (hs : opSpec (chainPage c) (op6 base).toNat = some sp)
    (ht : sp.Takes c base) : decodeBase c base = .ok (sp.make (chainFields sp c base)) (c.length + 1) := by
  obtain ⟨hpage, hprefix, hxm, hfields⟩ := ht
  simp only [decodeBase, hpage, hs, hprefix, hxm, hfields, Bool.false_eq_true, if_false, if_true]

/-- Words decode to what the entry of their point makes of their fields, where the last is a base word, those before it are a chain, and the
entry takes them (R39). -/
theorem decode_of_entry {ws : List Half} (hne : ws ≠ []) {sp : OpSpec} {i : Instr} (hc : IsChain ws.dropLast)
    (hb : (op6 (ws.getLast hne)).toNat < 0x3C) (hs : opSpec (chainPage ws.dropLast) (op6 (ws.getLast hne)).toNat = some sp)
    (ht : sp.Takes ws.dropLast (ws.getLast hne)) (hi : sp.make (chainFields sp ws.dropLast (ws.getLast hne)) = i) :
    decode ws = .ok i ws.length := by
  have hlen : ws.dropLast.length + 1 = ws.length := by
    rw [List.length_dropLast, Nat.sub_add_cancel (List.length_pos_iff.mpr hne)]
  calc decode ws
    _ = decodeFrom [] (ws.dropLast ++ [ws.getLast hne]) := by rw [List.dropLast_concat_getLast hne]; rfl
    _ = decodeBase ws.dropLast (ws.getLast hne) := decodeFrom_chain hb _ [] hc
    _ = .ok i ws.length := by rw [decodeBase_of_takes hs ht, hi, hlen]

/-- Settles O5: in each line the words before the last are a chain, and the entry at their page and the last word's op6 takes them and makes the
instruction; the words of `add` by the points of the map. -/
theorem encodingsDecode : Obligations.EncodingsDecode := by
  unfold Obligations.EncodingsDecode
  refine ⟨?_, ?_, ?_, ?_, ?_⟩
  · exact decode_rrr (op := 0x01) (v := 0) rfl (by decide) (.inr rfl) 1 2 3
  · exact decode_of_entry (by simp) (by decide) (by decide) rfl (by decide) rfl
  · exact decode_xr_rrr (op := 0x01) (v := 0) rfl (by decide) (.inr rfl) 1 2 3 3 1 1 1 1
  · exact decode_of_entry (by simp) (by decide) (by decide) rfl (by decide) rfl
  · simp only [List.forall_mem_cons, List.not_mem_nil, false_imp_iff, implies_true, and_true]
    and_intros <;> exact decode_of_entry (by simp) (by decide) (by decide) rfl (by decide) rfl

end Sys2Proof
end
